-- ==== Sys2Proof/Word.lean ====
section
/-! DEFINITION. The word types of the QT2 and the one table type in which sparse state is held.
The operations on tables and bit fields stand in Machine/Tables.lean and Machine/Bits.lean. -/

namespace Sys2Proof

/-- A register, instruction operand or lane of 32 bits. -/
abbrev Word := BitVec 32
/-- A 64-bit counter, address or time. -/
abbrev DWord := BitVec 64
/-- One byte. -/
abbrev Byte := BitVec 8
/-- One bundle of four slots (R87): 128 bits of instruction memory. -/
abbrev Bundle128 := BitVec 128
/-- The 64 lanes of a vector register (R56), lane 0 first. -/
abbrev Lanes := List Word

/-- A sparse table: pairs of a key and a value, keys strictly rising (`Tbl.wf`).
A key that is not listed stands for the default that its reader names. -/
structure Tbl (α : Type) where
  cells : List (Nat × α)
deriving DecidableEq, Repr

end Sys2Proof
end

