-- ==== Sys2Proof/Syntax.lean ====
section
/-! DEFINITION. The commands of the package: one constructor per row of spec/opcode_table.json. -/

namespace Sys2Proof

/-- Where a packet for this package is taken from: the receive side of a port, or the die network (R428). -/
inductive PktSrc where
  | port (p : Nat) | die (i : Nat)
deriving DecidableEq, Repr

/-- What a management multicast writes (R237): scratchpad or landing area bytes from an address, an instruction memory
bundle, or an entry of the layer table. -/
inductive McastTo where
  | spad (addr : Fin 0x50000)
  | imem (index : Fin 1024)
  | layer (entry : Fin 256)
deriving DecidableEq, Repr

/-- What the FEC decoder says of the codewords that carry a received frame (R394, R421): lanes with corrected codewords and
the symbols corrected in each, and lanes with an uncorrectable codeword. -/
structure FecNote where
  fixed : List (Fin 8 × Nat)
  lost  : List (Fin 8)
deriving DecidableEq, Repr

/-- A command as it stands in a ring's command array (R638), its reserved bytes as one number. -/
structure HostCmd where
  flags   : Byte
  page    : BitVec 16
  tag     : Word
  a       : DWord
  b       : DWord
  len     : DWord
  value   : DWord
  timeout : Word
  rsv     : Nat
deriving DecidableEq, Repr

/-- A command that reads HBM, and the offset of the uncorrectable codeword that it meets there, if any (R572, R641). -/
structure HostRead where
  cmd : HostCmd
  bad : Option Nat
deriving DecidableEq, Repr

/-- A read of n bytes through BAR2, and whether it meets an uncorrectable codeword (R633). -/
structure ReadSpan where
  n   : BitVec 13
  bad : Bool
deriving DecidableEq, Repr

/-- A read of `size` bytes at a BAR0 or BAR4 offset (R628). -/
structure ReadAt where
  off  : BitVec 28
  size : Nat
deriving DecidableEq, Repr

/-- Where a slot executes: a physical tile (index pcore * 204 + row * 17 + position, R683), and whether
another slot of the same bundle follows. A bundle is its slots in a row, the last with `more = false`. -/
structure At where
  tile : Fin 1632
  more : Bool
deriving DecidableEq, Repr

/-- The path of a register access (R677), and BAR4 with its doorbells, MSI-X table and result pages (R627). -/
inductive Path where
  | bar0 | mgmt | tileLocal | bar4
deriving DecidableEq, Repr

/-- What PWR_OK rising finds beside COOL and BOOT_SEL: the MC's I3C address strap and, by link die, whether its reference clock runs
(FREFCLK_W in bit 0, FREFCLK_E in bit 1; R670, R702). -/
structure PinLevels where
  i3cAddr : BitVec 3
  fref    : BitVec 2
deriving DecidableEq, Repr

/-- The port whose lanes detect signal, and whether the reference clock of its link die runs at that moment (R412, R702). -/
structure DetectAt where
  port : Fin 12
  ref  : Bool
deriving DecidableEq, Repr

/-- The dual rail of a source, and whether its RAIL condition now lasts or has ended (R555). -/
structure RailPair where
  src   : Fin 32
  lasts : Bool
deriving DecidableEq, Repr

/-- How the flash takes a clear of the recorder (R590, R594): what the failed read-backs of each CLEARED found, whether the erase ahead of
the first verifies, and the circular sectors whose erase fails verification. -/
structure ClearRun where
  first   : List (List Byte)
  eraseOk : Bool
  bad     : List (Fin 66)
  second  : List (List Byte)
deriving DecidableEq, Repr

/-- Every program and every erase verifies. -/
def ClearRun.clean : ClearRun := { first := [], eraseOk := true, bad := [], second := [] }

/-- A clear: the response and requester identity of a management message, or none for those of the host's registers. -/
structure ClearOrder where
  msg : Option (List Byte × DWord)
  run : ClearRun
deriving DecidableEq, Repr

/-- An image of a firmware slot as the ROM reads it (R670): whether its signature verifies, the digest of its public key, its security
version, its size in bytes and its version. -/
structure FwImage where
  signed    : Bool
  keyDigest : Nat
  security  : Nat
  size      : Nat
  version   : Word
deriving DecidableEq, Repr

/-- What a boot meets in flash (R593, R670): the slot that the header names, the image of each slot, and the recorder sectors whose erase
fails verification. -/
structure BootFlash where
  activeB : Bool
  a       : Option FwImage
  b       : Option FwImage
  bad     : List (Fin 66)
deriving DecidableEq, Repr

/-- A command of the package: one constructor per row of the opcode table. In a tile instruction the
operands are its encoding's fields, and `rsv` holds all its RSV bits (R90). -/
inductive Instr where
  -- S slot (R88, R93, R156)
  | nop (at_ : At) (slot : Fin 4) (rsv : BitVec 26)
  | alu (at_ : At) (sD sA sB : BitVec 6) (fn : BitVec 8)
  | mul (at_ : At) (sD sA sB : BitVec 6) (fn : BitVec 8)
  | addi (at_ : At) (sD sA : BitVec 6) (imm : BitVec 14)
  | andi (at_ : At) (sD sA : BitVec 6) (imm : BitVec 14)
  | ori (at_ : At) (sD sA : BitVec 6) (imm : BitVec 14)
  | xori (at_ : At) (sD sA : BitVec 6) (imm : BitVec 14)
  | shifti (at_ : At) (sD sA : BitVec 6) (kind : BitVec 2) (amount : BitVec 5) (rsv : BitVec 7)
  | slti (at_ : At) (sD sA : BitVec 6) (imm : BitVec 14)
  | lui (at_ : At) (sD : BitVec 6) (imm : BitVec 20)
  | br (at_ : At) (sA sB : BitVec 6) (cond : BitVec 4) (target : BitVec 10)
  | brp (at_ : At) (p : BitVec 3) (all : Bool) (target : BitVec 10) (rsv : BitVec 12)
  | call (at_ : At) (sD : BitVec 6) (target : BitVec 10) (rsv : BitVec 10)
  | jr (at_ : At) (sA : BitVec 6) (rsv : BitVec 20)
  | halt (at_ : At) (rsv : BitVec 26)
  | trap (at_ : At) (imm : BitVec 16) (rsv : BitVec 10)
  | aaddi (at_ : At) (aD aA : BitVec 4) (imm : BitVec 18)
  | a2addi (at_ : At) (aD aA : BitVec 4) (dr dc : BitVec 8) (rsv : BitVec 2)
  | amov (at_ : At) (aD : BitVec 4) (sA : BitVec 6) (rsv : BitVec 16)
  | aread (at_ : At) (sD : BitVec 6) (aA : BitVec 4) (rsv : BitVec 16)
  | a2set (at_ : At) (aD : BitVec 4) (sA sB : BitVec 6) (rsv : BitVec 10)
  | aadd (at_ : At) (aD aA : BitVec 4) (sB : BitVec 6) (rsv : BitVec 12)
  | a2add (at_ : At) (aD aA : BitVec 4) (sB : BitVec 6) (rsv : BitVec 12)
  | csw (at_ : At) (rsv : BitVec 26)
  | ltrd (at_ : At) (sD sL : BitVec 6) (rsv : BitVec 14)
  | ltwr (at_ : At) (sL sV : BitVec 6) (rsv : BitVec 14)
  -- X slot: loads and stores (R99, R100)
  | ldw (at_ : At) (sD : BitVec 6) (aB : BitVec 4) (u : Bool) (imm : BitVec 15)
  | ldh (at_ : At) (sD : BitVec 6) (aB : BitVec 4) (u : Bool) (imm : BitVec 15)
  | ldhu (at_ : At) (sD : BitVec 6) (aB : BitVec 4) (u : Bool) (imm : BitVec 15)
  | ldb (at_ : At) (sD : BitVec 6) (aB : BitVec 4) (u : Bool) (imm : BitVec 15)
  | ldbu (at_ : At) (sD : BitVec 6) (aB : BitVec 4) (u : Bool) (imm : BitVec 15)
  | stw (at_ : At) (sA : BitVec 6) (aB : BitVec 4) (u : Bool) (imm : BitVec 15)
  | sth (at_ : At) (sA : BitVec 6) (aB : BitVec 4) (u : Bool) (imm : BitVec 15)
  | stb (at_ : At) (sA : BitVec 6) (aB : BitVec 4) (u : Bool) (imm : BitVec 15)
  | ldvW (at_ : At) (vD : BitVec 5) (aB : BitVec 4) (u : Bool) (p : BitVec 3) (imm : BitVec 12) (rsv : BitVec 1)
  | ldvHu (at_ : At) (vD : BitVec 5) (aB : BitVec 4) (u : Bool) (p : BitVec 3) (imm : BitVec 12) (rsv : BitVec 1)
  | ldvB (at_ : At) (vD : BitVec 5) (aB : BitVec 4) (u : Bool) (p : BitVec 3) (imm : BitVec 12) (rsv : BitVec 1)
  | stvW (at_ : At) (vA : BitVec 5) (aB : BitVec 4) (u : Bool) (p : BitVec 3) (imm : BitVec 12) (rsv : BitVec 1)
  | stvH (at_ : At) (vA : BitVec 5) (aB : BitVec 4) (u : Bool) (p : BitVec 3) (imm : BitVec 12) (rsv : BitVec 1)
  | stvB (at_ : At) (vA : BitVec 5) (aB : BitVec 4) (u : Bool) (p : BitVec 3) (imm : BitVec 12) (rsv : BitVec 1)
  | ldv2 (at_ : At) (vD : BitVec 5) (aB : BitVec 4) (sP : BitVec 6) (dir : Bool) (p : BitVec 3) (rsv : BitVec 7)
  | stv2 (at_ : At) (vA : BitVec 5) (aB : BitVec 4) (sP : BitVec 6) (dir : Bool) (p : BitVec 3) (rsv : BitVec 7)
  -- X slot: queues, sync objects, streams, remote writes (R105, R108, R157, R254)
  | sendReq (at_ : At) (vA : BitVec 5) (sDst len : BitVec 6) (rsv : BitVec 9)
  | sendRpl (at_ : At) (vA : BitVec 5) (sDst len : BitVec 6) (rsv : BitVec 9)
  | qrd (at_ : At) (dest : BitVec 6) (qn : BitVec 4) (kind : BitVec 1) (rsv : BitVec 15)
  | qcnt (at_ : At) (sD : BitVec 6) (qn : BitVec 4) (kind : BitVec 1) (rsv : BitVec 15)
  | sadd (at_ : At) (sD sObj sVal : BitVec 6) (rsv : BitVec 8)
  | sset (at_ : At) (sD sObj sVal : BitVec 6) (rsv : BitVec 8)
  | scas (at_ : At) (sD sObj sExp sNew : BitVec 6) (rsv : BitVec 2)
  | watch (at_ : At) (sObj sTgt : BitVec 6) (cond : BitVec 1) (qn : BitVec 4) (rsv : BitVec 9)
  | bara (at_ : At) (sBar : BitVec 6) (qn : BitVec 4) (rsv : BitVec 16)
  | sstart (at_ : At) (sD sCtx : BitVec 6) (rsv : BitVec 14)
  | sstop (at_ : At) (sD sCtx : BitVec 6) (rsv : BitVec 14)
  | rstat (at_ : At) (sD : BitVec 6) (rp : BitVec 3) (rsv : BitVec 17)
  | rldv (at_ : At) (vD : BitVec 5) (rp : BitVec 3) (p : BitVec 3) (off : BitVec 12) (rsv : BitVec 3)
  | rrel (at_ : At) (rp : BitVec 3) (rsv : BitVec 23)
  | rstv (at_ : At) (vA : BitVec 5) (rp : BitVec 3) (p : BitVec 3) (off : BitVec 12) (rsv : BitVec 3)
  | rpub (at_ : At) (rp : BitVec 3) (sLen : BitVec 6) (rsv : BitVec 17)
  | put (at_ : At) (vA n : BitVec 5) (len lc : BitVec 6) (lcEn : Bool) (rsv : BitVec 3)
  | putg (at_ : At) (vA n : BitVec 5) (len lc : BitVec 6) (lcEn : Bool) (rsv : BitVec 3)
  | waitc (at_ : At) (lc sTgt : BitVec 6) (cond : BitVec 1) (rsv : BitVec 13)
  | lwatch (at_ : At) (lc sTgt : BitVec 6) (cond : BitVec 1) (qn : BitVec 4) (rsv : BitVec 9)
  | lcop (at_ : At) (sD lc sVal : BitVec 6) (fn : BitVec 2) (rsv : BitVec 6)
  | tpost (at_ : At) (n : BitVec 5) (sId : BitVec 6) (kind : BitVec 1) (rsv : BitVec 14)
  -- V slot (R112, R113, R147 to R155)
  | vfp (at_ : At) (vD vA vB : BitVec 5) (p : BitVec 3) (fn : BitVec 8)
  | vfma (at_ : At) (vD vA vB vC : BitVec 5) (p : BitVec 3) (rsv : BitVec 3)
  | vint (at_ : At) (vD vA vB : BitVec 5) (p : BitVec 3) (fn : BitVec 8)
  | vsop (at_ : At) (vD vA : BitVec 5) (sB : BitVec 6) (p : BitVec 3) (fn : BitVec 7)
  | vcmp (at_ : At) (pD : BitVec 3) (vA vB : BitVec 5) (p : BitVec 3) (cond : BitVec 4) (rsv : BitVec 6)
  | vsel (at_ : At) (vD vA vB : BitVec 5) (p : BitVec 3) (rsv : BitVec 8)
  | vcvt (at_ : At) (vD vA : BitVec 5) (sB : BitVec 6) (p : BitVec 3) (fn : BitVec 7)
  | vred (at_ : At) (sD : BitVec 6) (vA : BitVec 5) (p : BitVec 3) (fn : BitVec 6) (rsv : BitVec 6)
  | vext (at_ : At) (sD : BitVec 6) (vA : BitVec 5) (sB : BitVec 6) (rsv : BitVec 9)
  | vins (at_ : At) (vD : BitVec 5) (sA sB : BitVec 6) (rsv : BitVec 9)
  | vmov (at_ : At) (vD vA : BitVec 5) (p : BitVec 3) (rsv : BitVec 13)
  | viota (at_ : At) (vD : BitVec 5) (sB : BitVec 6) (p : BitVec 3) (rsv : BitVec 12)
  | plogic (at_ : At) (pD pA pB : BitVec 3) (fn : BitVec 4) (rsv : BitVec 13)
  | pmov (at_ : At) (pD : BitVec 3) (sA sB : BitVec 6) (rsv : BitVec 11)
  | vcvtt (at_ : At) (vD vA vO n : BitVec 5) (p : BitVec 3) (fn : BitVec 3)
  | updx (at_ : At) (vD vA : BitVec 5) (sL : BitVec 6) (p : BitVec 3) (rsv : BitVec 7)
  | vwop (at_ : At) (vD vA : BitVec 5) (sB : BitVec 6) (p : BitVec 3) (fn : BitVec 7)
  | vcrc (at_ : At) (n vA : BitVec 5) (len : BitVec 6) (rsv : BitVec 10)
  -- M slot (R118, R128 to R144)
  | mzero (at_ : At) (g : BitVec 2) (type : BitVec 1) (rsv : BitVec 23)
  | mmaBf16 (at_ : At) (g : BitVec 2) (aA aB : BitVec 4) (sK : BitVec 6) (rsv : BitVec 10)
  | mmaI8 (at_ : At) (g : BitVec 2) (aA aB : BitVec 4) (sK : BitVec 6) (rsv : BitVec 10)
  | mst (at_ : At) (g : BitVec 2) (aD : BitVec 4) (sP sS : BitVec 6) (fmt : BitVec 3) (rsv : BitVec 5)
  | msat (at_ : At) (g : BitVec 2) (sD : BitVec 6) (rsv : BitVec 18)
  | mopen (at_ : At) (g : BitVec 2) (type : BitVec 1) (panel : BitVec 2) (rsv : BitVec 21)
  | mmaf (at_ : At) (g : BitVec 2) (aA aB : BitVec 4) (sK : BitVec 6) (fa fb : BitVec 4) (rsv : BitVec 2)
  | mclose (at_ : At) (g : BitVec 2) (aC : BitVec 4) (sS : BitVec 6) (rsv : BitVec 14)
  | msatc (at_ : At) (g : BitVec 2) (sD : BitVec 6) (rsv : BitVec 18)
  -- Tile, pool and scratchpad events (03, 08)
  | wcbIdleFlush (tile : Fin 1632) (entry : Fin 4)
  | preemptSwitch (tile : Fin 1632)
  | stallSwitch (tile : Fin 1632)
  | ctxRunWrite (tile : Fin 1632) (value : Word)
  | cntClear (path : Path) (tile : Fin 1632) (value : Word)
  | counterLatchRead (path : Path) (access : ReadAt)
  | poolWindowClose (core : Fin 8) (line : BitVec 18)
  | putArrival (i : Nat)
  | mcastWrite (tiles : List (Fin 1632)) (dest : McastTo) (data : List Byte)
  -- Streams (09)
  | segmentGrant (core : Fin 8)
  | segmentComplete (i : Nat) (bad : Bool)
  | stageComplete (core : Fin 8) (ctx : Fin 1024)
  | streamUnderrun (tile : Fin 1632) (rp : Fin 8) (output : Bool)
  | strRetClear (core : Fin 8) (value : Word)
  -- Queues (10)
  | queueArrival (i : Nat)
  | queueSpill (tile : Fin 1632) (reply : Bool)
  | spillReturn (tile : Fin 1632) (queue : Fin 16)
  | coreQueueStore (i : Nat)
  | coreQueueForward (core : Fin 8) (queue : Fin 1024)
  | cqPop (core : Fin 8) (value : Word)
  | qinjCmd (core : Fin 8) (value : Word)
  | queueDeadlockSuspect (x y : Fin 1632) (replyX replyY : Bool)
  | channelLineFlush (i : Nat)
  -- Synchronisation (11)
  | syncOpApply (i : Nat)
  | barrierArrive (i : Nat)
  | barrierRelease (i : Nat)
  | barrierTimeout (core : Fin 8) (bar : Fin 256) (gen : Bool) (level : Fin 5) (row : Fin 12)
  | arrive (src : PktSrc)
  | release (src : PktSrc)
  | barReset (core : Fin 8) (value : Word)
  | watchClear (core : Fin 8) (value : Word)
  | hopAdd (core : Fin 8)
  | hopSet (core : Fin 8)
  | forceSet (core : Fin 8) (mgmt : Bool)
  | forceAdd (core : Fin 8) (mgmt : Bool)
  | forceRelease (core : Fin 8) (mgmt : Bool) (bar : Fin 256) (gen : Bool)
  -- Fabric time and the forecast (13)
  | tsyncReq (port : Fin 12)
  | tsyncRpl (port : Fin 12)
  | tsyncLost (seq : BitVec 16)
  | discEnable (path : Path) (value : Word)
  | lullSample (low : Bool)
  | slip (src : PktSrc)
  -- Fabric links (14)
  | dataFrame (port : Fin 12) (raw : BitVec 2048) (fec : FecNote)
  | nullFrame (port : Fin 12) (raw : BitVec 2048) (fec : FecNote)
  | nak (port : Fin 12) (raw : BitVec 2048) (fec : FecNote)
  | exch (port : Fin 12) (raw : BitVec 2048) (fec : FecNote)
  | frameSend (port : Fin 12)
  | nakRepeat (port : Fin 12)
  | ackTimeout (port : Fin 12)
  | rxSilence (port : Fin 12) (held : Bool) (signal lock : Byte)
  | rxHoldExpire (port : Fin 12)
  | silenceDown (port : Fin 12)
  | trainingPatternRx (port : Fin 12)
  | signalDetect (at_ : DetectAt)
  | equalizeDone (port : Fin 12)
  | alignDone (port : Fin 12)
  | exchSend (port : Fin 12)
  | trainTimeout (port : Fin 12)
  | downExpire (port : Fin 12)
  | trainEnWrite (port : Fin 12) (value : Word)
  | retrain (port : Fin 12)
  | flush (port : Fin 12)
  -- The global memory space (15)
  | rd (src : PktSrc)
  | wr (src : PktSrc)
  | wrl (src : PktSrc)
  | add (src : PktSrc)
  | rdr (src : PktSrc)
  | ack (src : PktSrc)
  | err (src : PktSrc)
  | packetForward (port : Fin 12) (vc : Fin 4)
  | fabEpochWrite (value : Word)
  | probe (src : PktSrc)
  | probeAck (src : PktSrc)
  | probeTimeout (entry : Fin 64)
  -- Collectives (16)
  | collDescWrite (path : Path) (core : Fin 8) (off : BitVec 12) (value : Word)
  | collStart (core : Fin 8) (desc : Fin 64)
  | maxe (src : PktSrc)
  | egath (src : PktSrc)
  | wadd (src : PktSrc)
  | wgath (src : PktSrc)
  | vmax (src : PktSrc)
  | vsum (src : PktSrc)
  | vput (src : PktSrc)
  | collComplete (core : Fin 8) (desc : Fin 64)
  -- Telemetry, step commit and resilience (17, 19, 23)
  | fingerprintPost (i : Nat)
  | barometerFlush (i : Nat)
  | fgpDrainDone (longReduction : Bool)
  | keystoneAck (target : Fin 3)
  | keystoneTimeout (target : Fin 3)
  | ksRetry (value : Word)
  | rerun (path : Path) (value : Word)
  -- Fault collection (20)
  | faultEvent (page : BitVec 13) (src : Fin 32) (detail : Nat)
  | rail (page : BitVec 13) (rails : RailPair)
  | dewpointWindowEnd (page : BitVec 13) (reg : Fin 4)
  | ackReset (path : Path)
  | healthWrite (off : BitVec 12) (value : Word)
  | checkrun (fails memFails : List (Fin 1632)) (left : List (Fin 1632 × List Byte)) (top : List (Fin 8 × List Byte))
  | reportResend (seq : Byte)
  | reportResponse (seq : Byte)
  -- Event recorder (21)
  | evrRecordWrite (readBack : Option (List Byte)) (eraseOk : Bool)
  | chal (mgmt : Bool)
  | clear (order : ClearOrder)
  | keySet (key : List Byte) (id : DWord) (resp : List Byte)
  | evrReadMsg (circular : Bool) (first : BitVec 13) (more : Fin 16)
  | evrWinSel (value : Word)
  -- Power (22)
  | gustPeriod (energy estimate gated : List Nat) (avgW : Nat)
  | grantSpent (consumer : Fin 16) (cycles : Nat)
  | sensorRead (readings : List (Fin 46 × BitVec 12))
  | sensorFail (sensor : Fin 46)
  | clkCapWrite (value : Word)
  | hbmRefreshDue (port : Fin 8)
  -- Host interface (23)
  | cmdTail (ring : Fin 64) (index : Word)
  | cplHead (ring : Fin 64) (index : Word)
  | ringEnable (path : Path) (ring : Fin 64) (value : Word)
  | cmdNop (ring : Fin 64) (opcode : Byte) (cmd : HostCmd)
  | copyH2d (ring : Fin 64) (cmd : HostCmd) (data : List Byte)
  | copyD2h (ring : Fin 64) (cmd : HostRead)
  | fill (ring : Fin 64) (cmd : HostCmd)
  | crc (ring : Fin 64) (cmd : HostRead)
  | sync (ring : Fin 64) (cmd : HostCmd)
  | wait (ring : Fin 64) (cmd : HostCmd)
  | waitComplete (ring : Fin 64)
  | waitTimeout (ring : Fin 64)
  | read (ring : Fin 64) (cmd : HostRead)
  | time (ring : Fin 64) (cmd : HostCmd)
  | irqTimer (ring : Fin 64)
  | resultAck (page : BitVec 12) (seq : Word)
  | dlvEnable (value : Word)
  | bar2Read (off : BitVec 36) (span : ReadSpan)
  | bar2Write (off : BitVec 36) (data : List Byte)
  -- Reset and start-up (24)
  | powerUp (cool1 cool2 : BitVec 2) (bootSel : Bool) (levels : PinLevels)
  | perstDeassert (link : BitVec 9)
  | mcBoot (flash : BootFlash)
  | fuse (ok : Bool)
  | hbmTrain (failed : BitVec 8) (lanes : List Byte)
  | tileFw (version : Word) (fails memFails : List (Fin 1632)) (left : List (Fin 1632 × List Byte)) (top : List (Fin 8 × List Byte))
  -- Register accesses (25)
  | blkCtrlEn (path : Path) (off : BitVec 26) (value : Word)
  | softReset (path : Path) (off : BitVec 26) (value : Word)
  | registerWrite (path : Path) (off : BitVec 28) (size : Nat) (value : Word)
  | reservedOpcode (at_ : At) (slot : Fin 4) (word : Word)
  | configurationRequest (ms : BitVec 16)
  | firmwareUpdate (tileFirmware : Bool) (version : Word) (cleared : List (BitVec 13))
  -- Events and commands without operands, in the order of the table
  | realignApply
  | tsyncReqSend
  | timebaseLost
  | holdoverExpire
  | epochEdge
  | fcArm
  | fcDisarm
  | fcClr
  | superstepOrigin
  | slotOpen
  | slipDeclare
  | stepDeadline
  | probeStart
  | rqRead
  | rqWrite
  | rqAdd
  | commitBegin
  | commitEffect
  | snapshotDone
  | stepBundleDeliver
  | dlvHeld
  | fenceSequence
  | fenceComplete
  | fenceTimeout
  | unfence
  | fence
  | clrCnt
  | minuteTick
  | counterAppend
  | challengeExpire
  | throttleExt
  | throttleRelease
  | calm
  | wake
  | calmEntered
  | wakeDone
  | functionLevelReset
  | powerDown
  | railLoss
  | perstAssert
  | sramInit
  | hbmZero
  | jtagTrst
  | timebaseReturn
  | throttleNHigh
  | smbusFallback
deriving DecidableEq, Repr

end Sys2Proof
end

