-- ==== Sys2Proof/Decode.lean ====
section
/-! DEFINITION. Decoding of instruction memory (04 R87 to R89, R92 to R118, 05 R128 to R157, 09 R254): the four slots of a bundle, and
the instruction of a slot's word, with its fields in the places of its format. `decodeTableWord` is what the host asks: no row of
spec/opcode_table.json gives bits, so no word spells a command of the block. -/

namespace Sys2Proof

/-- The command that a word of `_nbits` bits spells: none, since no row of the table gives bits. -/
def decodeTableWord (_nbits _w : Nat) : Option Instr := none

/-- Bits lo + n - 1 to lo of a slot's word. -/
def bitsAt (w : Word) (lo n : Nat) : BitVec n := w.extractLsb' lo n

/-- One bit of a slot's word. -/
def bitAt (w : Word) (lo : Nat) : Bool := w.getLsbD lo

/-- Bits [31:26] of a slot's word (R88). -/
def opcodeOf (w : Word) : Nat := (bitsAt w 26 6).toNat

/-- S slot (R92, R93, R95, R96, R156); none for an undefined opcode. -/
def decodeS (a : At) (w : Word) : Option Instr :=
  let f := bitsAt w
  match opcodeOf w with
  | 0x01 => some (.alu a (f 20 6) (f 14 6) (f 8 6) (f 0 8))
  | 0x02 => some (.mul a (f 20 6) (f 14 6) (f 8 6) (f 0 8))
  | 0x03 => some (.addi a (f 20 6) (f 14 6) (f 0 14))
  | 0x04 => some (.andi a (f 20 6) (f 14 6) (f 0 14))
  | 0x05 => some (.ori a (f 20 6) (f 14 6) (f 0 14))
  | 0x06 => some (.xori a (f 20 6) (f 14 6) (f 0 14))
  | 0x07 => some (.shifti a (f 20 6) (f 14 6) (f 12 2) (f 0 5) (f 5 7))
  | 0x08 => some (.slti a (f 20 6) (f 14 6) (f 0 14))
  | 0x09 => some (.lui a (f 20 6) (f 0 20))
  | 0x0A => some (.br a (f 20 6) (f 14 6) (f 10 4) (f 0 10))
  | 0x0B => some (.brp a (f 23 3) (bitAt w 22) (f 0 10) (f 10 12))
  | 0x0C => some (.call a (f 20 6) (f 0 10) (f 10 10))
  | 0x0D => some (.jr a (f 14 6) (f 20 6 ++ f 0 14))
  | 0x0E => some (.halt a (f 0 26))
  | 0x0F => some (.trap a (f 0 16) (f 16 10))
  | 0x10 => some (.aaddi a (f 22 4) (f 18 4) (f 0 18))
  | 0x11 => some (.a2addi a (f 22 4) (f 18 4) (f 8 8) (f 0 8) (f 16 2))
  | 0x12 => some (.amov a (f 22 4) (f 12 6) (f 18 4 ++ f 0 12))
  | 0x13 => some (.aread a (f 20 6) (f 16 4) (f 0 16))
  | 0x14 => some (.a2set a (f 22 4) (f 12 6) (f 6 6) (f 18 4 ++ f 0 6))
  | 0x15 => some (.aadd a (f 22 4) (f 18 4) (f 12 6) (f 0 12))
  | 0x16 => some (.a2add a (f 22 4) (f 18 4) (f 12 6) (f 0 12))
  | 0x18 => some (.csw a (f 0 26))
  | 0x19 => some (.ltrd a (f 20 6) (f 14 6) (f 0 14))
  | 0x1A => some (.ltwr a (f 14 6) (f 8 6) (f 20 6 ++ f 0 8))
  | _ => none

/-- M slot (R118, R128, R130, R137, R144). -/
def decodeM (a : At) (w : Word) : Option Instr :=
  let f := bitsAt w
  match opcodeOf w with
  | 0x01 => some (.mzero a (f 24 2) (f 23 1) (f 0 23))
  | 0x02 => some (.mmaBf16 a (f 24 2) (f 20 4) (f 16 4) (f 10 6) (f 0 10))
  | 0x03 => some (.mmaI8 a (f 24 2) (f 20 4) (f 16 4) (f 10 6) (f 0 10))
  | 0x04 => some (.mst a (f 24 2) (f 20 4) (f 14 6) (f 8 6) (f 5 3) (f 0 5))
  | 0x05 => some (.msat a (f 24 2) (f 18 6) (f 0 18))
  | 0x08 => some (.mopen a (f 24 2) (f 23 1) (f 21 2) (f 0 21))
  | 0x09 => some (.mmaf a (f 24 2) (f 20 4) (f 16 4) (f 10 6) (f 6 4) (f 2 4) (f 0 2))
  | 0x0A => some (.mclose a (f 24 2) (f 20 4) (f 14 6) (f 0 14))
  | 0x0B => some (.msatc a (f 24 2) (f 18 6) (f 0 18))
  | _ => none

/-- V slot (R112, R113, R147, R151, R154, R155). -/
def decodeV (a : At) (w : Word) : Option Instr :=
  let f := bitsAt w
  match opcodeOf w with
  | 0x01 => some (.vfp a (f 21 5) (f 16 5) (f 11 5) (f 8 3) (f 0 8))
  | 0x02 => some (.vfma a (f 21 5) (f 16 5) (f 11 5) (f 6 5) (f 3 3) (f 0 3))
  | 0x04 => some (.vint a (f 21 5) (f 16 5) (f 11 5) (f 8 3) (f 0 8))
  | 0x05 => some (.vsop a (f 21 5) (f 16 5) (f 10 6) (f 7 3) (f 0 7))
  | 0x06 => some (.vcmp a (f 23 3) (f 16 5) (f 11 5) (f 8 3) (f 0 4) (f 21 2 ++ f 4 4))
  | 0x07 => some (.vsel a (f 21 5) (f 16 5) (f 11 5) (f 8 3) (f 0 8))
  | 0x08 => some (.vcvt a (f 21 5) (f 16 5) (f 10 6) (f 7 3) (f 0 7))
  | 0x09 => some (.vred a (f 20 6) (f 15 5) (f 12 3) (f 0 6) (f 6 6))
  | 0x0A => some (.vext a (f 20 6) (f 15 5) (f 9 6) (f 0 9))
  | 0x0B => some (.vins a (f 21 5) (f 15 6) (f 9 6) (f 0 9))
  | 0x0C => some (.vmov a (f 21 5) (f 16 5) (f 8 3) (f 11 5 ++ f 0 8))
  | 0x0D => some (.viota a (f 21 5) (f 10 6) (f 7 3) (f 16 5 ++ f 0 7))
  | 0x0E => some (.plogic a (f 23 3) (f 20 3) (f 17 3) (f 0 4) (f 4 13))
  | 0x0F => some (.pmov a (f 23 3) (f 17 6) (f 11 6) (f 0 11))
  | 0x10 => some (.vcvtt a (f 21 5) (f 16 5) (f 11 5) (f 6 5) (f 3 3) (f 0 3))
  | 0x11 => some (.updx a (f 21 5) (f 16 5) (f 10 6) (f 7 3) (f 0 7))
  | 0x12 => some (.vwop a (f 21 5) (f 16 5) (f 10 6) (f 7 3) (f 0 7))
  | 0x13 => some (.vcrc a (f 21 5) (f 16 5) (f 10 6) (f 0 10))
  | _ => none

/-- X slot (R99, R100, R105, R108, R157, R254). -/
def decodeX (a : At) (w : Word) : Option Instr :=
  let f := bitsAt w
  match opcodeOf w with
  | 0x01 => some (.ldw a (f 20 6) (f 16 4) (bitAt w 15) (f 0 15))
  | 0x02 => some (.ldh a (f 20 6) (f 16 4) (bitAt w 15) (f 0 15))
  | 0x03 => some (.ldhu a (f 20 6) (f 16 4) (bitAt w 15) (f 0 15))
  | 0x04 => some (.ldb a (f 20 6) (f 16 4) (bitAt w 15) (f 0 15))
  | 0x05 => some (.ldbu a (f 20 6) (f 16 4) (bitAt w 15) (f 0 15))
  | 0x06 => some (.stw a (f 20 6) (f 16 4) (bitAt w 15) (f 0 15))
  | 0x07 => some (.sth a (f 20 6) (f 16 4) (bitAt w 15) (f 0 15))
  | 0x08 => some (.stb a (f 20 6) (f 16 4) (bitAt w 15) (f 0 15))
  | 0x09 => some (.ldvW a (f 21 5) (f 16 4) (bitAt w 15) (f 12 3) (f 0 12) (f 20 1))
  | 0x0A => some (.ldvHu a (f 21 5) (f 16 4) (bitAt w 15) (f 12 3) (f 0 12) (f 20 1))
  | 0x0B => some (.ldvB a (f 21 5) (f 16 4) (bitAt w 15) (f 12 3) (f 0 12) (f 20 1))
  | 0x0C => some (.stvW a (f 21 5) (f 16 4) (bitAt w 15) (f 12 3) (f 0 12) (f 20 1))
  | 0x0D => some (.stvH a (f 21 5) (f 16 4) (bitAt w 15) (f 12 3) (f 0 12) (f 20 1))
  | 0x0E => some (.stvB a (f 21 5) (f 16 4) (bitAt w 15) (f 12 3) (f 0 12) (f 20 1))
  | 0x10 => some (.ldv2 a (f 21 5) (f 16 4) (f 10 6) (bitAt w 9) (f 6 3) (f 20 1 ++ f 0 6))
  | 0x11 => some (.stv2 a (f 21 5) (f 16 4) (f 10 6) (bitAt w 9) (f 6 3) (f 20 1 ++ f 0 6))
  | 0x18 => some (.sendReq a (f 21 5) (f 15 6) (f 9 6) (f 0 9))
  | 0x19 => some (.sendRpl a (f 21 5) (f 15 6) (f 9 6) (f 0 9))
  | 0x1A => some (.qrd a (f 20 6) (f 16 4) (f 15 1) (f 0 15))
  | 0x1B => some (.qcnt a (f 20 6) (f 16 4) (f 15 1) (f 0 15))
  | 0x20 => some (.sadd a (f 20 6) (f 14 6) (f 8 6) (f 0 8))
  | 0x21 => some (.sset a (f 20 6) (f 14 6) (f 8 6) (f 0 8))
  | 0x22 => some (.scas a (f 20 6) (f 14 6) (f 8 6) (f 2 6) (f 0 2))
  | 0x23 => some (.watch a (f 20 6) (f 14 6) (f 13 1) (f 9 4) (f 0 9))
  | 0x24 => some (.bara a (f 20 6) (f 16 4) (f 0 16))
  | 0x28 => some (.sstart a (f 20 6) (f 14 6) (f 0 14))
  | 0x29 => some (.sstop a (f 20 6) (f 14 6) (f 0 14))
  | 0x2A => some (.rstat a (f 20 6) (f 17 3) (f 0 17))
  | 0x2B => some (.rldv a (f 21 5) (f 18 3) (f 15 3) (f 0 12) (f 12 3))
  | 0x2C => some (.rrel a (f 18 3) (f 21 5 ++ f 0 18))
  | 0x2D => some (.rstv a (f 21 5) (f 18 3) (f 15 3) (f 0 12) (f 12 3))
  | 0x2E => some (.rpub a (f 18 3) (f 12 6) (f 21 5 ++ f 0 12))
  | 0x30 => some (.put a (f 21 5) (f 16 5) (f 10 6) (f 4 6) (bitAt w 3) (f 0 3))
  | 0x31 => some (.putg a (f 21 5) (f 16 5) (f 10 6) (f 4 6) (bitAt w 3) (f 0 3))
  | 0x32 => some (.waitc a (f 20 6) (f 14 6) (f 13 1) (f 0 13))
  | 0x33 => some (.lwatch a (f 20 6) (f 14 6) (f 13 1) (f 9 4) (f 0 9))
  | 0x34 => some (.lcop a (f 20 6) (f 14 6) (f 8 6) (f 0 2) (f 2 6))
  | 0x35 => some (.tpost a (f 21 5) (f 15 6) (f 14 1) (f 0 14))
  | _ => none

/-- The instruction of a slot's word: opcode 0 is NOP in every slot (R88), and an opcode that is not defined for the slot is a
reserved one (R89). -/
def decodeSlot (a : At) (slot : Fin 4) (w : Word) : Instr :=
  if opcodeOf w = 0 then .nop a slot (bitsAt w 0 26)
  else ((match slot with
    | 0 => decodeS a w
    | 1 => decodeM a w
    | 2 => decodeV a w
    | 3 => decodeX a w) : Option Instr).getD (.reservedOpcode a slot w)

/-- The word's opcode is defined for no instruction of the slot (R89). -/
def undefinedOpcode (a : At) (slot : Fin 4) (w : Word) : Bool := decide (decodeSlot a slot w = .reservedOpcode a slot w)

/-- The four slots of a bundle of tile t (R87): S in bits [31:0], M, V, and X in bits [127:96]. -/
def decodeBundle (t : Fin 1632) (b : BitVec 128) : List Instr :=
  [decodeSlot ⟨t, true⟩ 0 (b.extractLsb' 0 32), decodeSlot ⟨t, true⟩ 1 (b.extractLsb' 32 32),
   decodeSlot ⟨t, true⟩ 2 (b.extractLsb' 64 32), decodeSlot ⟨t, false⟩ 3 (b.extractLsb' 96 32)]

/-- What a slot's command stands for: a word given as a reserved opcode stands for the instruction it decodes to. -/
def Instr.decoded (i : Instr) : Instr :=
  match i with
  | .reservedOpcode a slot w => decodeSlot a slot w
  | _ => i

end Sys2Proof
end

