-- ==== Sys2Proof/Machine/Bits.lean ====
section
/-! DEFINITION. Bit fields, sign extension and byte order (R93 to R104 and the register tables use them). -/

namespace Sys2Proof

/-- Bits [lo + len - 1 : lo] of a word, as a number. -/
def fld {w : Nat} (x : BitVec w) (lo len : Nat) : Nat := (x.toNat >>> lo) % 2 ^ len

/-- Bit `i` of a word. -/
def bit {w : Nat} (x : BitVec w) (i : Nat) : Bool := x.getLsbD i

/-- The word with bits [lo + len - 1 : lo] replaced by `v`. -/
def setFld {w : Nat} (x : BitVec w) (lo len v : Nat) : BitVec w :=
  let m : BitVec w := BitVec.ofNat w ((2 ^ len - 1) * 2 ^ lo)
  (x &&& ~~~ m) ||| (BitVec.ofNat w (v * 2 ^ lo) &&& m)

/-- The word with bit `i` set to `b`. -/
def setBit {w : Nat} (x : BitVec w) (i : Nat) (b : Bool) : BitVec w := setFld x i 1 (if b then 1 else 0)

/-- A word made of fields `(lo, value)`. -/
def packFields (w : Nat) (fs : List (Nat × Nat)) : BitVec w :=
  fs.foldl (fun acc f => acc ||| BitVec.ofNat w (f.2 * 2 ^ f.1)) 0

/-- 0 or 1. -/
def b2n (b : Bool) : Nat := if b then 1 else 0

/-- The bytes of a number, least significant first. -/
def bytesLE (n v : Nat) : List Byte := (List.range n).map fun i => BitVec.ofNat 8 (v / 256 ^ i)

/-- The number whose bytes are given, least significant first. -/
def ofBytesLE : List Byte → Nat
  | [] => 0
  | b :: r => b.toNat + 256 * ofBytesLE r

/-- The bytes of a number, most significant first. -/
def bytesBE (n v : Nat) : List Byte := (bytesLE n v).reverse

/-- Low and high words of a 64-bit value. -/
def loWord (x : DWord) : Word := x.setWidth 32
def hiWord (x : DWord) : Word := (x >>> 32).setWidth 32
def joinWords (hi lo : Word) : DWord := (hi.setWidth 64 <<< 32) ||| lo.setWidth 64

/-- Adds to a count that stops at its maximum. -/
def satAdd {w : Nat} (x : BitVec w) (n : Nat) : BitVec w :=
  BitVec.ofNat w (min (x.toNat + n) (2 ^ w - 1))

/-- The indices of the bits that are 1, ascending. -/
def onesOf {w : Nat} (x : BitVec w) : List Nat := (List.range w).filter fun i => x.getLsbD i

/-- How many bits are 1. -/
def popCount {w : Nat} (x : BitVec w) : Nat := (onesOf x).length

/-- A bit vector whose bit `i` is `f i`. -/
def bitsOf (w : Nat) (f : Nat → Bool) : BitVec w :=
  BitVec.ofNat w ((List.range w).foldl (fun a i => a + (if f i then 2 ^ i else 0)) 0)

/-- Words of a list, or a default past its end. -/
def lane (v : Lanes) (i : Nat) : Word := v.getD i 0

/-- 64 lanes given by index. -/
def mkLanes (f : Nat → Word) : Lanes := (List.range 64).map f

end Sys2Proof
end

