-- ==== Sys2Proof/Machine/State.lean ====
section
/-! DEFINITION. The state of the package: every register, FIFO, buffer, counter, mode and pin that the
manual gives it, as plain data, and State.reset, the package before power is good. Registers of the BAR0
pages stand in `Dev.regs` and `Dev.ctrs` by their BAR0 offset; everything else has a field of its own. -/

namespace Sys2Proof.Machine

/-- No command of this model faults: the manual gives every row an effect, and turns every error into a
trap, an error source or an error reply. The type is closed and its one constructor is raised by nothing. -/
inductive Fault where
  /-- raised by no meaning -/
  | none
deriving DecidableEq, Repr

/-- Refusals. -/
inductive Refusal where
  /-- raised by an arm of Dispatch whose command has no meaning yet (safe: nothing is claimed of it) -/
  | notModelled (mnemonic : String)
deriving DecidableEq, Repr

/-! ### Memories -/

/-- Byte-addressed memory in canonical form: addresses strictly rising, no cell equal to 0, which is what
an unlisted address reads as (R671: SRAM_INIT and HBM_ZERO write zero to every byte). -/
structure Mem where
  cells : List Host.Cell
deriving DecidableEq, Repr

def Mem.empty : Mem := ⟨[]⟩

/-! ### The tile (03 to 08) -/

/-- A register the scoreboard tracks (R65). -/
inductive Reg where
  | s (n : Nat) | a (n : Nat) | v (n : Nat) | p (n : Nat) | g (n : Nat)
deriving DecidableEq, Repr

/-- What an outstanding pool load delivers (R100): element size in bytes and sign extension. -/
structure LoadShape where
  size   : Nat
  signed : Bool
deriving DecidableEq, Repr

/-- A core pool load that waits for its merge windows (R233): the bytes that have come, by pool offset,
and the lines still to come. -/
structure PoolLoad where
  dest  : Reg
  addr  : Nat
  shape : LoadShape
  pred  : BitVec 64
  lines : List Nat
  data  : Tbl Byte
deriving DecidableEq, Repr

/-- What a slot of a bundle waits for before it can issue (R62). -/
inductive Need where
  /-- a register with a write pending (R65) -/
  | reg (r : Reg)
  /-- the current slot of a ring port: a full one of an input port, an empty one of an output port (R260, R261) -/
  | ring (port : Nat) (output : Bool)
  /-- a message at the head of a queue -/
  | message (q : Nat)
  /-- a landing counter that meets its target (R162) -/
  | landing (lc : Nat) (target : Word) (eq : Bool)
  /-- room for one more sync watch of the context (R319) -/
  | watchPlace
  /-- fewer than two pending arrivals at a barrier (R329) -/
  | arrival (bar : Nat)
  /-- the network takes a send of the class (R293) -/
  | net (reply : Bool)
  /-- the context's pool stores have been written (R235) -/
  | poolStores
  /-- the write port for these scratchpad lines, after the flush they need (R220, R222, R223) -/
  | port (lines : List Nat) (narrow : Bool)
  /-- the core's power grant of the period (R609) -/
  | grant
  /-- the layer's ratio accumulators have been read (R202) -/
  | ratio (layer : Nat)
deriving DecidableEq, Repr

/-- One of a tile's two contexts (R56). `pc` is a bundle index; it may stand at 1,024 after bundle 1,023 (R74). -/
structure Ctx where
  run    : Bool
  pc     : Nat
  s      : Tbl Word
  a      : Tbl Word
  v      : Tbl Lanes
  p      : Tbl (BitVec 64)
  fpstat : BitVec 5
  trap   : Word
  trapInfo : Word
  /-- registers with a write pending (R65) -/
  pend   : List Reg
  loads  : List PoolLoad
  /-- consecutive cycles stalled (R59 rule 4) -/
  stall  : Nat
  /-- consecutive cycles that a ring instruction of its next bundle has waited (R262) -/
  ringWait : Nat
  /-- what the last bundle it could not issue waited for; none after one has issued (R62) -/
  waits  : List Need
  /-- its HALT has issued and waits for the registers its bundle writes (R96) -/
  halting : Option (List Reg)
  /-- sync watches registered and not yet answered (R319) -/
  watches : Nat
deriving DecidableEq, Repr

def Ctx.reset : Ctx :=
  { run := false, pc := 0, s := ⟨[]⟩, a := ⟨[]⟩, v := ⟨[]⟩, p := ⟨[]⟩, fpstat := 0, trap := 0, trapInfo := 0, pend := [],
    loads := [], stall := 0, ringWait := 0, waits := [], halting := none, watches := 0 }

/-- An accumulation group (R167). Cell (i, j) is at key 64 i + j. -/
structure Group where
  isOpen : Bool
  bg     : Bool
  int32  : Bool
  /-- PANEL_K = 64 * 2^panel -/
  panel  : Nat
  kpos   : Word
  f      : Tbl Word
  p      : Tbl Word
  sat    : Bool
  satCnt : Word
deriving DecidableEq, Repr

def Group.reset : Group :=
  { isOpen := false, bg := false, int32 := false, panel := 0, kpos := 0, f := ⟨[]⟩, p := ⟨[]⟩, sat := false, satCnt := 0 }

/-- An entry of the write-combining buffer (R222): its line (address / 64), its valid bytes, and which
contexts have a store in it. -/
structure WcbEntry where
  line  : Nat
  bytes : Tbl Byte
  fg    : Bool
  bg    : Bool
deriving DecidableEq, Repr

/-- A registered landing watch (R230). -/
structure LWatch where
  target : Word
  eq     : Bool
  qn     : Nat
  bg     : Bool
deriving DecidableEq, Repr

/-- Update-to-weight accumulators of one layer (R201). `closed`: the step's commit has begun and they have
not been read (R202). -/
structure Ratio where
  u2     : Word
  w2     : Word
  count  : Word
  closed : Bool
deriving DecidableEq, Repr

def Ratio.reset : Ratio := { u2 := 0, w2 := 0, count := 0, closed := false }

/-- A Barometer line (R205). -/
structure BaroLine where
  parity : Bool
  tag    : Nat
  fmt    : Nat
  conv   : Nat
  van    : Nat
  cla    : Nat
  sub    : Nat
deriving DecidableEq, Repr

/-- A channel counter line (R304): sender identity and destination in the R107 form. -/
structure ChanLine where
  sender : Nat
  dest   : Nat
  msgs   : Nat
  stall  : Nat
  spills : Nat
deriving DecidableEq, Repr

/-- A tile's ring port (R257 to R261): one per slot a fill and a full bit. -/
structure RingPort where
  bound  : Bool
  output : Bool
  stage  : Nat
  base   : Nat
  slotSize : Nat
  slots  : Nat
  fill   : Tbl Nat
  full   : Tbl Bool
  /-- current slot of the tile's side and of the stage's side, and the bytes of that slot the stage has read -/
  cur    : Nat
  eng    : Nat
  engOff : Nat
  /-- the stage has published its last slot or consumed its byte total (R257) -/
  ended  : Bool
deriving DecidableEq, Repr

def RingPort.reset : RingPort :=
  { bound := false, output := false, stage := 0, base := 0, slotSize := 0, slots := 0, fill := ⟨[]⟩, full := ⟨[]⟩,
    cur := 0, eng := 0, engOff := 0, ended := false }

/-- A tile's state for one barrier (R326): its generation bit and the reply queues of its pending
arrivals, with their generations, oldest first. -/
structure TileBar where
  gen  : Bool
  pend : List (Bool × Nat)
deriving DecidableEq, Repr

def TileBar.reset : TileBar := { gen := false, pend := [] }

/-- What an address names in this package (R424, R425). -/
inductive GSpot where
  | hbm (a : Nat)
  | pool (c off : Nat)
  | spad (t a : Nat)
deriving DecidableEq, Repr

/-- A data write on its way to a tile or to memory (R158 to R161). -/
structure PutItem where
  /-- issuing tile and context -/
  src   : Nat
  bg    : Bool
  /-- 64-bit address of PUTG; for PUT the destination's logical core, row, logical position and byte address -/
  glob  : Option DWord
  lcore : Nat
  row   : Nat
  lpos  : Nat
  addr  : Nat
  bytes : List Byte
  lc    : Option Nat
  /-- what a write that stays in the package names, translated at injection (R346), or the status of an address that names nothing;
  none and 0 for a write toward another package -/
  spot   : Option GSpot
  status : Nat
  /-- number of its injection into the die network, over all sends (R345) -/
  seq   : Nat
deriving DecidableEq, Repr

/-- The tile (R56). The queue ring area and the landing area lie in `spad` (R216, R226). -/
structure Tile where
  fg     : Ctx
  bg     : Ctx
  /-- selected context: true background (R59) -/
  sel    : Option Bool
  /-- cycles of a context switch that are left (R59) -/
  switching : Nat
  /-- slots of the bundle that is being collected -/
  slots  : List Instr
  imem   : Tbl Bundle128
  spad   : Mem
  groups : Tbl Group
  wcb    : List WcbEntry
  lwatch : Tbl LWatch
  layer  : Tbl Byte
  ratio  : Tbl Ratio
  baro   : List BaroLine
  chan   : List ChanLine
  ports  : Tbl RingPort
  bars   : Tbl TileBar
  /-- exchange writes held under R25, oldest first -/
  puts   : List PutItem
deriving DecidableEq, Repr

def Tile.reset : Tile :=
  { fg := Ctx.reset, bg := Ctx.reset, sel := none, switching := 0, slots := [], imem := ⟨[]⟩, spad := Mem.empty, groups := ⟨[]⟩, wcb := [],
    lwatch := ⟨[]⟩, layer := ⟨[]⟩, ratio := ⟨[]⟩, baro := [], chan := [], ports := ⟨[]⟩, bars := ⟨[]⟩, puts := [] }

/-- What a mirror write's answer completes (R541): the original request of another issuer (its packet by address), a
stream segment's write, a write of a collective unit's descriptor, an exchange write (its tile and context, whether a landing counter
counts it, its address and the number of its injection), or the command of a host ring. -/
inductive Back where
  | none
  | reply (src rs tid addr : Nat)
  | seg (id : Nat)
  | coll (core d : Nat)
  | put (t : Nat) (bg wrl : Bool) (addr : DWord) (seq : Nat)
  | host (ring : Nat)
deriving DecidableEq, Repr

/-- A mirror write that waits for an outstanding-request entry (R541): its mirror entry, destination and bytes. -/
structure MirFly where
  entry : Nat
  back  : Back
  dst   : Nat
  data  : List Byte
deriving DecidableEq, Repr

/-- A pool write that is held (R234, R235): its number, the same for all lines of one write, the context that stored it or tile 1632
for another unit, and what it answers once it is performed. -/
structure PoolWrite where
  seq   : Nat
  tile  : Nat
  bg    : Bool
  addr  : Nat
  bytes : List Byte
  back  : Back
deriving DecidableEq, Repr

/-- One operation on a pool line in order of arrival (R233, R234): an open merge window with its readers, or a write that is held
behind one, or behind an earlier store of its context to another line (R235). -/
inductive PoolOp where
  | window (readers : List (Nat × Bool × Reg))
  | write (w : PoolWrite)
deriving DecidableEq, Repr

/-! ### Queues and messages (10) -/

/-- Where a message goes: queue q of physical tile t, or core queue q of physical core c (R107). -/
inductive QDest where
  | tile (t q : Nat)
  | core (c q : Nat)
deriving DecidableEq, Repr

/-- A message (R283): its header fields but len, and what its placement ends: a context's sync watch (R319) or a
pending barrier arrival, tile, barrier and generation (R328). -/
structure Msg where
  kind    : Nat
  cls     : Bool
  dq      : Nat
  /-- bits [31:16] of header word 0 -/
  sender  : Nat
  cq      : Option Nat
  payload : List Word
  watch   : Option (Nat × Bool)
  release : Option (Nat × Nat × Bool)
deriving DecidableEq, Repr

/-- A message on its way, the core queue (1024 core + number) that forwarded it, and the number of its injection (R345). -/
structure MsgFly where
  msg  : Msg
  dest : QDest
  fwd  : Option Nat
  seq  : Nat
deriving DecidableEq, Repr

/-! ### Sync units (11) -/

/-- What an item on a channel to a sync unit does (R108, R311, R317, R326). -/
inductive SyncWhat where
  /-- add, set or compare-and-set; `reply` names tile, context and scalar register of the prior value -/
  | add (obj : Nat) (val : Word) (reply : Option (Nat × Bool × Nat))
  | set (obj : Nat) (val : Word) (reply : Option (Nat × Bool × Nat))
  | cas (obj : Nat) (exp new : Word) (reply : Option (Nat × Bool × Nat))
  | watch (obj : Nat) (target : Word) (eq : Bool) (tile : Nat) (bg : Bool) (qn : Nat)
  /-- a tile's arrival at its row counter -/
  | arrive (bar : Nat) (gen : Bool) (tile : Nat)
  /-- a logical core's arrival at the die level -/
  | arriveDie (bar : Nat) (gen : Bool) (lcore : Nat)
  /-- a forced release (R338) -/
  | release (bar : Nat) (gen : Bool)
deriving DecidableEq, Repr

/-- The sender of an item (R312). -/
inductive SyncChan where
  | tile (t : Nat) (bg : Bool)
  | stream (c : Nat)
  | coll (c : Nat)
  | unit (c : Nat)
  /-- host operations and forced actions held by a realign (R312, R335); the management path is true -/
  | host (c : Nat)
  | force (c : Nat) (mgmt : Bool)
deriving DecidableEq, Repr

/-- An item on its way to the sync unit of physical core `core`. -/
structure SyncFly where
  chan : SyncChan
  core : Nat
  what : SyncWhat
deriving DecidableEq, Repr

/-- A registered watch (R317), held in order of registration. -/
structure Watch where
  core   : Nat
  obj    : Nat
  target : Word
  eq     : Bool
  tile   : Nat
  bg     : Bool
  qn     : Nat
deriving DecidableEq, Repr

/-- One slot of a barrier counter (R327): what has arrived, and whether its timeout has been raised (R331). At a row
`mask` holds physical positions, at the core level rows, at the die level logical cores. -/
structure BarSlot where
  count : Nat
  mask  : BitVec 17
  timed : Bool
deriving DecidableEq, Repr

def BarSlot.reset : BarSlot := { count := 0, mask := 0, timed := false }

/-- Fabric states of a barrier slot (R332). -/
inductive FabState where
  | idle | counting | sent | releasing
deriving DecidableEq, Repr

structure FabSlot where
  state    : FabState
  /-- the die level has completed -/
  die      : Bool
  /-- positions of the children that have arrived -/
  children : List Nat
  timed    : Bool
deriving DecidableEq, Repr

def FabSlot.reset : FabSlot := { state := .idle, die := false, children := [], timed := false }

/-- A release on its way down the tree (R327): `level` 0 a row, 1 the core, 2 the die. -/
structure RelFly where
  level : Nat
  core  : Nat
  row   : Nat
  bar   : Nat
  gen   : Bool
  round : Word
deriving DecidableEq, Repr

/-! ### Stream engines (09) -/

/-- A pool ring between two stages of a chain (R242, R245). -/
structure PoolRing where
  base     : Nat
  slotSize : Nat
  slots    : Nat
  fill     : Tbl Nat
  full     : Tbl Bool
  prod     : Nat
  cons     : Nat
  consOff  : Nat
deriving DecidableEq, Repr

/-- Why a stage issues no further segment (R256, R274). -/
inductive StageEnd where
  | stop
  | abort (code : Nat)
deriving DecidableEq, Repr

/-- Progress of a running stage (R241). -/
structure StageRun where
  head    : Nat
  /-- next segment to grant: MOVE iteration and source bytes of it already granted -/
  iter    : Nat
  off     : Nat
  /-- source bytes that have come and fill no unit of conversion yet, and whether some byte of that unit will not come -/
  got     : List Byte
  gotHole : Bool
  /-- destination units of the iteration being written that are behind it -/
  units   : Nat
  /-- a byte of that iteration has not been written -/
  spoilt  : Bool
  /-- toward another package: the bytes written of its last word, which is not whole (R430) -/
  tail    : List Byte
  /-- MX blocks emitted in the stage, and the scale bytes held for the ring slot being filled (R253), or those of the last word sent -/
  blocks  : Nat
  scales  : List Byte
  /-- a byte of the ring slot being filled has not been written, and the slots passed since the first such one began -/
  slotHole : Bool
  ringGone : Option Nat
  /-- the pool ring that this stage consumes, filled by the stage before it -/
  ring    : Option PoolRing
  /-- the instructions of its stream program, read at the start -/
  prog    : List DWord
  /-- bytes taken from a ring source (R257) -/
  taken   : Nat
  /-- cycles eligible without a grant (R266) -/
  age     : Nat
  ending  : Option StageEnd
deriving DecidableEq, Repr

/-- Where a segment stands: its source is being read, its data are here, its writes wait for their answers, or it has failed and its last
bytes will not be written (R274). -/
inductive SegPhase where
  | reading | here (data : List Byte) | acking | lost (left : Nat)
deriving DecidableEq, Repr

/-- A granted segment that is outstanding (R256, R267). -/
structure Segment where
  id    : Nat
  core  : Nat
  ctx   : Nat
  iter  : Nat
  off   : Nat
  len   : Nat
  /-- source address: a global address, a pool offset, or a byte of a scratchpad; none for a padded iteration -/
  src   : Option Nat
  /-- logical index of the first element of its MOVE iteration (R250) -/
  x     : Nat
  /-- its read came from a retention entry (R276) -/
  redirected : Bool
  /-- what the source address names in this package, translated at the grant (R346); none for no such source -/
  spot  : Option GSpot
  /-- outstanding request entries reserved for its remote writes, one per first port (R267) -/
  wtids : List Nat
  /-- it enters the mesh (R714, R344) -/
  mesh  : Bool
  phase : SegPhase
deriving DecidableEq, Repr

/-- A retention entry (R275). -/
structure Retention where
  src : DWord
  dst : DWord
  len : DWord
deriving DecidableEq, Repr

/-! ### Telemetry posts -/

/-- A TPOST on its way to the aggregator (R166). -/
structure Post where
  tile  : Nat
  bg    : Bool
  kind  : Bool
  id    : Word
  value : DWord
  /-- DZ_STEP[0] of the posting tile's core at issue (R505) -/
  parity : Bool
deriving DecidableEq, Repr

/-- Totals of a channel at the aggregator (R305). -/
structure ChanTotal where
  sender : Nat
  dest   : Nat
  msgs   : Nat
  stall  : Nat
  spills : Nat
deriving DecidableEq, Repr


/-! ### Packets of the fabric and their transactions (15) -/

/-- A packet (R429): its route header and its bytes from byte 16 on, a multiple of 16. -/
structure Pkt where
  type  : Nat
  vc    : Nat
  dst   : Nat
  src   : Nat
  rs    : Nat
  ttl   : Nat
  epoch : Nat
  /-- header word 1 [63:16] -/
  w1    : Nat
  body  : List Byte
deriving DecidableEq, Repr

/-- Who issued a remote request (FAB_ERR_INFO1, R458). -/
inductive Issuer where
  | put (t : Nat) (bg : Bool)
  | stream (core ctx seg : Nat)
  | coll (core d : Nat)
  | rq
  | mirror (entry : Nat) (back : Back)
  | snap (entry : Nat)
  /-- the buddy's keystone copy; `live` of the attempt that is running, else of one that a retry has replaced (R549) -/
  | keystone (live : Bool)
deriving DecidableEq, Repr

/-- An outstanding remote request (R436): port in [15:11] and entry in [10:0] of its tid. -/
structure OutReq where
  tid    : Nat
  issuer : Issuer
  type   : Nat
  addr   : DWord
  epoch  : Nat
  /-- replies still to come -/
  left   : Nat
  /-- parts of a read that have come: 256 * part to bytes -/
  parts  : Tbl (List Byte)
deriving DecidableEq, Repr

/-! ### Fabric ports (14) -/

/-- Link states (R412). -/
inductive LinkState where
  | disabled | detect | equalize | align | exchange | active | down
deriving DecidableEq, Repr

/-- A DATA frame in the retry buffer (R403): payload of 240 bytes and how often it has been replayed. -/
structure RetryFrame where
  seq     : Nat
  vc      : Nat
  units   : Nat
  start   : Nat
  payload : List Byte
  replays : Nat
  /-- elapsed ns at its first transmission, for FP_RTT, and whether it has been sent again (R397) -/
  sent    : Nat
  resent  : Bool
deriving DecidableEq, Repr

/-- A packet that reassembly has completed, with the time in 1/8 ft at which the frame with its first unit was
accepted, and whether that frame was a replay (R419). -/
structure RxPkt where
  bytes : List Byte
  stamp : Nat
  rp    : Bool
deriving DecidableEq, Repr

/-- One virtual channel of a port: packets waiting to be sent (true: it enters a wrap axis here, R441) with the units of
the first already sent, packets
received, the packet being reassembled, and the credit state of R410. -/
structure PortVc where
  tx       : List (Bool × List Byte)
  txOff    : Nat
  rx       : List RxPkt
  part     : Option RxPkt
  /-- units the sender may still send -/
  avail    : Nat
  /-- last cumulative count received from the peer -/
  peerCnt  : BitVec 16
  /-- units freed on the receive side, cumulative -/
  freed    : BitVec 16
deriving DecidableEq, Repr

def PortVc.reset : PortVc :=
  { tx := [], txOff := 0, rx := [], part := none, avail := 0, peerCnt := 0, freed := 0 }

structure Fport where
  state    : LinkState
  rxHold   : Bool
  /-- coefficients are saved (R414) -/
  fast     : Bool
  signal   : Byte
  lock     : Byte
  peer     : Option (Nat × Nat)
  /-- incarnation of the peer last seen since reset (R415) -/
  peerInc  : Option Word
  nextSeq  : BitVec 12
  expect   : BitVec 12
  retry    : List RetryFrame
  /-- number of frames of the retry buffer already resent by the replay that is running -/
  replay   : Option Nat
  /-- a NAK is to be sent, one is outstanding, and the condition that called for it still holds (R406) -/
  nakDue   : Bool
  nakOut   : Bool
  nakCond  : Bool
  vcs      : Tbl PortVc
  /-- VC whose credits the next frame returns -/
  cvc      : Nat
  /-- frames in a row without one of VC3 while VC3 could be sent (R411) -/
  sinceVc3 : Nat
  /-- own flush, or none seen since reset: numbering restarts in the next EXCHANGE (R415, R418) -/
  flushed  : Bool
  /-- an EXCH frame has been sent, and one accepted, in this EXCHANGE -/
  exchSent : Bool
  exchOk   : Bool
  /-- training timeouts in a row (R412) -/
  fails    : Nat
  rtt      : Nat
  /-- it has been ACTIVE since reset (CNT_DOWN_NS) -/
  reached  : Bool
deriving DecidableEq, Repr

def Fport.reset : Fport :=
  { state := .disabled, rxHold := false, fast := false, signal := 0, lock := 0, peer := none, peerInc := none,
    nextSeq := 0, expect := 0, retry := [], replay := none, nakDue := false, nakOut := false, nakCond := false,
    vcs := ⟨[]⟩, cvc := 0, sinceVc3 := 0, flushed := false, exchSent := false, exchOk := false, fails := 0, rtt := 0, reached := false }

/-! ### Time base and forecast (13) -/

/-- States of the time base (R368), in the order of the codes of TMB_STAT. -/
inductive TimeState where
  | free | acquire | locked | holdover | lost | master
deriving DecidableEq, Repr

/-- An outstanding TSYNC request: its number, and t1 in 1/8 ft once its first symbol has left (R365). -/
structure TsyncReq where
  seq : Nat
  t1  : Option Nat
  /-- a reply to it has been rejected: it is counted in the run of bad requests -/
  hit : Bool
deriving DecidableEq, Repr

/-- An accepted sample: delay, offset, and the adjustment already applied when it was taken (R367). -/
structure Sample where
  delay  : Int
  offset : Int
  adj    : Int
deriving DecidableEq, Repr

structure Tmb where
  /-- fabric time in 1/8 ft (R362) -/
  time8   : Nat
  /-- how far the last tick moved it: 8, or one more or less while slewing -/
  moved   : Nat
  state   : TimeState
  /-- TIMEBASE edges arrive (R363) -/
  present : Bool
  /-- their loss has been raised and has not ended -/
  absent  : Bool
  /-- fabric time of the sideband sample edges, modulo 20 (R363, R364) -/
  phase   : Nat
  /-- elapsed ns at the last TSYNC_REQ, and at the entry into the state (R365, R368) -/
  lastReq : Option Nat
  since   : Nat
  reqs    : List TsyncReq
  nextSeq : Nat
  lastT2  : Option Nat
  /-- the last eight accepted samples, newest last -/
  samples : List Sample
  /-- sum of the corrections applied, and what is still to be slewed, in 1/8 ft -/
  adj     : Int
  slew    : Int
  /-- ticks since the last 1/8 ft of slew -/
  slewTick : Nat
  /-- consecutive accepted samples with a small correction, with a large offset, and requests lost or rejected -/
  good    : Nat
  wild    : Nat
  bad     : Nat
  offset  : Word
  delay   : Word
deriving DecidableEq, Repr

def Tmb.reset : Tmb :=
  { time8 := 0, moved := 8, state := .free, present := false, absent := false, phase := 0, lastReq := none, since := 0, reqs := [], nextSeq := 0, lastT2 := none, samples := [], adj := 0,
    slew := 0, slewTick := 0, good := 0, wild := 0, bad := 0, offset := 0, delay := 0 }

/-- An opened slot of the forecast (R374 to R378): its record, superstep, the expected count of each logical core at its opening, whether the package has finished it, and the events recorded in it. -/
structure OpenSlot where
  slot   : Nat
  sstep  : Word
  want   : List (Nat × Word)
  done   : Bool
  events : List Nat
deriving DecidableEq, Repr

/-- The forecast unit beside its registers (R370 to R389). -/
structure Fc where
  armed    : Bool
  /-- arm was written 0, or the superstep's last slot has stop: disarm at the end of the superstep (R373) -/
  stopping : Bool
  err      : Nat
  errSlot  : Nat
  sstep    : Word
  origin   : Nat
  /-- the superstep's origin has passed -/
  begun    : Bool
  /-- first slot of the superstep -/
  first    : Nat
  /-- slots opened in this superstep, and those of the previous one whose slip barrier has not been released -/
  slots    : List OpenSlot
  expected : Tbl Word
  /-- origin of the next superstep that the release of barrier 255 has set (R386) -/
  rel      : Option Nat
  /-- the superstep whose slip barrier was last released -/
  lastRel  : Option Word
  /-- supersteps in slip mode: the current one and the previous one -/
  slip     : Bool
  slipPrev : Bool
  /-- has arrived at barrier 255 for the superstep in slip mode (R385) -/
  arrived  : Bool
  arrivedPrev : Bool
  gen255   : Bool
  /-- the package drives LULL_N: for its current superstep, and for the previous one (R381) -/
  lullOut  : Bool
  lullPrev : Bool
  lullIn   : Bool
  /-- a SLIP held for the next superstep (R383) -/
  heldSlip : Bool
  /-- supersteps of this arming for which a SLIP has been received -/
  known    : List Word
  /-- positions of the barrier tree's children, learned from their ARRIVE messages -/
  kids     : List Nat
  minMargin : Word
  /-- no margin has been stored since FC_MIN_MARGIN was last cleared (R388) -/
  minFresh : Bool
  minSlot  : Nat
  /-- route set in use for injection (R443) -/
  route    : Nat
  /-- refresh debt of memory ports (R379), and ports that refreshed in the open window -/
  debt     : Tbl Nat
deriving DecidableEq, Repr

def Fc.reset : Fc :=
  { armed := false, stopping := false, err := 0, errSlot := 0, sstep := 0, origin := 0, begun := false, first := 0, slots := [],
    expected := ⟨[]⟩, rel := none, lastRel := none, slip := false, slipPrev := false, arrived := false, arrivedPrev := false, gen255 := false, lullOut := false, lullPrev := false, lullIn := true,
    heldSlip := false, known := [], kids := [], minMargin := 0x7FFFFFFF#32, minFresh := true, minSlot := 0, route := 0, debt := ⟨[]⟩ }

/-! ### Collective units (16) -/

/-- States of a collective descriptor (R461), in the order of COLL_STATd. -/
inductive CollState where
  | idle | running | done | aborted | refused
deriving DecidableEq, Repr

/-- A COLL packet that waits for an outstanding-request entry (R436, R468). -/
structure CollMsg where
  core  : Nat
  d     : Nat
  dst   : Nat
  sub   : Nat
  ord   : Nat
  block : Nat
  part  : Nat
  nval  : Nat
  data  : List Byte
deriving DecidableEq, Repr

/-- What a collective unit holds for a descriptor beside its 64 bytes (R461, R469, R470, R487). -/
structure CollRun where
  state     : CollState
  code      : Nat
  sat       : Bool
  nonfinite : Bool
  ord       : Nat
  lrank     : Nat
  /-- contributions counted, by 32 * block + part, part 16 the exponents; and the greatest exponent received of a block -/
  count     : Tbl Nat
  emax      : Tbl Int
  /-- exact sums of the parts of W blocks, by 32 * block + part: none stands for SAT (R473) -/
  sums      : Tbl (List (Option Int))
  /-- how often each 4-byte word of dst, or of PERMUTE's staging array, has been written since the last completion (R471) -/
  wrote     : Tbl Nat
  /-- PERMUTE: staging has been copied to dst (R475) -/
  copied    : Bool
  /-- all own sends have been issued -/
  issued    : Bool
  /-- fabric ports by which the run's packets left (R472 code 35) -/
  ports     : List Nat
deriving DecidableEq, Repr

def CollRun.reset : CollRun :=
  { state := .idle, code := 0, sat := false, nonfinite := false, ord := 0, lrank := 0, count := ⟨[]⟩, emax := ⟨[]⟩,
    sums := ⟨[]⟩, wrote := ⟨[]⟩, copied := false, issued := false, ports := [] }


/-! ### Step commit, telemetry and resilience (17, 19, 07 R201 to R211) -/

/-- Where a step's commit stands (R30): not begun, waiting for the drain markers (item 2), journal written and keystone
not yet sent (item 4), keystone sent. -/
inductive CommitPhase where
  | idle | drain | journal | key
deriving DecidableEq, Repr

/-- An ISOBAR completion of the step (R501). -/
structure IsoDone where
  lcore : Nat
  d     : Nat
  ord   : Nat
  n     : Nat
  live  : Nat
  mask  : List Byte
  sat   : Bool
deriving DecidableEq, Repr

/-- A snapshot that is running (R544 to R546): the step, the HBM as it stood at the commit, and the entry and byte that is sent next. -/
structure SnapRun where
  step  : Word
  image : Mem
  entry : Nat
  off   : Nat
deriving DecidableEq, Repr

/-- A step bundle that is held (R653, R655): the records that the commit has formed, before and after the Barometer's, with their
numbers. -/
structure HeldBundle where
  step  : Word
  fore  : List Byte
  nFps  : Nat
  nRatios : Nat
  chans : List Byte
  nChans : Nat
  scalars : List Byte
deriving DecidableEq, Repr

/-- A Barometer bank's counts of one core, parity, tag and format (R208). -/
structure BaroSum where
  conv : Nat
  van  : Nat
  cla  : Nat
  sub  : Nat
deriving DecidableEq, Repr

def BaroSum.reset : BaroSum := { conv := 0, van := 0, cla := 0, sub := 0 }

structure Rsl where
  phase   : CommitPhase
  /-- tiles at which the commit barrier's release has been placed (R529), and the superstep of the last -/
  placed  : List Nat
  placedIn : Word
  /-- DZ_STEP of the committing step -/
  step    : Word
  /-- a superstep origin has passed since the commit began; DZ_STEP advances at the next origin (R209) -/
  originSeen : Bool
  stepDue : Bool
  /-- the first origin of the step that commits next has passed (R494) -/
  started : Bool
  /-- journal record, fingerprint results (entry, flags, digest) and keystone bytes of the commit -/
  journal : List Byte
  fps     : List (Nat × Nat × DWord)
  key     : List Byte
  /-- keystone targets: bit 0 buddy, 1 MC, 2 host (R548, R549); an ERR answered a buddy packet -/
  acked   : BitVec 3
  failed  : BitVec 3
  keyHeld : Bool
  keyErr  : Bool
  /-- the buddy's copy waits for an outstanding-request entry (R436) -/
  keyWait : Bool
  reruns  : Nat
  /-- journal counts of the running step (R494, R495, R500) -/
  forced  : Bool
  hostOps : Word
  slips   : Word
  slipCause : Tbl Nat
  /-- the same counts of the step after a committing one that has begun before that one's record is made -/
  nextForced : Bool
  nextSlips : Word
  nextCause : Tbl Nat
  /-- last superstep of the step whose record was made last -/
  closed  : Option Word
  isos    : List IsoDone
  /-- fingerprint pieces by ((256 parity + entry) * 2^24 + piece), conflicted entries, scalar posts -/
  pieces  : Tbl DWord
  /-- the tile that posted each piece, same keys (R582) -/
  pieceBy : Tbl Nat
  conflicts : List Nat
  scalars : List Post
  /-- complete entries at the last close (FGP_STAT) -/
  complete : Nat
  /-- Barometer banks by ((8 parity + core) * 1024 + tag) * 16 + format, core physical -/
  baro    : Tbl BaroSum
  snap    : Option SnapRun
  /-- SNAP_STAT.failed -/
  snapFailed : Bool
deriving DecidableEq, Repr

def Rsl.reset : Rsl :=
  { phase := .idle, placed := [], placedIn := 0, step := 0, originSeen := false, stepDue := false, started := false, journal := [], fps := [],
    key := [], acked := 0, failed := 0, keyHeld := false, keyErr := false, keyWait := false, reruns := 0, forced := false, hostOps := 0,
    slips := 0, slipCause := ⟨[]⟩, nextForced := false, nextSlips := 0, nextCause := ⟨[]⟩, closed := none, isos := [], pieces := ⟨[]⟩, pieceBy := ⟨[]⟩, conflicts := [], scalars := [], complete := 0,
    baro := ⟨[]⟩, snap := none, snapFailed := false }

/-! ### Fault collector (20 R555 to R584) -/

/-- One queued or active fence sequence (R567, R568): the unit by its identity of R558, and the fault
identity that caused it, 0 when the host started it (R570). -/
structure FenceReq where
  unit  : Nat
  ident : Word
deriving DecidableEq, Repr

/-- An event whose REPORT or FENCE action is held while the collector page's en is 0 (R583). -/
structure HeldAct where
  page  : Nat
  src   : Nat
  ident : Word
  sev   : Nat
deriving DecidableEq, Repr

/-- A management report that occupies one of the 64 places (R576). -/
structure Report where
  ident   : Word
  minutes : Word
  cycles  : Word
  flags   : Byte
  seq     : Byte
  resends : Nat
deriving DecidableEq, Repr

/-- State of the fault collector that is not a stored register (R557 to R583). -/
structure Flt where
  /-- FLT_CNT: count of source s of page index p, at key 32 p + s -/
  cnt     : Tbl Word
  /-- sources whose RAIL condition lasts, at key 32 p + s (R555) -/
  railed  : Tbl Bool
  /-- an open dew-point window: its count so far, at key 4 p + j (R560) -/
  dew     : Tbl Nat
  /-- fences waiting, oldest first, at most 16 (R568) -/
  queue   : List FenceReq
  active  : Option FenceReq
  /-- fenced units, by unit identity -/
  fenced  : Tbl Bool
  /-- health of tiles and cores by unit identity: 1 SUSPECT, 2 FAILED; unlisted HEALTHY (R578) -/
  health  : Tbl Nat
  /-- consecutive clean steps of a SUSPECT unit (R581) -/
  clean   : Tbl Nat
  /-- units that met an event leading to SUSPECT in the step that is running (R581) -/
  stained : Tbl Bool
  /-- tiles whose checkrun after the last commit is still to run (R580) -/
  chkDue  : List Nat
  /-- actions held while the page's en is 0, in arrival order (R583) -/
  held    : List HeldAct
  resetId : Word
  suspectInfo : Word
  railInfo : Word
  /-- FLT_CMD_STAT.refused (R570) -/
  refused : Bool
deriving DecidableEq, Repr

def Flt.reset : Flt :=
  { cnt := ⟨[]⟩, railed := ⟨[]⟩, dew := ⟨[]⟩, queue := [], active := none, fenced := ⟨[]⟩, health := ⟨[]⟩, clean := ⟨[]⟩,
    stained := ⟨[]⟩, chkDue := [], held := [], resetId := 0, suspectInfo := 0, railInfo := 0, refused := false }

/-! ### Management controller and event recorder (21, 24): the always-on domain -/

/-- An event waiting in the MC's queue (R591): what its record will hold (R586). -/
structure EvrEvent where
  code     : Nat
  page     : Nat
  origin   : Nat
  sev      : Nat
  severe   : Bool
  minutes  : Word
  cycles   : Word
  data     : List Byte
  fixed    : Bool
deriving DecidableEq, Repr

/-- An entry of the recorder's counter area (R588, R590). -/
inductive CtrEntry where
  | counts (minutes cycles : Word)
  | eraseBegin (sector : Nat)
  | eraseDone (sector : Nat)
deriving DecidableEq, Repr

/-- The event recorder (R585 to R598). A slot is its 64 stored bytes; an unlisted slot is erased (all FF). -/
structure Evr where
  fixedSlots : Tbl (List Byte)
  fixedNext  : Nat
  circ       : Tbl (List Byte)
  /-- slot and sequence of the newest circular record -/
  newest     : Option (Nat × Nat)
  /-- the slot that the next write tries (R590) -/
  nextSlot   : Nat
  failRun    : Nat
  queue      : List EvrEvent
  drops      : Word
  /-- drops since the last QUEUE_OVERFLOW record; a record is owed while it is not 0 (R591) -/
  dropsOwed  : Nat
  minutes    : Word
  cycles     : Word
  /-- entries of the counter area: the sector in use, and the other one (R585) -/
  counters   : List CtrEntry
  oldCounters : List CtrEntry
  key        : Option (List Byte)
  chal       : Option (List Byte)
  /-- challenges issued: the model's own counter, which picks the next free value -/
  chalCount  : Nat
  denials    : Nat
  ready      : Bool
  fixedFull  : Bool
  cmdOk      : Bool
  cmdDenied  : Bool
  /-- the response words EVR_RESP written by the host, by word 0 to 7 -/
  resp       : Tbl Word
  /-- the snapshot of 32 slots behind EVR_WIN (R596) -/
  win        : List (List Byte)
deriving DecidableEq, Repr

def Evr.reset : Evr :=
  { fixedSlots := ⟨[]⟩, fixedNext := 0, circ := ⟨[]⟩, newest := none, nextSlot := 0, failRun := 0, queue := [],
    drops := 0, dropsOwed := 0, minutes := 0, cycles := 0, counters := [], oldCounters := [], key := none, chal := none, chalCount := 0, denials := 0,
    ready := false, fixedFull := false, cmdOk := false, cmdDenied := false, resp := ⟨[]⟩, win := [] }

/-- Start-up stages by the codes of R671; `off` before PWR_OK. -/
inductive Stage where
  | off | mcBoot | fuse | sramInit | hbmTrain | hbmZero | tileFw | hostEn | ready | hold | recovery | failed
deriving DecidableEq, Repr

/-- The fuses (R2, R357, R670): they survive every reset. -/
structure Fuses where
  /-- bit c: physical core c enabled -/
  coreMask : BitVec 8
  /-- stepping B0 (R6) -/
  b0       : Bool
  /-- physical position of the spare of row r of core c at key 12 c + r (R357); unlisted 16 -/
  spare    : Tbl Nat
  chipId   : DWord
  /-- digest of the public key that may sign MC images, and the least security version (R670) -/
  keyDigest : Nat
  minSecurity : Nat
deriving DecidableEq, Repr

/-- The part a log entry names: a QT2-1536-B0 with every spare at position 16. -/
def Fuses.reset : Fuses := { coreMask := 0xFF#8, b0 := true, spare := ⟨[]⟩, chipId := 0, keyDigest := 0, minSecurity := 0 }

/-- A request that the MC's always-on state keeps (R576, R595, R668, R670 to R676). -/
structure Mc where
  stage     : Stage
  /-- the boot has run a verified image: the MC waits for PERST_N (R670, R671) -/
  booted    : Bool
  /-- running firmware slot B -/
  slotB     : Bool
  fallback  : Bool
  mcVer     : Word
  tfwVer    : Word
  coresOk   : BitVec 8
  memFail   : BitVec 8
  bootTime  : Word
  cause     : Nat
  resetCnt  : Word
  /-- a rail was lost: nothing starts in the main domain until PWR_OK has fallen and risen (R663) -/
  railLost  : Bool
  /-- start-up runs after a RESET action: GLB, FLT and EVR answer (R674) -/
  afterReset : Bool
  /-- a HOLD lasts until FLT_CMD.ack_reset (R571, R665) -/
  holdAck   : Bool
  bootSel   : Bool
  i3cAddr   : BitVec 3
  /-- COOL[1:0] as sampled and the latched profile 0 Air, 1 Immersion, 2 Liquid (R599) -/
  cool      : BitVec 2
  profile   : Nat
  smbus     : Bool
  /-- FAILED units in the non-volatile store (R579) -/
  failedStore : List Nat
  reports   : List Report
  reportSeq : Byte
  /-- THERMTRIP_N is held low until PWR_OK falls (R617) -/
  thermtrip : Bool
  /-- keystone copies the MC stores: slot (0, 1) to step and bytes (R550) -/
  keystone  : Tbl (List Byte)
  /-- the journal records the MC keeps, newest last, at most 64 (R499) -/
  journal   : List (List Byte)
deriving DecidableEq, Repr

def Mc.reset : Mc :=
  { stage := .off, booted := false, slotB := false, fallback := false, mcVer := 0, tfwVer := 0, coresOk := 0, memFail := 0, bootTime := 0,
    cause := 0, resetCnt := 0, railLost := false, afterReset := false, holdAck := false, bootSel := false, i3cAddr := 0,
    cool := 0, profile := 0, smbus := false, failedStore := [], reports := [], reportSeq := 0, thermtrip := false,
    keystone := ⟨[]⟩, journal := [] }

/-- Levels the board drives, and the TAP controller (R664, R705, R711). -/
structure Pins where
  pwrOk    : Bool
  perstN   : Bool
  /-- THROTTLE_N pulled low by the board -/
  throttleLow : Bool
  /-- JTAG test access port: true in Test-Logic-Reset with IDCODE selected -/
  tapReset : Bool
  /-- the references FREFCLK_W (bit 0) and FREFCLK_E (bit 1) run (R702) -/
  fref     : BitVec 2
deriving DecidableEq, Repr

def Pins.reset : Pins := { pwrOk := false, perstN := false, throttleLow := false, tapReset := true, fref := 0 }

/-! ### Power (22) -/

inductive CalmState where
  | run | entering | calm | waking
deriving DecidableEq, Repr

/-- Gust, the emergency throttle, the sensors and Calm (R599 to R625). -/
structure Pwr where
  /-- Gust's level and the tile clock in MHz before halving (R603, R604) -/
  level     : Nat
  clk       : Nat
  ext       : Bool
  temp      : Bool
  power     : Bool
  throttled : Bool
  /-- POWER entries since the last origin (R613) -/
  powerEntries : Nat
  /-- the last causes ended 100 us ago: the release waits for an origin (R613) -/
  releaseDue : Bool
  /-- consecutive periods whose measured energy exceeded the budget (R610) -/
  overBudget : Nat
  calm      : CalmState
  refused   : Bool
  /-- last reading of sensor s in 0.1 degrees, and its failure (R615) -/
  temps     : Tbl Nat
  failed    : Tbl Bool
  /-- sensor s was at or above its TEMP_HIGH threshold at its last read (R616) -/
  hot       : Tbl Bool
  /-- die sensor s read 120.0 degrees or more at its last read (R616) -/
  tripOnce  : Tbl Bool
  /-- energies measured in the last period: cores 0-7, ports 8-15, link dies 16-17 (R606) -/
  lastEnergy : Tbl Nat
  /-- the grants of the current period, same keys (R606, R607) -/
  grants    : Tbl Nat
  /-- a core or memory port that has spent its grant (R609), same keys -/
  spent     : Tbl Bool
  avgW      : Nat
  /-- cycles in which core c was gated over the trailing 1 ms, in 1/10,000 of its cycles (R604) -/
  gated     : Tbl Nat
deriving DecidableEq, Repr

def Pwr.reset : Pwr :=
  { level := 0, clk := 0, ext := false, temp := false, power := false, throttled := false, powerEntries := 0,
    releaseDue := false, overBudget := 0, calm := .run, refused := false, temps := ⟨[]⟩, failed := ⟨[]⟩, hot := ⟨[]⟩,
    tripOnce := ⟨[]⟩, lastEnergy := ⟨[]⟩, grants := ⟨[]⟩, spent := ⟨[]⟩, avgW := 0, gated := ⟨[]⟩ }

/-! ### Host port (23) -/

/-- A completion entry (R642) before its seq and phase are known. -/
structure Completion where
  tag    : Word
  status : Nat
  page   : Option Nat
  value  : DWord
  irq    : Bool
deriving DecidableEq, Repr

/-- What a copy in progress does with its bytes: writes those that host memory returned, writes its value, or sends them to host memory. -/
inductive CopyKind where
  | h2d (data : List Byte)
  | fill
  | d2h (bad : Option Nat)
deriving DecidableEq, Repr

/-- A COPY_H2D, FILL or COPY_D2H that has started: the bytes moved so far, and whether it has counted as a host action (R637, R640). -/
structure CopyRun where
  cmd     : HostCmd
  kind    : CopyKind
  off     : Nat
  counted : Bool
deriving DecidableEq, Repr

/-- A command ring (R634 to R645) beside its registers. -/
structure Ring where
  head    : Nat
  tail    : Nat
  cplTail : Nat
  cplHead : Nat
  seq     : Word
  /-- a WAIT that has not completed (R639) -/
  waiting : Option HostCmd
  /-- a copy that has not completed (R637) -/
  copy    : Option CopyRun
  /-- a completion held because the array is full (R644) -/
  heldCpl : Option Completion
  fetchErr : Bool
  /-- pending completions counted for the MSI-X message (R645) -/
  irqPending : Nat
deriving DecidableEq, Repr

def Ring.reset : Ring :=
  { head := 0, tail := 0, cplTail := 0, cplHead := 0, seq := 0, waiting := none, copy := none, heldCpl := none, fetchErr := false,
    irqPending := 0 }

/-- A result page (R647 to R650). -/
structure ResultPage where
  claimed : Bool
  valid   : Bool
  status  : Nat
  ring    : Nat
  seq     : Word
  data    : List Byte
deriving DecidableEq, Repr

def ResultPage.reset : ResultPage := { claimed := false, valid := false, status := 0, ring := 0, seq := 0, data := [] }

/-- An MSI-X table entry: masked at reset (R630, R675). -/
structure MsixEntry where
  addr   : DWord
  data   : Word
  masked : Bool
  pend   : Bool
deriving DecidableEq, Repr

def MsixEntry.reset : MsixEntry := { addr := 0, data := 0, masked := true, pend := false }

/-- The host port: PCIe link, rings, result pages, MSI-X, delivery (R626 to R659). -/
structure Hif where
  /-- the PCIe link is up, its rate code, width and FLIT mode (HIF_LINK) -/
  link    : Word
  rings   : Tbl Ring
  pages   : Tbl ResultPage
  msix    : Tbl MsixEntry
  dlvTail : Nat
  dlvPhase : Bool
  /-- step bundles held, oldest first (R655) -/
  held    : List HeldBundle
  heldReported : Bool
deriving DecidableEq, Repr

def Hif.reset : Hif :=
  { link := 0, rings := ⟨[]⟩, pages := ⟨[]⟩, msix := ⟨[]⟩, dlvTail := 0, dlvPhase := true, held := [], heldReported := false }

/-- What the package sends to the outside, in the order it is sent: the port of the model where the
host, the management controller's partner or a neighbour package would see it. -/
inductive Emission where
  /-- a frame that leaves a fabric port (R398) -/
  | frame (port : Nat) (raw : BitVec 2048)
  /-- bytes written to host memory at a bus address (R629, R643, R654) -/
  | hostWrite (addr : Nat) (bytes : List Byte)
  /-- an MSI-X message on a vector (R645, R646) -/
  | msix (vector : Nat)
  /-- an I3C in-band interrupt with its mandatory data byte (R711) -/
  | ibi (byte : Byte)
  /-- a management report (R576) -/
  | report (r : Report)
  /-- a raw recorder slot, a challenge or another management answer (R594, R596) -/
  | mgmt (bytes : List Byte)
  /-- a value returned to a host or management read (R15, R628) -/
  | readData (bytes : List Byte)
  /-- a management response without data: a request was taken (true) or refused -/
  | ack (ok : Bool)
  /-- PCIe configuration request answered: true completed, false Request Retry Status (R674) -/
  | config (completed : Bool)
deriving DecidableEq, Repr

/-! ### The package -/

/-- Everything the package holds but the queue of commands. -/
structure Dev where
  fuses  : Fuses
  mc     : Mc
  evr    : Evr
  pins   : Pins
  hif    : Hif
  /-- stored registers of the BAR0 pages and windows, by BAR0 offset; an unlisted one holds its reset value -/
  regs   : Tbl Word
  /-- 64-bit counters by the BAR0 offset of their low word (R84) -/
  ctrs   : Tbl DWord
  /-- latched high words by path and offset: key 4 * offset + path (R84) -/
  latch  : Tbl Word
  /-- a held low word: path to offset and value (R681) -/
  heldLo : Tbl (Nat × Word)
  flt    : Flt
  pwr    : Pwr
  tiles  : Tbl Tile
  /-- Barometer lines of stream engine c at key c, of collective unit c at key 8 + c (R205) -/
  unitBaro : Tbl (List BaroLine)
  /-- flushed Barometer lines on their way to the aggregator, with the physical core of their unit -/
  baroFly : List (Nat × BaroLine)
  /-- core pools by physical core (R232), and the operations on each line: key 262144 * core + line (R233) -/
  pool   : Tbl Mem
  poolOps : Tbl (List PoolOp)
  /-- HBM: stack n holds addresses n * 2^36 to (n + 1) * 2^36 - 1 (R424) -/
  hbm    : Mem
  /-- exchange writes on their way to tiles of the package -/
  puts   : List PutItem
  /-- queue messages on their way; a message that waits at the ingress of tile t and class k at key 2 t + k (R293);
  spilled messages of queue q of tile t at key 16 t + q (R294); core queue q of core c at key 1024 c + q (R299) -/
  msgs    : List MsgFly
  /-- a host injection of queue unit c that the network has not taken (QINJ_STAT.busy, R301) -/
  hostInj : Tbl MsgFly
  ingress : Tbl MsgFly
  spilled : Tbl (List Msg)
  coreQ   : Tbl (List Msg)
  /-- channel counter lines of queue unit c, lines that are flushed, and the aggregator's totals (R304, R305) -/
  chanUnit  : Tbl (List ChanLine)
  chanFly   : List ChanLine
  chanTotal : List ChanTotal
  /-- operations and arrivals on their way to the sync units (R312), and registered watches -/
  syncs   : List SyncFly
  watches : List Watch
  /-- barrier slots: key ((256 core + barrier) * 2 + slot) * 16 + row, 12 for the core level, 13 for the die level;
  rounds by key (256 core + barrier) * 16 + root row or 12; fabric slots by 2 * barrier + slot (R327, R332) -/
  bars    : Tbl BarSlot
  rounds  : Tbl Word
  fabBars : Tbl FabSlot
  rels    : List RelFly
  /-- a realign slot is open: operations wait at the ingress of the sync units, those that have reached it in arrival order (R335) -/
  realign : Bool
  syncHeld : List SyncFly
  /-- the generation of the next round of barrier 254 -/
  gen254  : Bool
  /-- running stages by key 1024 core + context, outstanding segments, retention entries by 16 core + entry -/
  stages  : Tbl StageRun
  segs    : List Segment
  segId   : Nat
  retain  : Tbl Retention
  posts   : List Post
  /-- packets that stay on the die network (R428), outstanding remote requests (R436), fabric ports -/
  diePkts : List Pkt
  /-- packets not injected while the fabric page's en is 0 (R458), with the core of their endpoint -/
  fabWait : List (Option Nat × Pkt)
  /-- mirror writes that wait for an outstanding-request entry, oldest first (R541) -/
  mirQ    : List MirFly
  outReqs : List OutReq
  ports   : Tbl Fport
  /-- sequence number of the PROBE that override entry i waits for, and TKO_CMD.probe has been written (R455) -/
  tko     : Tbl Nat
  tkoRun  : Bool
  /-- this package's incarnation (FP_INC) -/
  inc     : Word
  tmb     : Tmb
  fc      : Fc
  colls   : Tbl CollRun
  collQ   : List CollMsg
  rsl     : Rsl
  /-- what has been sent to the outside, in order -/
  sent   : List Emission
  /-- the model's own counter of the free values drawn (Config.netFull, portTaken, treeChild, extraFlits, bulkFlits) -/
  draws  : Nat
  /-- the model's own number of the next injection into the die network or held pool write (R235, R345) -/
  netSeq : Nat
  /-- elapsed ns of the main domain since its reset: the model's clock of intervals (R365, R368, R397, R421) -/
  ns     : Nat
  /-- packets that entered the die network while core c's page counted, at key c: what the counters of waiting cycles rest on (R359) -/
  noc    : Tbl Nat
  /-- pages whose soft reset is in progress, by page index (BLK_STAT.sr_busy, R684) -/
  softBusy : List Nat
deriving DecidableEq, Repr

/-- The package before PWR_OK rises: every field at its reset value. -/
def Dev.reset : Dev :=
  { fuses := Fuses.reset, mc := Mc.reset, evr := Evr.reset, pins := Pins.reset, hif := Hif.reset, regs := ⟨[]⟩, ctrs := ⟨[]⟩,
    latch := ⟨[]⟩, heldLo := ⟨[]⟩, flt := Flt.reset, pwr := Pwr.reset, tiles := ⟨[]⟩,
    unitBaro := ⟨[]⟩, baroFly := [],
    pool := ⟨[]⟩, poolOps := ⟨[]⟩, hbm := Mem.empty, puts := [], msgs := [], hostInj := ⟨[]⟩, ingress := ⟨[]⟩, spilled := ⟨[]⟩, coreQ := ⟨[]⟩,
    chanUnit := ⟨[]⟩, chanFly := [], chanTotal := [], syncs := [], watches := [], bars := ⟨[]⟩, rounds := ⟨[]⟩, fabBars := ⟨[]⟩,
    rels := [], realign := false, syncHeld := [], gen254 := false, stages := ⟨[]⟩, segs := [], segId := 0, retain := ⟨[]⟩, posts := [], diePkts := [], fabWait := [], mirQ := [], outReqs := [],
    ports := ⟨[]⟩, tko := ⟨[]⟩, tkoRun := false, inc := 0, tmb := Tmb.reset, fc := Fc.reset, colls := ⟨[]⟩, collQ := [], rsl := Rsl.reset,
    sent := [], draws := 0, netSeq := 0, ns := 0, noc := ⟨[]⟩, softBusy := [] }

/-- The machine: the commands that wait, first in first out, and the package. -/
structure State where
  pending : List Instr
  dev     : Dev
deriving DecidableEq, Repr

/-- Right after reset: nothing waits. -/
def State.reset : State := { pending := [], dev := Dev.reset }

end Sys2Proof.Machine
end

