-- ==== Sys2Proof/Machine/Tables.lean ====
section
/-! DEFINITION. Operations on the sparse tables of the state, and on lists kept in arrival order. -/

namespace Sys2Proof

/-- The empty table: every key at its reader's default. -/
def Tbl.empty {α : Type} : Tbl α := ⟨[]⟩

/-- The value stored at `k` in a list of cells. -/
def cellsGet {α : Type} : List (Nat × α) → Nat → Option α
  | [], _ => none
  | (k', v) :: r, k => if k' = k then some v else cellsGet r k

/-- Stores `v` at `k`, keeping the keys strictly rising. -/
def cellsSet {α : Type} : List (Nat × α) → Nat → α → List (Nat × α)
  | [], k, v => [(k, v)]
  | (k', v') :: r, k, v =>
    if k < k' then (k, v) :: (k', v') :: r
    else if k = k' then (k, v) :: r
    else (k', v') :: cellsSet r k v

/-- Removes the entry of `k`. -/
def cellsErase {α : Type} : List (Nat × α) → Nat → List (Nat × α)
  | [], _ => []
  | (k', v') :: r, k => if k' = k then r else (k', v') :: cellsErase r k

def Tbl.get? {α : Type} (t : Tbl α) (k : Nat) : Option α := cellsGet t.cells k

/-- The value at `k`, or the reader's default. -/
def Tbl.getD {α : Type} (t : Tbl α) (k : Nat) (d : α) : α := (t.get? k).getD d

def Tbl.set {α : Type} (t : Tbl α) (k : Nat) (v : α) : Tbl α := ⟨cellsSet t.cells k v⟩

def Tbl.erase {α : Type} (t : Tbl α) (k : Nat) : Tbl α := ⟨cellsErase t.cells k⟩

/-- Changes the value at `k`, read with default `d`. -/
def Tbl.modify {α : Type} (t : Tbl α) (k : Nat) (d : α) (f : α → α) : Tbl α := t.set k (f (t.getD k d))

/-- Stores a list of values at consecutive keys from `k`. -/
def Tbl.setMany {α : Type} (t : Tbl α) (k : Nat) : List α → Tbl α
  | [] => t
  | v :: r => (t.set k v).setMany (k + 1) r

/-- The keys rise strictly from one cell to the next. -/
def keysRise {α : Type} : List (Nat × α) → Bool
  | [] => true
  | [_] => true
  | a :: b :: r => a.1 < b.1 && keysRise (b :: r)

def Tbl.wf {α : Type} (t : Tbl α) : Bool := keysRise t.cells

/-- The entries of a table that satisfy a test, with their keys. -/
def Tbl.keep {α : Type} (t : Tbl α) (p : Nat → α → Bool) : Tbl α := ⟨t.cells.filter fun c => p c.1 c.2⟩

/-- Maps every listed entry. -/
def Tbl.mapVals {α : Type} (t : Tbl α) (f : Nat → α → α) : Tbl α := ⟨t.cells.map fun c => (c.1, f c.1 c.2)⟩

/-- Takes item `i` of a list that is held in arrival order, provided no earlier item travels on the
same channel: items of one channel are delivered in order, items of different channels in any order
(R291, R313). Answers the item and the list without it. -/
def takeInOrder {α κ : Type} [DecidableEq κ] (chan : α → κ) (l : List α) (i : Nat) : Option (α × List α) :=
  match l[i]? with
  | none => none
  | some x => if (l.take i).all (fun y => chan y ≠ chan x) then some (x, l.take i ++ l.drop (i + 1)) else none

/-- Takes item `i` of a list that is held in order of injection, provided no earlier item keeps its place before it. -/
def takeAfter {α : Type} (before : α → α → Bool) (l : List α) (i : Nat) : Option (α × List α) :=
  match l[i]? with
  | none => none
  | some x => if (l.take i).any fun y => before y x then none else some (x, l.take i ++ l.drop (i + 1))

/-- Splits a list at its first element that satisfies `p`: that element and the list without it. -/
def takeFirst {α : Type} (p : α → Bool) : List α → Option (α × List α)
  | [] => none
  | x :: r => if p x then some (x, r) else
    match takeFirst p r with
    | none => none
    | some (y, r') => some (y, x :: r')

/-- `f` applied `n` times, with the index, to an accumulator. -/
def iterate {α : Type} (n : Nat) (f : Nat → α → α) (a : α) : α := (List.range n).foldl (fun a i => f i a) a

/-- Replaces element `i` of a list (no change beyond its end). -/
def setNth {α : Type} (l : List α) (i : Nat) (v : α) : List α := l.set i v

end Sys2Proof
end

