-- ==== Sys2Proof/Machine/Memory.lean ====
section
/-! DEFINITION. Byte-addressed memory: one byte read, one byte written, in the canonical form of `Mem`, and the
wider accesses built from them in one place, least significant byte first. -/

namespace Sys2Proof.Machine

/-- The byte at an address; an unlisted byte reads 0. -/
def Mem.get (m : Mem) (a : Nat) : Byte := (cellsGet m.cells a).getD 0

/-- Writes a byte; writing what an unlisted byte reads as removes the cell. -/
def Mem.set (m : Mem) (a : Nat) (b : Byte) : Mem :=
  if b = 0 then ⟨cellsErase m.cells a⟩ else ⟨cellsSet m.cells a b⟩

/-- The canonical form: addresses strictly rising and no cell equal to 0. -/
def Mem.wf (m : Mem) : Bool := keysRise m.cells && m.cells.all fun c => c.2 != 0

def Mem.readBytes (m : Mem) (a n : Nat) : List Byte := (List.range n).map fun i => m.get (a + i)

def Mem.writeBytes (m : Mem) (a : Nat) : List Byte → Mem
  | [] => m
  | b :: r => (m.set a b).writeBytes (a + 1) r

/-- A 32-bit word, least significant byte first (R87, R284). -/
def Mem.word (m : Mem) (a : Nat) : Word := BitVec.ofNat 32 (ofBytesLE (m.readBytes a 4))
def Mem.setWord (m : Mem) (a : Nat) (w : Word) : Mem := m.writeBytes a (bytesLE 4 w.toNat)

end Sys2Proof.Machine
end

