-- ==== Sys2Proof/Config.lean ====
section
/-! DEFINITION. What an implementation fixes and the values that the manual leaves open. A free value is an
opaque constant: nothing can be proved of what it is. -/

namespace Sys2Proof

/-- BLK_REV.minor of a block type: the manual says "per page" and gives no number (25 R682). -/
opaque Config.blkMinor : Nat → Byte

/-- The n-th challenge of the event recorder: 32 random bytes (21 R594). -/
opaque Config.challenge : Nat → BitVec 256

/-- How many entries a sector of the recorder's counter area holds: the manual does not lay an entry out (21 R585, R588). -/
opaque Config.counterRoom : Nat

/-- The value field of the completion of command n of a ring whose status is not OK (23 R639, R642). -/
opaque Config.errorValue : Nat → Nat → DWord

/-- The dq field of the header of a message that the host pops from a core queue: its four bits cannot hold a core queue's
number (10 R283, R300). -/
opaque Config.poppedDq : Nat → BitVec 4

/-- The responding position recorded for a request that its own package completes with a status, EPOCH or LINK: no package has
responded (15 R420, R447, R458). -/
opaque Config.selfResponder : Nat → BitVec 16

/-- What a counter of the die network that counts waiting cycles or forced grants shows, by its BAR0 offset and the number of packets so
far: the manual gives no timing that decides it (12 R359). -/
opaque Config.timedCount : Nat → Nat → DWord

/-- The flits beyond the first of a packet whose length the manual does not give, by draw: a packet has 1 to 5 (12 R348). -/
opaque Config.extraFlits : Nat → Fin 5

/-- The flits beyond the first that a unit injects for a transfer, by draw: the manual does not say in how many packets one travels (12 R348). -/
opaque Config.bulkFlits : Nat → Nat

/-- Whether the network, while it carries anything, cannot take a send of a tile in this cycle, and whether a scratchpad store, while
arriving writes or a buffer flush contend with it, waits for the write port: by tile and draw. The manual gives no timing that
decides it (08 R220, R222, 10 R293). -/
opaque Config.netFull : Nat → Nat → Bool
opaque Config.portTaken : Nat → Nat → Bool

/-- The position of a child in the barrier tree from which no message has come, by draw: no register holds it (11 R332, 13 R383). -/
opaque Config.treeChild : Nat → BitVec 16

/-- The bytes that fill a stream's remote write to whole words, by segment and place: the manual states no value (15 R430). -/
opaque Config.padByte : Nat → Nat → Byte

end Sys2Proof
end

