-- ==== Sys2Proof/Machine/Number.lean ====
section
/-! DEFINITION. Number formats (02 R33 to R55, 07 R191 to R199): exact values, the one rounding
function, and every conversion. Nothing here reads the machine's state. -/

namespace Sys2Proof.Machine

/-- An exact value, or a special one. `fin neg m d e` is (-1)^neg * (m / d) * 2^e; m = 0 is a signed zero. -/
inductive FVal where
  | nan
  | inf (neg : Bool)
  | fin (neg : Bool) (m d : Nat) (e : Int)
deriving DecidableEq, Repr

/-- A zero of the given sign. -/
def FVal.zero (neg : Bool) : FVal := .fin neg 0 1 0

/-- The exact integer `i`. -/
def FVal.ofInt (i : Int) : FVal := .fin (i < 0) i.natAbs 1 0

/-- A floating format (R34, R39): widths, bias, the encoding of its largest finite magnitude, and
whether its top exponent holds Inf and NaN as in IEEE 754. -/
structure FloatFmt where
  ebits : Nat
  fbits : Nat
  bias  : Nat
  maxEnc : Nat
  ieee  : Bool
deriving DecidableEq, Repr

def fmtFp32 : FloatFmt := { ebits := 8, fbits := 23, bias := 127, maxEnc := 0x7F7FFFFF, ieee := true }
def fmtFp16 : FloatFmt := { ebits := 5, fbits := 10, bias := 15, maxEnc := 0x7BFF, ieee := true }
def fmtBf16 : FloatFmt := { ebits := 8, fbits := 7, bias := 127, maxEnc := 0x7F7F, ieee := true }
def fmtE4M3 : FloatFmt := { ebits := 4, fbits := 3, bias := 7, maxEnc := 0x7E, ieee := false }
def fmtE5M2 : FloatFmt := { ebits := 5, fbits := 2, bias := 15, maxEnc := 0x7B, ieee := true }
def fmtE3M2 : FloatFmt := { ebits := 3, fbits := 2, bias := 3, maxEnc := 0x1F, ieee := false }
def fmtE2M3 : FloatFmt := { ebits := 2, fbits := 3, bias := 1, maxEnc := 0x1F, ieee := false }
def fmtE2M1 : FloatFmt := { ebits := 2, fbits := 1, bias := 1, maxEnc := 0x7, ieee := false }

/-- Position of the sign bit. -/
def FloatFmt.signBit (f : FloatFmt) : Nat := 2 ^ (f.ebits + f.fbits)

/-- The exponent of the smallest normal value. -/
def FloatFmt.emin (f : FloatFmt) : Int := 1 - (f.bias : Int)

/-- The encoding of Inf (without sign) and of the canonical NaN (R34, R36). -/
def FloatFmt.infEnc (f : FloatFmt) : Nat := (2 ^ f.ebits - 1) * 2 ^ f.fbits
def FloatFmt.nanEnc (f : FloatFmt) : Nat := f.infEnc + 2 ^ (f.fbits - 1)

/-- The value of an encoding (R34, R39): in E4M3 only S.1111.111 is NaN and there is no Inf. -/
def FloatFmt.decode (f : FloatFmt) (enc : Nat) : FVal :=
  let neg := enc / f.signBit % 2 = 1
  let ex := enc / 2 ^ f.fbits % 2 ^ f.ebits
  let fr := enc % 2 ^ f.fbits
  if f.ieee && ex = 2 ^ f.ebits - 1 then
    if fr = 0 then .inf neg else .nan
  else if !f.ieee && f.ebits = 4 && ex = 15 && fr = 7 then .nan
  else if ex = 0 then .fin neg fr 1 (f.emin - f.fbits)
  else .fin neg (2 ^ f.fbits + fr) 1 ((ex : Int) - f.bias - f.fbits)

/-- How a conversion rounds: to nearest even (R38), or stochastically with one Drizzle output (R195). -/
inductive Rounding where
  | rne
  | drizzle (out : Word)
deriving DecidableEq, Repr

/-- The exponent of the largest power of two not above m / d (m, d not 0). -/
def ratLog2 (m d : Nat) : Int :=
  let l : Int := (Nat.log2 m : Int) - Nat.log2 d
  let lo : Bool := if 0 ≤ l then m < d * 2 ^ l.toNat else m * 2 ^ (-l).toNat < d
  if lo then l - 1 else l

/-- Rounds (m / d) * 2^e to a multiple of 2^q: the multiple, and whether it differs from the exact value. -/
def roundQuantum (mode : Rounding) (m d : Nat) (e q : Int) : Nat × Bool :=
  let num := if q ≤ e then m * 2 ^ (e - q).toNat else m
  let den := if q ≤ e then d else d * 2 ^ (q - e).toNat
  let n := num / den
  let rem := num % den
  let up : Bool := match mode with
    | .rne => decide (den < 2 * rem) || (2 * rem == den && n % 2 == 1)
    | .drizzle out => decide (out.toNat < 2 ^ 32 * rem / den)
  (if up then n + 1 else n, rem != 0)

/-- FPSTAT bits (R70) and the Barometer class of a result (R55). -/
inductive ConvClass where
  | plain | vanished | clamped | subnormal
deriving DecidableEq, Repr

structure Conv where
  enc   : Nat
  flags : BitVec 5
  cls   : ConvClass
deriving DecidableEq, Repr

def flagIv : BitVec 5 := 1#5
def flagOf : BitVec 5 := 2#5
def flagUf : BitVec 5 := 4#5
def flagIx : BitVec 5 := 8#5
def flagSat : BitVec 5 := 16#5

/-- The quantum exponent at a value whose leading exponent is `l`, for `p` significand bits and minimum
normal exponent `emin` (R195 step 2). -/
def quantumExp (l emin : Int) (p : Nat) : Int := max l emin - p + 1

/-- Rounds a finite value into a floating format. `sat`: a finite result beyond the largest finite
magnitude becomes that magnitude (R37, R45); otherwise it becomes Inf (R115). A non-zero value whose result is zero sets ix and not uf:
R70 speaks of a non-zero result (DEDUCED, log entry 16). -/
def FloatFmt.roundFin (f : FloatFmt) (sat : Bool) (mode : Rounding) (neg : Bool) (m d : Nat) (e : Int) : Conv :=
  let s := if neg then f.signBit else 0
  if m = 0 then { enc := s, flags := 0, cls := .plain } else
  let p := f.fbits + 1
  let l := ratLog2 m d + e
  let q := quantumExp l f.emin p
  let (n, ix) := roundQuantum mode m d e q
  if n = 0 then { enc := s, flags := flagIx, cls := .vanished } else
  -- n lies in [1, 2^p]; the encoding of n * 2^q is linear in n, so a carry moves into the exponent field
  let enc := if n < 2 ^ f.fbits then n else ((q + f.fbits + f.bias).toNat - 1) * 2 ^ f.fbits + n
  if f.maxEnc < enc then
    if sat then { enc := s + f.maxEnc, flags := flagOf ||| flagIx, cls := .clamped }
    else { enc := s + f.infEnc, flags := flagOf ||| flagIx, cls := .clamped }
  else
    -- tiny after rounding with unbounded exponent range (R70)
    let (n', _) := roundQuantum mode m d e (l - p + 1)
    let tiny := decide ((Nat.log2 n' : Int) + (l - p + 1) < f.emin)
    { enc := s + enc
      flags := (if ix then flagIx else 0) ||| (if ix && tiny then flagUf else 0)
      cls := if n < 2 ^ f.fbits then .subnormal else .plain }

/-- Converts any value into FP32, FP16 or BF16 (R36, R37). A NaN input sets no flag here: the caller
sets iv where the NaN is new. -/
def FloatFmt.conv (f : FloatFmt) (sat : Bool) (mode : Rounding) (x : FVal) : Conv :=
  match x with
  | .nan => { enc := f.nanEnc, flags := 0, cls := .plain }
  | .inf neg => { enc := (if neg then f.signBit else 0) + f.infEnc, flags := 0, cls := .plain }
  | .fin neg m d e => f.roundFin sat mode neg m d e

/-- The FP32 value of a word. -/
def fp32 (w : Word) : FVal := fmtFp32.decode w.toNat

/-- Exact sum. The sum of opposite infinities is NaN; a zero sum is -0 only when both operands are -0 or
both are negative zeros of one sign (round to nearest even, IEEE 754). -/
def FVal.add (a b : FVal) : FVal :=
  match a, b with
  | .nan, _ => .nan
  | _, .nan => .nan
  | .inf x, .inf y => if x = y then .inf x else .nan
  | .inf x, .fin .. => .inf x
  | .fin .., .inf y => .inf y
  | .fin n1 m1 d1 e1, .fin n2 m2 d2 e2 =>
    let e := min e1 e2
    let x : Int := (m1 * d2 * 2 ^ (e1 - e).toNat : Nat)
    let y : Int := (m2 * d1 * 2 ^ (e2 - e).toNat : Nat)
    let t := (if n1 then -x else x) + (if n2 then -y else y)
    if t = 0 then .fin (n1 && n2) 0 1 0 else .fin (t < 0) t.natAbs (d1 * d2) e

def FVal.neg : FVal → FVal
  | .nan => .nan
  | .inf n => .inf (!n)
  | .fin n m d e => .fin (!n) m d e

/-- Exact product. Inf times 0 is NaN. -/
def FVal.mul (a b : FVal) : FVal :=
  match a, b with
  | .nan, _ => .nan
  | _, .nan => .nan
  | .inf x, .inf y => .inf (x != y)
  | .inf x, .fin y m _ _ => if m = 0 then .nan else .inf (x != y)
  | .fin x m _ _, .inf y => if m = 0 then .nan else .inf (x != y)
  | .fin n1 m1 d1 e1, .fin n2 m2 d2 e2 => .fin (n1 != n2) (m1 * m2) (d1 * d2) (e1 + e2)

/-- Exact quotient by a finite non-zero value; other quotients follow IEEE 754. -/
def FVal.div (a b : FVal) : FVal :=
  match a, b with
  | .nan, _ => .nan
  | _, .nan => .nan
  | .inf _, .inf _ => .nan
  | .inf x, .fin y _ _ _ => .inf (x != y)
  | .fin x _ _ _, .inf y => .zero (x != y)
  | .fin n1 m1 d1 e1, .fin n2 m2 d2 e2 =>
    if m2 = 0 then (if m1 = 0 then .nan else .inf (n1 != n2))
    else .fin (n1 != n2) (m1 * d2) (d1 * m2) (e1 - e2)

/-- Exact multiplication by 2^k. -/
def FVal.scale (a : FVal) (k : Int) : FVal :=
  match a with
  | .fin n m d e => .fin n m d (e + k)
  | x => x

def FVal.isNan : FVal → Bool
  | .nan => true
  | _ => false

def FVal.isFinite : FVal → Bool
  | .fin .. => true
  | _ => false

def FVal.isZero : FVal → Bool
  | .fin _ m _ _ => m = 0
  | _ => false

/-- The exact numeric order of two values that are not NaN, with -0 equal to +0. -/
def FVal.lt (a b : FVal) : Bool :=
  match a, b with
  | .inf x, .inf y => x && !y
  | .inf x, .fin .. => x
  | .fin .., .inf y => !y
  | .fin .., .fin .. =>
    match FVal.add a b.neg with
    | .fin n m _ _ => n && m != 0
    | _ => false
  | _, _ => false

/-- FP32 arithmetic (R115): the exact result `r` of operands `ops`, rounded once with overflow to Inf;
iv when a NaN arises from operands that are not NaN. An Inf result of infinite operands is exact. -/
def fp32Arith (r : FVal) (ops : List FVal) : Word × BitVec 5 :=
  let c := fmtFp32.conv false .rne r
  let iv := r.isNan && !ops.any FVal.isNan
  (BitVec.ofNat 32 c.enc, c.flags ||| (if iv then flagIv else 0))

def fp32Add (a b : Word) : Word × BitVec 5 := fp32Arith ((fp32 a).add (fp32 b)) [fp32 a, fp32 b]
def fp32Sub (a b : Word) : Word × BitVec 5 := fp32Arith ((fp32 a).add (fp32 b).neg) [fp32 a, fp32 b]
def fp32Mul (a b : Word) : Word × BitVec 5 := fp32Arith ((fp32 a).mul (fp32 b)) [fp32 a, fp32 b]
def fp32Fma (a b c : Word) : Word × BitVec 5 :=
  fp32Arith (((fp32 a).mul (fp32 b)).add (fp32 c)) [fp32 a, fp32 b, fp32 c]

/-- The canonical FP32 NaN (R34). -/
def nan32 : Word := 0x7FC00000#32

/-- Orders two FP32 words that are not NaN, with -0 below +0 (R115). -/
def fp32Below (a b : Word) : Bool :=
  (fp32 a).lt (fp32 b) || ((fp32 a).isZero && (fp32 b).isZero && a.getLsbD 31 && !b.getLsbD 31)

def fp32Min (a b : Word) : Word × BitVec 5 :=
  if (fp32 a).isNan || (fp32 b).isNan then (nan32, 0) else (if fp32Below b a then b else a, 0)
def fp32Max (a b : Word) : Word × BitVec 5 :=
  if (fp32 a).isNan || (fp32 b).isNan then (nan32, 0) else (if fp32Below a b then b else a, 0)
def fp32Abs (a : Word) : Word := if (fp32 a).isNan then nan32 else setFld a 31 1 0
def fp32Neg (a : Word) : Word := if (fp32 a).isNan then nan32 else a ^^^ 0x80000000#32

/-- Rounds an exact dyadic square root to FP32 to nearest even (R203); the argument is not negative. -/
def fp32Sqrt (a : Word) : Word :=
  match fp32 a with
  | .nan => nan32
  | .inf neg => if neg then nan32 else a
  | .fin neg m _ e =>
    if m = 0 then a else if neg then nan32 else
    -- scale so that the exponent is even and the root has more than 60 bits; a sticky bit keeps it exact enough
    let (m, e) := if e % 2 = 0 then (m, e) else (2 * m, e - 1)
    let m' := m * 2 ^ 120
    let r := Nat.sqrt m'
    let r' := if r * r = m' then 2 * r else 2 * r + 1
    BitVec.ofNat 32 (fmtFp32.conv false .rne (.fin false r' 1 (e / 2 - 61))).enc

/-! ### Integer conversions -/

/-- Rounds a finite value to an integer magnitude (R38, R195 with quantum 1). -/
def roundInt (mode : Rounding) (x : FVal) : Int × Bool :=
  match x with
  | .fin neg m d e => let (n, ix) := roundQuantum mode m d e 0; (if neg then -(n : Int) else n, ix)
  | _ => (0, false)

/-- Encodes an integer in `w` bits, two's complement. -/
def encInt (w : Nat) (i : Int) : Nat := (BitVec.ofInt w i).toNat

/-- Converts into INT8 or INT4 of `w` bits with scale word `s` (R49). -/
def convIntScaled (w : Nat) (mode : Rounding) (x : FVal) (s : Word) : Conv :=
  let lo : Int := -(2 ^ (w - 1) : Nat)
  let hi : Int := (2 ^ (w - 1) : Nat) - 1
  let badScale : Bool := match fp32 s with
    | .fin neg m _ _ => neg || m < 2 ^ 23
    | _ => true
  if badScale then { enc := 0, flags := flagIv, cls := .plain } else
  match x with
  | .nan => { enc := 0, flags := flagIv, cls := .plain }
  | .inf neg => { enc := encInt w (if neg then lo else hi), flags := flagIv, cls := .clamped }
  | .fin .. =>
    let (i, ix) := roundInt mode (x.div (fp32 s))
    if i < lo then { enc := encInt w lo, flags := flagOf ||| flagIx, cls := .clamped }
    else if hi < i then { enc := encInt w hi, flags := flagOf ||| flagIx, cls := .clamped }
    else { enc := encInt w i, flags := if ix then flagIx else 0
           cls := if i = 0 && !x.isZero then .vanished else .plain }

/-- INT8 or INT4 value `q` times the FP32 scale, rounded once and saturated (R50, R123, R139). -/
def convScaleUp (q : Int) (s : Word) : Conv :=
  let x := (FVal.ofInt q).mul (fp32 s)
  let c := fmtFp32.conv true .rne x
  { c with flags := c.flags ||| (if x.isNan && !(fp32 s).isNan then flagIv else 0)
           cls := if x.isFinite && !x.isZero then c.cls else .plain }

/-- INT32 saturated into `w` bits (R116 fn 5, R123 fmt 100, R139). A saturated result counts as converted only: R55 limits clamped to
R37, R45, R49 and R52. -/
def convIntSat (w : Nat) (q : Int) : Conv :=
  let lo : Int := -(2 ^ (w - 1) : Nat)
  let hi : Int := (2 ^ (w - 1) : Nat) - 1
  if q < lo then { enc := encInt w lo, flags := flagOf ||| flagIx, cls := .plain }
  else if hi < q then { enc := encInt w hi, flags := flagOf ||| flagIx, cls := .plain }
  else { enc := encInt w q, flags := 0, cls := .plain }

/-! ### W32 and W64 (R51, R52) -/

/-- The saturation marker of a W format of `w` bits. -/
def wSat (w : Nat) : BitVec w := BitVec.ofNat w (2 ^ (w - 1))

/-- A W element from an exact integer: SAT outside the representable range. -/
def wOfInt (w : Nat) (i : Int) : BitVec w :=
  if (2 ^ (w - 1) : Nat) ≤ i.natAbs then wSat w else BitVec.ofInt w i

/-- FP32 to W at 2^sigma; the result of a NaN is counted as converted only (R55). -/
def convToW (w : Nat) (mode : Rounding) (x : FVal) (sigma : Int) : Conv :=
  match x with
  | .fin .. =>
    let (i, ix) := roundInt mode (x.scale (-sigma))
    if (2 ^ (w - 1) : Nat) ≤ i.natAbs then { enc := (wSat w).toNat, flags := flagOf ||| flagIx, cls := .clamped }
    else { enc := encInt w i, flags := if ix then flagIx else 0
           cls := if i = 0 && !x.isZero then .vanished else .plain }
  | .inf _ => { enc := (wSat w).toNat, flags := flagIv, cls := .clamped }
  | .nan => { enc := (wSat w).toNat, flags := flagIv, cls := .plain }

/-- W addition with its FPSTAT bits (R52, R70). -/
def wAdd {w : Nat} (a b : BitVec w) : BitVec w × BitVec 5 :=
  if a = wSat w || b = wSat w then (wSat w, 0) else
  let t := a.toInt + b.toInt
  (wOfInt w t, if (2 ^ (w - 1) : Nat) ≤ t.natAbs then flagSat else 0)

/-- W to FP32 at 2^sigma: SAT becomes the canonical NaN. -/
def convFromW {w : Nat} (a : BitVec w) (sigma : Int) : Conv :=
  if a = wSat w then { enc := nan32.toNat, flags := flagIv, cls := .plain } else
  fmtFp32.conv true .rne ((FVal.ofInt a.toInt).scale sigma)

/-- W64 to W32: SAT where the value is out of range or was SAT. A SAT that stays SAT counts as clamped (DESIGN CHOICE, log entry 16:
R55 says "became SAT"). -/
def convW64to32 (a : BitVec 64) : Conv :=
  if a = wSat 64 then { enc := (wSat 32).toNat, flags := 0, cls := .clamped }
  else if 2 ^ 31 ≤ a.toInt.natAbs then { enc := (wSat 32).toNat, flags := flagOf ||| flagIx, cls := .clamped }
  else { enc := encInt 32 a.toInt, flags := 0, cls := .plain }

/-- W32 to W64: exact, SAT stays SAT. -/
def w32to64 (a : Word) : DWord := if a = wSat 32 then wSat 64 else a.signExtend 64

/-! ### MX blocks (R39 to R47) -/

/-- The MX element formats by the MMAF codes 3 to 8 (R130). -/
inductive MxElem where
  | e4m3 | e5m2 | e3m2 | e2m3 | e2m1 | int8
deriving DecidableEq, Repr

def MxElem.bits : MxElem → Nat
  | .e4m3 => 8 | .e5m2 => 8 | .e3m2 => 6 | .e2m3 => 6 | .e2m1 => 4 | .int8 => 8

def MxElem.emax : MxElem → Int
  | .e4m3 => 8 | .e5m2 => 15 | .e3m2 => 4 | .e2m3 => 2 | .e2m1 => 2 | .int8 => 0

def MxElem.fmt : MxElem → Option FloatFmt
  | .e4m3 => some fmtE4M3 | .e5m2 => some fmtE5M2 | .e3m2 => some fmtE3M2
  | .e2m3 => some fmtE2M3 | .e2m1 => some fmtE2M1 | .int8 => none

/-- The value of an element at scale field `sc` (R47, R135): NaN throughout a block whose scale is FF. -/
def MxElem.decode (k : MxElem) (sc enc : Nat) : FVal :=
  if sc = 255 then .nan else
  match k.fmt with
  | some f => (f.decode enc).scale ((sc : Int) - 127)
  | none => (FVal.ofInt (BitVec.ofNat 8 enc).toInt).scale ((sc : Int) - 127 - 6)

/-- The scale field chosen for a block (R43, R44). -/
def mxScale (k : MxElem) (xs : List FVal) : Nat :=
  if xs.any (fun x => !x.isFinite) then 255 else
  let es := xs.filterMap fun x => match x with
    | .fin _ m d e => if m = 0 then none else some (ratLog2 m d + e)
    | _ => none
  match es with
  | [] => 0
  | e :: r => (max (-127) (min 127 ((r.foldl max e) - k.emax)) + 127).toNat

/-- Converts one element at scale field `sc` (R45, R46). -/
def MxElem.conv (k : MxElem) (mode : Rounding) (sc : Nat) (x : FVal) : Conv :=
  match x.scale (127 - (sc : Int)) with
  | .fin neg m d e =>
    match k.fmt with
    | some f => f.roundFin true mode neg m d e
    | none =>
      let (n, ix) := roundQuantum mode m d e (-6)
      let s : Int := if neg then -1 else 1
      if 127 < n then { enc := encInt 8 (s * 127), flags := flagOf ||| flagIx, cls := .clamped }
      else { enc := encInt 8 (s * n), flags := if ix then flagIx else 0
             cls := if n = 0 && m != 0 then .vanished else .plain }
  | _ => { enc := 0, flags := 0, cls := .plain }

/-- Converts a block of 32 values, element `i` rounded by `mode i`: scale field, element results, flags. -/
def mxBlock (k : MxElem) (mode : Nat → Rounding) (xs : List FVal) : Nat × List Conv × BitVec 5 :=
  let sc := mxScale k xs
  if sc = 255 then (255, xs.map fun _ => { enc := 0, flags := 0, cls := .plain }, flagIv) else
  let cs := xs.mapIdx fun i x => k.conv (mode i) sc x
  (sc, cs, cs.foldl (fun a c => a ||| c.flags) 0)

/-- Packs element codes of `b` bits into bytes, element 0 in the least significant bits (R41). -/
def packElems (b : Nat) (es : List Nat) : List Byte :=
  bytesLE (es.length * b / 8) ((es.mapIdx fun i e => e * 2 ^ (b * i)).foldl (· + ·) 0)

/-- Element `i` of a span of `b`-bit elements (R41). -/
def elemOf (b i : Nat) (span : List Byte) : Nat := ofBytesLE span / 2 ^ (b * i) % 2 ^ b

/-! ### Drizzle (R191) -/

def rotl32 (x : Word) (n : Nat) : Word := (x <<< n) ||| (x >>> (32 - n))

/-- One round of Drizzle on the state (a, b, c, d). -/
def drizzleRound (k0 k1 : Word) (i : Nat) (st : Word × Word × Word × Word) : Word × Word × Word × Word :=
  let (a, b, c, d) := st
  let a := a + b + k0
  let d := rotl32 (d ^^^ a) 16
  let c := c + d + k1
  let b := rotl32 (b ^^^ c) 12
  let a := a + b + BitVec.ofNat 32 i
  let d := rotl32 (d ^^^ a) 8
  let c := c + d
  let b := rotl32 (b ^^^ c) 7
  (a, b, c, d)

/-- The Drizzle output for a logical index of 48 bits. -/
def drizzle (seed : DWord) (step tensor : Word) (index : Nat) (replica : Nat) : Word :=
  let d : Word := BitVec.ofNat 32 (replica % 65536 * 65536 + index / 2 ^ 32 % 65536)
  let st := (List.range 6).foldl (fun st i => drizzleRound (loWord seed) (hiWord seed) i st)
    (step, tensor, BitVec.ofNat 32 index, d)
  st.1 ^^^ st.2.2.1

/-! ### Cyclic redundancy codes -/

/-- CRC-64/ECMA-182, one byte (R155). -/
def crc64Byte (c : DWord) (b : Byte) : DWord :=
  (List.range 8).foldl (fun c _ => if c.getLsbD 63 then (c <<< 1) ^^^ 0x42F0E1EBA9EA3693#64 else c <<< 1)
    (c ^^^ (b.setWidth 64 <<< 56))

def crc64 (c : DWord) (bs : List Byte) : DWord := bs.foldl crc64Byte c

end Sys2Proof.Machine
end

