-- ==== Sys2Proof/Machine/Pages.lean ====
section
/-! DEFINITION. The BAR0 map (25 R682 to R694): block pages, their identities, error sources and defaults. -/

namespace Sys2Proof.Machine

/-- A block page (R683, R685, R687). `c` is a physical core, `n` a memory port, `p` a fabric port, `t` a
physical tile index. -/
inductive Page where
  | glb | pwr | flt | evr | tmb | tel | hif | rsl
  | mem (n : Nat) | fab | fport (p : Nat)
  | core (c : Nat) | sync (c : Nat) | stream (c : Nat) | queue (c : Nat) | pool (c : Nat) | num (c : Nat) | coll (c : Nat)
  | tile (t : Nat) | debug (c : Nat)
deriving DecidableEq, Repr

/-- BAR0 offset of physical core c's 1 MiB (R685). -/
def coreBase (c : Nat) : Nat := 0x100000 + c * 0x100000

/-- BAR0 offset of a page (R685, R687). -/
def Page.base : Page → Nat
  | .glb => 0x0 | .pwr => 0x1000 | .flt => 0x2000 | .evr => 0x3000 | .tmb => 0x4000 | .tel => 0x5000 | .hif => 0x6000
  | .rsl => 0x8000 | .mem n => 0x10000 + n * 0x2000 | .fab => 0x20000 | .fport p => 0x21000 + p * 0x1000
  | .core c => coreBase c | .sync c => coreBase c + 0x1000 | .stream c => coreBase c + 0x2000
  | .queue c => coreBase c + 0x3000 | .pool c => coreBase c + 0x4000 | .num c => coreBase c + 0x5000
  | .coll c => coreBase c + 0xA000 | .tile t => coreBase (t / 204) + 0x30000 + (t % 204) * 0x1000
  | .debug c => 0x1000000 + c * 0x1000

/-- The page index of R557. -/
def Page.index (p : Page) : Nat := p.base / 0x1000 % 8192

/-- A place in the BAR0 map: a block page, a window word, or nothing (R685, R687). -/
inductive Place where
  | page (p : Page) (off : Nat)
  | fpWindow (off : Nat)
  | fcWindow (off : Nat)
  | tagWindow (c off : Nat)
  | cqWindow (c off : Nat)
  | collWindow (c off : Nat)
  | syncWindow (c off : Nat)
  | streamWindow (c off : Nat)
  | reserved
deriving DecidableEq, Repr

/-- The place inside a core's 1 MiB (R687). -/
def corePlace (c o : Nat) : Place :=
  if o < 0x1000 then .page (.core c) o
  else if o < 0x2000 then .page (.sync c) (o - 0x1000)
  else if o < 0x3000 then .page (.stream c) (o - 0x2000)
  else if o < 0x4000 then .page (.queue c) (o - 0x3000)
  else if o < 0x5000 then .page (.pool c) (o - 0x4000)
  else if o < 0x6000 then .page (.num c) (o - 0x5000)
  else if o < 0x8000 then .tagWindow c (o - 0x6000)
  else if o < 0xA000 then .cqWindow c (o - 0x8000)
  else if o < 0xB000 then .page (.coll c) (o - 0xA000)
  else if o < 0xC000 then .collWindow c (o - 0xB000)
  else if o < 0x10000 then .reserved
  else if o < 0x20000 then .syncWindow c (o - 0x10000)
  else if o < 0x30000 then .streamWindow c (o - 0x20000)
  else if o < 0xFC000 then .page (.tile (c * 204 + (o - 0x30000) / 0x1000)) (o % 0x1000)
  else .reserved

/-- The place of a BAR0 offset (R685). -/
def placeOf (o : Nat) : Place :=
  if o < 0x7000 then
    match o / 0x1000 with
    | 0 => .page .glb (o % 0x1000) | 1 => .page .pwr (o % 0x1000) | 2 => .page .flt (o % 0x1000)
    | 3 => .page .evr (o % 0x1000) | 4 => .page .tmb (o % 0x1000) | 5 => .page .tel (o % 0x1000)
    | _ => .page .hif (o % 0x1000)
  else if o < 0x8000 then .fpWindow (o - 0x7000)
  else if o < 0x9000 then .page .rsl (o % 0x1000)
  else if o < 0x10000 then .reserved
  else if o < 0x20000 then if o % 0x2000 < 0x1000 then .page (.mem ((o - 0x10000) / 0x2000)) (o % 0x1000) else .reserved
  else if o < 0x21000 then .page .fab (o % 0x1000)
  else if o < 0x2D000 then .page (.fport ((o - 0x21000) / 0x1000)) (o % 0x1000)
  else if o < 0x40000 then .reserved
  else if o < 0x60000 then .fcWindow (o - 0x40000)
  else if o < 0x100000 then .reserved
  else if o < 0x900000 then corePlace ((o - 0x100000) / 0x100000) (o % 0x100000)
  else if o < 0x1000000 then .reserved
  else if o < 0x1008000 then .page (.debug ((o - 0x1000000) / 0x1000)) (o % 0x1000)
  else .reserved

/-- Block type and instance (R683). -/
def Page.blkId : Page → Word
  | .glb => 0x00010000#32 | .pwr => 0x00020000#32 | .flt => 0x00030000#32 | .evr => 0x00040000#32
  | .tmb => 0x00050000#32 | .tel => 0x00060000#32 | .hif => 0x00070000#32 | .rsl => 0x00080000#32
  | .mem n => BitVec.ofNat 32 (0x100000 + n) | .fab => 0x00200000#32 | .fport p => BitVec.ofNat 32 (0x210000 + p)
  | .core c => BitVec.ofNat 32 (0x300000 + c) | .sync c => BitVec.ofNat 32 (0x310000 + c)
  | .stream c => BitVec.ofNat 32 (0x320000 + c) | .queue c => BitVec.ofNat 32 (0x330000 + c)
  | .pool c => BitVec.ofNat 32 (0x340000 + c) | .num c => BitVec.ofNat 32 (0x350000 + c)
  | .coll c => BitVec.ofNat 32 (0x360000 + c) | .tile t => BitVec.ofNat 32 (0x400000 + t)
  | .debug c => BitVec.ofNat 32 (0x500000 + c)

/-- Default severities of a page's error sources, source 0 first; its length is BLK_CAP.nsrc (R86, R240,
R280, R308, R342, R361, R392, R422, R460, R489, R554, R572, R584, R598, R625, R659, R690). -/
def Page.sevs : Page → List Nat
  | .glb => [3, 0]
  | .pwr => [0, 1, 1, 0, 1, 3]
  | .flt => [2, 3, 3, 3, 0, 1, 0]
  | .evr => [1, 0]
  | .tmb => [1, 1, 0, 1, 1]
  | .tel => []
  | .hif => [1, 1, 0, 0, 1, 3]
  | .rsl => [1, 1, 1, 1]
  | .mem _ => [0, 3, 0]
  | .fab => [1, 1, 1, 1, 3]
  | .fport _ => [0, 0, 0, 1, 1, 1, 1, 2, 2]
  | .core _ => [0, 3]
  | .sync _ => [0, 1, 1, 0, 1, 2]
  | .stream _ => [1, 2]
  | .queue _ => [0, 1]
  | .pool _ => [0, 2, 0]
  | .num _ => []
  | .coll _ => [1, 0, 1, 2]
  | .tile _ => [1, 0, 2, 2]
  | .debug _ => []

def Page.nsrc (p : Page) : Nat := p.sevs.length

/-- Sources whose severity is fixed (R564, R572, R584). -/
def Page.fixedSrc : Page → Nat → Bool
  | .mem _, s => s == 1
  | .flt, s => s == 1 || s == 2 || s == 3
  | _, _ => false

/-- Sources whose mask bit reads 0 and ignores writes (R556, R563). -/
def Page.unmaskable (p : Page) (s : Nat) : Bool := p.fixedSrc s || (p = .flt && s == 0)

/-- The reset value of BLK_ERR_SEV0/1: two bits per source (R561). -/
def Page.sevReset (p : Page) (half : Nat) : Word :=
  packFields 32 ((p.sevs.mapIdx fun i v => if i / 16 = half then (2 * (i % 16), v) else (0, 0)))

/-- The default dew point of register 0 (R561): N, source, unit and window length. -/
def Page.dewReset : Page → Word
  | .tile _ => packFields 32 [(0, 16), (12, 1), (18, 2), (20, 60)]
  | .pool _ => packFields 32 [(0, 32), (12, 0), (18, 2), (20, 60)]
  | .core _ => packFields 32 [(0, 16), (12, 0), (18, 2), (20, 60)]
  | .mem _ => packFields 32 [(0, 256), (12, 0), (18, 2), (20, 60)]
  | .fport _ => packFields 32 [(0, 16), (12, 1), (18, 1), (20, 1)]
  | _ => 0

/-- Kinds of fence unit (R558). -/
inductive FUnit where
  | tile (t : Nat) | core (c : Nat) | mem (n : Nat) | port (p : Nat)
deriving DecidableEq, Repr

/-- The unit identity of R558. -/
def FUnit.code : FUnit → Nat
  | .tile t => t * 4 | .core c => c * 4 + 1 | .mem n => n * 4 + 2 | .port p => p * 4 + 3

/-- The unit an identity names, if it is one of R558's. -/
def FUnit.ofCode (x : Nat) : Option FUnit :=
  match x % 4 with
  | 0 => if x / 4 < 1632 then some (.tile (x / 4)) else none
  | 1 => if x / 4 < 8 then some (.core (x / 4)) else none
  | 2 => if x / 4 < 8 then some (.mem (x / 4)) else none
  | _ => if x / 4 < 12 then some (.port (x / 4)) else none

/-- The unit that a FENCE action of a source fences (R562): none where FENCE acts as RESET. -/
def Page.unit : Page → Option FUnit
  | .tile t => some (.tile t)
  | .sync c => some (.core c) | .stream c => some (.core c) | .queue c => some (.core c) | .pool c => some (.core c)
  | .num c => some (.core c) | .coll c => some (.core c)
  | .mem n => some (.mem n) | .fport p => some (.port p)
  | _ => none

/-- The page belongs to a unit of R558 (BLK_CAP.fenceable). -/
def Page.fenceUnit : Page → Option FUnit
  | .core c => some (.core c)
  | p => p.unit

/-! ### Stored registers -/

/-- Header offsets (R682). -/
def blkCtrl : Nat := 0x10
def blkStat : Nat := 0x14
def blkSticky : Nat := 0x18
def blkMask : Nat := 0x1C
def blkSev0 : Nat := 0x20
def blkSev1 : Nat := 0x24
def blkDew0 : Nat := 0x30
def blkIntStat : Nat := 0x40
def blkIntEn : Nat := 0x44

/-- Reset value of a header register (R682). -/
def Page.headerReset (p : Page) (off : Nat) : Word :=
  if off = blkSev0 then p.sevReset 0
  else if off = blkSev1 then p.sevReset 1
  else if off = blkDew0 then p.dewReset
  else if off = blkIntEn then 1
  else 0

end Sys2Proof.Machine
end

