-- ==== Sys2Proof/Machine/RegMap.lean ====
section
/-! DEFINITION. The stored registers of the block pages and windows: which bits a write stores (RW), which
it clears (W1C), what they hold at reset, and the condition under which a write takes effect. Registers that
are computed when read, and those whose write is a command of its own, stand in Machine/RegRead.lean and
Machine/RegWrite.lean. -/

namespace Sys2Proof.Machine

/-- The conditions of R680, "takes effect only while". -/
inductive Guard where
  | always
  /-- both run bits of the tile are 0 (R82) -/
  | tileHalted
  /-- every tile of the core has both run bits 0 (R213) -/
  | coreHalted
  /-- every tile of the package has both run bits 0 (R360) -/
  | packageHalted
  /-- the core's tiles are halted and no spill cell is in use (R239) -/
  | poolFree
  /-- HIF_CTRL.dlv_en is 0 (R658) -/
  | deliveryOff
  /-- RINGr_CFG.en is 0 (R658) -/
  | ringOff (r : Nat)
  /-- no context of the core's stream engine is RUNNING (R279) -/
  | noStage
  /-- every tile halted and the forecast disarmed (R459) -/
  | haltedDisarmed
  /-- the forecast is disarmed (R373, R391) -/
  | disarmed
  /-- every tile halted, or the commit is held (R553) -/
  | haltedOrHeld
deriving DecidableEq, Repr

/-- A field with reserved encodings: its lowest bit, its length, and the values it takes (R16). -/
structure Cap where
  lo    : Nat
  len   : Nat
  least : Nat := 0
  most  : Nat
deriving DecidableEq, Repr

/-- `n` registers from `off`, `stride` apart. `wide`: half of a 64-bit register written under R681, false the
low word. `caps` are the fields with reserved encodings, of the register of 64 bits where `wide` is not none. -/
structure RegRow where
  off    : Nat
  n      : Nat := 1
  stride : Nat := 4
  reset  : Word := 0
  rw     : Word := 0
  w1c    : Word := 0
  guard  : Guard := .always
  wide   : Option Bool := none
  caps   : List Cap := []
deriving DecidableEq, Repr

def RegRow.covers (r : RegRow) (off : Nat) : Bool :=
  r.off ≤ off && (off - r.off) % r.stride == 0 && (off - r.off) / r.stride < r.n

/-- A row in one line. -/
def row (off : Nat) (rw : Word) (reset : Word := 0) (guard : Guard := .always) (n : Nat := 1) (stride : Nat := 4) : RegRow :=
  { off := off, rw := rw, reset := reset, guard := guard, n := n, stride := stride }

/-- A 64-bit register: its two rows. -/
def row64 (off : Nat) (lo hi : Word) (guard : Guard := .always) (reset : Word := 0) : List RegRow :=
  [{ off := off, rw := lo, guard := guard, wide := some false, reset := reset },
   { off := off + 4, rw := hi, guard := guard, wide := some true }]

/-- Stored registers of the tile page (R81); CTX_CTRL without its run bits. -/
def tileRows : List RegRow :=
  [row 0x84 7, row 0x88 0x00FF0300#32 0x00100100#32, { row 0x98 0x7FF with guard := .tileHalted },
   row 0x9C 0xFFFF 0 .tileHalted, row 0xA0 1 0 .tileHalted, row 0xC0 0xFFFFFFFF#32 0 .always 4 8,
   { row 0xC4 0x1F7F 0 .always 4 8 with caps := [{ lo := 8, len := 5, most := 19 }] }, { off := 0xE0, w1c := 0xF }, row 0xFC 1]

/-- Numerics page (R212). -/
def numRows : List RegRow :=
  [row 0x80 0xFFFFFFFF#32 0 .coreHalted, row 0x84 0xFFFFFFFF#32 0 .coreHalted, row 0x88 0xFFFFFFFF#32 0 .coreHalted,
   row 0x8C 0xFFFF 0 .coreHalted]

/-- Pool page (R238). -/
def poolRows : List RegRow :=
  [row 0x80 0x00FFFFC0#32 0 .poolFree, { row 0x84 0x01FFFFC0#32 0x00FC0000#32 .poolFree with caps := [{ lo := 6, len := 19, most := 0x40000 }] },
   row 0x88 0x00FFFFC0#32 0x00FC0000#32 .poolFree,
   { row 0x8C 0x01FFFFC0#32 0x00040000#32 .poolFree with caps := [{ lo := 6, len := 19, most := 0x40000 }] }]

/-- Global page (R689). -/
def glbRows : List RegRow := [row 0x98 0xFFFFFFFF#32 0 .always 4]

/-- Power page (R623). -/
def pwrRows : List RegRow := [row 0x84 1, row 0x88 0xFFF 0x640]

/-- Collector page (R583). -/
def fltRows : List RegRow := [row 0x80 1, row 0x90 0x1FFF, row 0x98 0x1FFF, row 0xA4 0xFFFF 0x3E8, row 0xA8 0xFFFF 0x2710]

/-- Recorder page (R597). -/
def evrRows : List RegRow := row64 0xE0 0xFFFFFFFF#32 0xFFFFFFFF#32 ++ [row 0x90 0x3FFF]

/-- Rows of one command ring (R657). -/
def ringRows (r : Nat) : List RegRow :=
  row64 (0x400 + 32 * r) 0xFFFFF000#32 0xFFFFFFFF#32 (.ringOff r) ++
  row64 (0x408 + 32 * r) 0xFFFFF000#32 0xFFFFFFFF#32 (.ringOff r) ++
  [row (0x410 + 32 * r) 0x001F1F01#32, row (0x414 + 32 * r) 0xFFFF07FF#32]

/-- HIF page (R657): the ring registers are those of the ring that the offset names. -/
def hifRows (off : Nat) : List RegRow :=
  if 0x400 ≤ off && off < 0xC00 then ringRows ((off - 0x400) / 32) else
  [row 0x80 7, row 0x88 0x1FF] ++ row64 0x90 0xFFFFF000#32 0xFFFFFFFF#32 .deliveryOff ++
  [row 0x98 0x3F 0x18 .deliveryOff, row 0x9C 0xFFFFFFC0#32, { off := 0xA4, w1c := 0xF }, row 0xA8 0xF,
   row 0xAC 0x07FF07FF#32, row 0xB0 0x07FF07FF#32]

/-- Core control page (R359). -/
def coreRows : List RegRow := [row 0x100 0x07FFFFFF#32 0x07FAC688#32 .packageHalted]

/-- Queue page (R306, R307); CQ_DATA, CQ_STAT and QDL_INFO are stored by the queue unit. -/
def queueRows : List RegRow :=
  [row 0x80 0xFFFFFFFF#32 0x00100000#32, row 0x84 0xFFFF 0x200 .coreHalted, row 0x8C 0, row 0x90 0, row 0x98 0,
   row 0x100 0 0 .always 64, row 0x200 0xFFFFFFFF#32 0 .always 62]

/-- Sync page (R340, R341). -/
def syncRows : List RegRow :=
  [row 0x80 1, row 0x84 0xFFFFFFFF#32 0x01000000#32, row 0x90 0x1FFF, row 0x94 0xFFFFFFFF#32, row 0xA0 0,
   row 0xA4 0x1FFFF 0 .coreHalted, row 0xA8 0x7F 0 .coreHalted, row 0xB0 0,
   { row 0xC0 0xFFF with caps := [{ lo := 8, len := 4, most := 11 }] },
   row 0x400 0xFF07 0 .coreHalted 254,
   { off := 0x800, n := 256, stride := 8, rw := 0xFFFFFFFF#32, guard := .coreHalted, wide := some false },
   { off := 0x804, n := 256, stride := 8, rw := 0x0FFFFFFF#32, guard := .coreHalted, wide := some true
     caps := (List.range 12).map fun r => { lo := 5 * r, len := 5, most := 16 } }]

/-- Debug page (R339). -/
def debugRows : List RegRow := [row 0x80 0x1FFF, row 0x84 0xFFFFFFFF#32, row 0x8C 0]

/-- Stream page (R277 to R279). -/
def streamRows : List RegRow :=
  [row 0x80 0xFFFFFFFF#32 0x00100000#32 .noStage, row 0x84 0xFFFF 0x1000 .noStage,
   row 0x100 0xFFFFFFFF#32 0 .noStage 16 16, row 0x104 0xFFFFFFFF#32 0 .noStage 16 16,
   row 0x108 0xFFFFFFFF#32 0 .noStage 16 16, row 0x10C 0xF 0 .noStage 16 16]

/-- Collective page (R487, R488). -/
def collRows : List RegRow := [row 0x80 1 0 .coreHalted, row 0x88 0]

/-- Fabric page (R458, R459), FAB_EPOCH and FAB_CTRL apart from their writes. -/
def fabRows : List RegRow :=
  [row 0x80 0xFFFF 0 .haltedDisarmed, row 0x84 0xFFFFFFFF#32 0 .packageHalted, row 0x88 0, row 0x8C 0 0x2000, row 0x94 0xFFFF,
   row 0xA0 0x0F0FFFFF#32 0x04004E20#32, row 0xA4 0, row 0xA8 0, row 0xB0 0, row 0xB4 0] ++
  row64 0xB8 0xFFFFFFFF#32 0xFFFFFFFF#32 ++ [row 0xC0 0xFFFFFFFF#32, row 0xC8 0, row 0xCC 0] ++
  (List.range 6).flatMap (fun a =>
    [row (0x400 + 8 * a) 0x3FFFF 0 .haltedDisarmed 16 64, { row (0x404 + 8 * a) 0x1FFFF 0 .haltedDisarmed 16 64 with caps := [{ lo := 0, len := 17, most := 0x10000 }] }]) ++
  [row 0x800 0xFFFFFFFF#32 0 .packageHalted 64 8, row 0x804 0xFFFF00FF#32 0 .packageHalted 64 8]

/-- Port page (R421); train_en of FP_CTRL and FP_CMD are commands. -/
def fportRows : List RegRow :=
  [row 0x80 0xFF00 0x4000, row 0x94 0, row 0xA8 0xFFFF 0xFA0, row 0x208 0 0 .always 8 16, row 0x20C 0 0 .always 8 16]

/-- Time-base page (R390, R391); TMB_CTRL and FC_CTRL are commands. -/
def tmbRows : List RegRow :=
  [row 0x80 0] ++ row64 0x90 0xFFFFFFFF#32 0xFFFFFFFF#32 ++
  [row 0xA0 0xFFFF 0xFA0, row 0xA4 0xFFFFFFFF#32 0x00989680#32, row 0xA8 0 0 .always 3, row 0xC0 0xFFFF 0 .always 12,
   { row 0x208 0x1FFF 0 .disarmed with caps := [{ lo := 0, len := 13, least := 1, most := 4096 }] }] ++ row64 0x210 0xFFFFFFFF#32 0xFFFFFFFF#32 .disarmed ++
  [row 0x218 0xFFFFFFFF#32 0 .disarmed, row 0x220 0xFFF 0x47E .disarmed] ++ row64 0x230 0xFFFFFFFF#32 0xFFFFFFFF#32 ++
  [{ row 0x240 0x07FFFFFF#32 0 .disarmed 8 with caps := [{ lo := 19, len := 8, most := 192 }] }, row 0x280 0 0 .always 8]

/-- Telemetry page (R511). -/
def telRows : List RegRow :=
  row64 0x300 0xFFFFFFFF#32 0xFFFFFFFF#32 .packageHalted ++ row64 0x308 0xFFFFFFFF#32 0xFFFFFFFF#32 .packageHalted ++
  row64 0x310 0xFFFFFFFF#32 0xFFFFFFFF#32 ++ [row 0x318 0, row 0x324 0, row 0x328 0, row 0x330 0, row 0x334 0]

/-- Memory-port page (R691): MEM_CAP is stored by the training. -/
def memRows : List RegRow := [row 0x84 0]

/-- Resilience page (R552, R553). MIRi_CTRL.broken is stored in its word and no write sets it. -/
def rslRows : List RegRow :=
  [row 0x80 0xFF 0 .packageHalted] ++ row64 0x90 0xFFFFFFC0#32 0x3FFF .packageHalted ++
  row64 0x98 0xFFFFE000#32 0xFFFFFFFF#32 .haltedOrHeld ++ row64 0xA0 0xFFFFE000#32 0xFFFFFFFF#32 .haltedOrHeld ++
  [row 0xA8 0xFFFF 0x7D0, row 0xB4 0, row 0xC0 0xFFFFFFFF#32 0 .packageHalted, row 0xC4 0xFFFF, row 0xCC 0,
   row 0x100 0x3FFFFFFF#32 0 .packageHalted 64 16, row 0x104 0x3FFFFFFF#32 0 .packageHalted 64 16,
   row 0x108 0xFFFFFF 0 .packageHalted 64 16, row 0x10C 0xFFFF0001#32 0 .packageHalted 64 16,
   row 0x600 0x3FFFFFFF#32 0 .packageHalted 16 32, row 0x604 0xFFFFFF 0 .packageHalted 16 32,
   { off := 0x608, n := 16, stride := 32, rw := 0xFFFF0000#32, guard := .packageHalted, wide := some false },
   { off := 0x60C, n := 16, stride := 32, rw := 0xFFFF3FFF#32, guard := .packageHalted, wide := some true },
   row 0x610 7 0 .packageHalted 16 32]


/-- Stored registers of a page at and above 0x080. -/
def Page.rows (p : Page) (off : Nat) : List RegRow :=
  match p with
  | .glb => glbRows | .pwr => pwrRows | .flt => fltRows | .evr => evrRows | .hif => hifRows off
  | .num _ => numRows | .pool _ => poolRows | .tile _ => tileRows
  | .core _ => coreRows | .queue _ => queueRows | .sync _ => syncRows | .debug _ => debugRows | .stream _ => streamRows
  | .coll _ => collRows | .fab => fabRows | .fport _ => fportRows | .tmb => tmbRows
  | .tel => telRows | .mem _ => memRows | .rsl => rslRows

/-- The row of a register, if it stores anything. -/
def Page.row? (p : Page) (off : Nat) : Option RegRow := (p.rows off).find? fun r => r.covers off

/-- Offsets of the page at and above 0x080 that a register table lists, as half-open ranges (R583, R597 and the other
register tables); every other one is reserved (R628). -/
def Page.ranges : Page → List (Nat × Nat)
  | .glb => [(0x80, 0x8C), (0x90, 0xA8), (0xB0, 0xD0)]
  | .pwr => [(0x80, 0xC8), (0x100, 0x190), (0x200, 0x2B8)]
  | .flt => [(0x80, 0xB4), (0xB8, 0xD8), (0x100, 0x180), (0x800, 0x998), (0x9A0, 0x9A4), (0xC00, 0xE00)]
  | .evr => [(0x80, 0x9C), (0xA0, 0xF0), (0x800, 0x1000)]
  | .tmb => [(0x80, 0xB4), (0xC0, 0xF0), (0x200, 0x20C), (0x210, 0x22C), (0x230, 0x238), (0x240, 0x260), (0x280, 0x2A0)]
  | .tel => [(0x300, 0x31C), (0x320, 0x32C), (0x330, 0x338)]
  | .hif => [(0x80, 0x8C), (0x90, 0xB4), (0xC0, 0xF0), (0x400, 0xC00)]
  | .rsl => [(0x80, 0x8C), (0x90, 0xB8), (0xC0, 0xE8), (0x100, 0x500), (0x600, 0x800)]
  | .mem _ => [(0x80, 0x8C), (0x90, 0xB8)]
  | .fab => [(0x80, 0xAC), (0xB0, 0xD0), (0x100, 0x140), (0x400, 0xA00)]
  | .fport _ => [(0x80, 0xC0), (0x100, 0x180), (0x200, 0x280)]
  | .core _ => [(0x100, 0x10C), (0x110, 0x148)]
  | .sync _ => [(0x80, 0xB4), (0xC0, 0xD4), (0xD8, 0x100), (0x400, 0x1000)]
  | .stream _ => [(0x80, 0xB8), (0x100, 0x400)]
  | .queue _ => [(0x80, 0xA4), (0xA8, 0xC0), (0x100, 0x2F8)]
  | .pool _ => [(0x80, 0xA8)]
  | .num _ => [(0x80, 0x94)]
  | .coll _ => [(0x80, 0x8C), (0x90, 0xB8), (0x100, 0x400)]
  | .tile _ => [(0x80, 0xE4), (0xFC, 0x158), (0x180, 0x18C), (0x200, 0x240)]
  | .debug _ => [(0x80, 0x90)]

/-- Words inside those ranges that a table marks reserved: the tails of the route sets, retention and snapshot entries. -/
def Page.hole (p : Page) (off : Nat) : Bool :=
  match p with
  | .fab => 0x400 ≤ off && off < 0x800 && 0x30 ≤ off % 64
  | .stream _ => 0x200 ≤ off && 0x1C ≤ off % 32
  | .rsl => 0x600 ≤ off && 0x14 ≤ off % 32
  | _ => false

/-- The offset names a register of the page. -/
def Page.hasReg (p : Page) (off : Nat) : Bool :=
  if off < 0x80 then off != 0xC && off < 0x48
  else p.ranges.any (fun r => r.1 ≤ off && off < r.2) && !p.hole off

/-- Bits of the SEV, MASK and STICKY registers that the page implements (R682, R563, R564). -/
def Page.srcMask (p : Page) (keep : Nat → Bool) : Word := bitsOf 32 fun s => s < p.nsrc && keep s

/-- Header registers that a write stores into (R682). -/
def Page.headerRow (p : Page) (off : Nat) : Option RegRow :=
  if off = blkSticky then some { off := off, w1c := p.srcMask fun _ => true }
  else if off = blkMask then some (row off (p.srcMask fun s => !p.unmaskable s))
  else if off = blkSev0 then
    some (row off (bitsOf 32 fun i => i / 2 < p.nsrc && !p.fixedSrc (i / 2)) (p.headerReset off))
  else if off = blkSev1 then
    some (row off (bitsOf 32 fun i => i / 2 + 16 < p.nsrc && !p.fixedSrc (i / 2 + 16)) (p.headerReset off))
  else if blkDew0 ≤ off && off ≤ 0x3C then
    some { off := off, rw := 0xFFFDFFFF#32, w1c := 0x00020000#32, reset := if off = blkDew0 then p.dewReset else 0 }
  else if off = blkIntStat then some { off := off, w1c := 3 }
  else if off = blkIntEn then some (row off 1 1)
  else none

/-- Reset values of window words: only the network's core map and the windows of other chapters differ from 0. -/
def regReset (o : Nat) : Word :=
  match placeOf o with
  | .page p off => if off < 0x80 then p.headerReset off else
    match p.row? off with
    | some r => r.reset
    | none => 0
  | _ => 0

end Sys2Proof.Machine
end

