-- ==== Sys2Proof/Machine/Ops.lean ====
section
/-! DEFINITION. The named operations over the package's state that every family shares: stored registers
and counters, tiles, emissions, the event recorder's queue, management reports, and the fault collector's
action on one error event (20 R555 to R584), with the package reset it can end in (R571). -/

namespace Sys2Proof.Machine

/-! ### Stored registers and counters -/

/-- The stored register at a BAR0 offset. -/
def Dev.rd (d : Dev) (o : Nat) : Word := (d.regs.get? o).getD (regReset o)
def Dev.wr (d : Dev) (o : Nat) (w : Word) : Dev := { d with regs := d.regs.set o w }

/-- The stored register of a page. -/
def Dev.preg (d : Dev) (p : Page) (off : Nat) : Word := d.rd (p.base + off)
def Dev.setPreg (d : Dev) (p : Page) (off : Nat) (w : Word) : Dev := d.wr (p.base + off) w

/-- BLK_CTRL.en of a page. -/
def Dev.pageOn (d : Dev) (p : Page) : Bool := bit (d.preg p blkCtrl) 0

/-- A 64-bit counter of a page. -/
def Dev.ctr (d : Dev) (p : Page) (off : Nat) : DWord := d.ctrs.getD (p.base + off) 0

/-- Counts in every state (R623 and the counters that name no enable); stops at the maximum. -/
def Dev.bumpAlways (d : Dev) (p : Page) (off n : Nat) : Dev :=
  { d with ctrs := d.ctrs.modify (p.base + off) 0 fun x => satAdd x n }

/-- Counts while BLK_CTRL.en of the page is 1. -/
def Dev.bump (d : Dev) (p : Page) (off n : Nat) : Dev := if d.pageOn p then d.bumpAlways p off n else d

def Dev.emit (d : Dev) (e : Emission) : Dev := { d with sent := d.sent ++ [e] }

/-! ### Traffic of the die network (12 R348, R359) -/

/-- A packet enters the die network: the counters of waiting cycles and forced grants of every core whose page counts may move. -/
def Dev.onNet (d : Dev) : Dev :=
  { d with noc := ((List.range 8).filter fun c => d.pageOn (.core c)).foldl (fun t k => t.modify k 0 (· + 1)) d.noc }

/-- An endpoint of core c injects n flits on a VC (CNT_NOC_INJ_VCv). -/
def Dev.injectFlits (d : Dev) (c vc n : Nat) : Dev := d.onNet.bump (.core c) (0x110 + 8 * vc) n

/-- It injects a packet whose length the manual does not give: of 1 to 5 flits (R348). -/
def Dev.injectPkt (d : Dev) (c vc : Nat) : Dev :=
  { d.injectFlits c vc (1 + (Config.extraFlits d.draws).val) with draws := d.draws + 1 }

/-- It injects n such packets. -/
def Dev.injectPkts (d : Dev) (c vc : Nat) : Nat → Dev
  | 0 => d
  | n + 1 => (d.injectPkt c vc).injectPkts c vc n

/-- It injects one such packet for each core of a list. -/
def Dev.injectEach (d : Dev) (vc : Nat) (cs : List Nat) : Dev := cs.foldl (fun d c => d.injectPkt c vc) d

/-- It injects the packets of a transfer, whose number the manual does not give. -/
def Dev.injectBulk (d : Dev) (c vc : Nat) : Dev :=
  { d.injectFlits c vc (1 + Config.bulkFlits d.draws) with draws := d.draws + 1 }

/-- The core of edge router e (R18, R85). -/
def edgeCore (e : Nat) : Nat := [0, 4, 3, 7].getD e 0
/-- The core of the edge router of a fabric port (R18). -/
def portCore (p : Nat) : Nat := edgeCore (p / 3)

/-! ### Tiles and coordinates -/

def Dev.tile (d : Dev) (t : Nat) : Tile := d.tiles.getD t Tile.reset
def Dev.setTile (d : Dev) (t : Nat) (x : Tile) : Dev := { d with tiles := d.tiles.set t x }
def Dev.modTile (d : Dev) (t : Nat) (f : Tile → Tile) : Dev := d.setTile t (f (d.tile t))

/-- Physical core, row and position of a tile index (R683). -/
def tileCore (t : Nat) : Nat := t / 204
def tileRow (t : Nat) : Nat := t % 204 / 17
def tilePos (t : Nat) : Nat := t % 17

/-- The context a flag names: true is the background. -/
def Tile.ctx (t : Tile) (bg : Bool) : Ctx := if bg then t.bg else t.fg
def Tile.setCtx (t : Tile) (bg : Bool) (c : Ctx) : Tile := if bg then { t with bg := c } else { t with fg := c }

/-- The spare position of a row (R357). -/
def Fuses.spareOf (f : Fuses) (core row : Nat) : Nat := f.spare.getD (12 * core + row) 16

/-- R346: logical to physical position in a row. -/
def Dev.physPos (d : Dev) (core row lpos : Nat) : Nat :=
  if lpos < d.fuses.spareOf core row then lpos else lpos + 1

/-- The logical position of a physical one, 0 at the spare (R81). -/
def Dev.logPos (d : Dev) (core row ppos : Nat) : Nat :=
  let s := d.fuses.spareOf core row
  if ppos < s then ppos else if ppos = s then 0 else ppos - 1

def Dev.isSpare (d : Dev) (t : Nat) : Bool := tilePos t = d.fuses.spareOf (tileCore t) (tileRow t)

/-- A core that the fuses enable (R5). -/
def Dev.coreEnabled (d : Dev) (c : Nat) : Bool := bit d.fuses.coreMask c

/-- NOC_LCORE_MAP of a core: the number of bound logical cores and the physical core of each (R359). -/
def Dev.boundCount (d : Dev) (c : Nat) : Nat := fld (d.preg (.core c) 0x100) 24 3 + 1
def Dev.physCore (d : Dev) (c l : Nat) : Nat := fld (d.preg (.core c) 0x100) (3 * l) 3
def Dev.lcoreBound (d : Dev) (c l : Nat) : Bool := l < d.boundCount c

/-- The core whose map says what the loaded image binds: the lowest enabled one, where the copies of all cores should agree (R360). -/
def Dev.mapCore (d : Dev) : Nat :=
  match (List.range 8).find? d.coreEnabled with
  | some c => c
  | none => 0


/-- The logical core of a tile (TILE_BIND, R81). -/
def Dev.logCore (d : Dev) (t : Nat) : Nat := fld (d.preg (.tile t) 0x84) 0 3

/-- The logical core that the map binds to physical core `c`, if any. -/
def Dev.lcoreOf (d : Dev) (c : Nat) : Option Nat :=
  (List.range 8).find? fun l => d.lcoreBound c l && d.physCore c l = c

/-- The physical tile of logical coordinates, translated at an endpoint of core `c` (R346). -/
def Dev.tileOf (d : Dev) (c l row lpos : Nat) : Nat :=
  let pc := d.physCore c l
  pc * 204 + row * 17 + d.physPos pc row lpos

/-- Every tile of a core has both run bits 0. -/
def Dev.coreHalted (d : Dev) (c : Nat) : Bool :=
  d.tiles.cells.all fun x => x.1 / 204 ≠ c || (!x.2.fg.run && !x.2.bg.run)
/-- Every tile of the package has both run bits 0. -/
def Dev.allHalted (d : Dev) : Bool := d.tiles.cells.all fun x => !x.2.fg.run && !x.2.bg.run

def Dev.isFenced (d : Dev) (u : FUnit) : Bool := d.flt.fenced.getD u.code false

/-- The fence sequence of a unit is running. -/
def Dev.fenceActive (d : Dev) (u : FUnit) : Bool := match d.flt.active with
  | some a => a.unit == u.code
  | none => false

/-- Some tile of the package has a run bit set (R495). -/
def Dev.anyRun (d : Dev) : Bool := !d.allHalted

/-- A host action of R495 takes effect. -/
def Dev.hostAct (d : Dev) : Dev :=
  if d.anyRun then { d with rsl := { d.rsl with hostOps := satAdd d.rsl.hostOps 1 } } else d

/-! ### Which pages answer (25 R680, R686; 24 R673 to R675) -/

/-- The page of a disabled core, its core control page apart, is absent (R686). -/
def Dev.pageAbsent (d : Dev) (p : Page) : Bool :=
  match p with
  | .sync c => !d.coreEnabled c | .stream c => !d.coreEnabled c | .queue c => !d.coreEnabled c
  | .pool c => !d.coreEnabled c | .num c => !d.coreEnabled c | .coll c => !d.coreEnabled c
  | .debug c => !d.coreEnabled c | .tile t => !d.coreEnabled (tileCore t)
  | _ => false

/-- The start-up stage lets requests through to every page (true), or to GLB, FLT and EVR only (R671 to R674). -/
def Stage.full : Stage → Bool
  | .hostEn => true
  | .ready => true
  | _ => false

/-- A page answers reads, and writes of its header. A lost rail takes the main domain, and every page with it (R663). -/
def Dev.pageUp (d : Dev) (p : Page) : Bool :=
  !d.pageAbsent p && !d.mc.railLost &&
  (d.mc.stage.full || (d.mc.stage != .off && (p == .glb || p == .flt || p == .evr)))

/-- It also takes writes of its own registers: no soft reset of it is in progress (R684). -/
def Dev.pageAnswers (d : Dev) (p : Page) : Bool := d.pageUp p && !d.softBusy.contains p.index

/-- The main domain is in reset: before start-up has begun, and in a hold (R666). -/
def Dev.mainInReset (d : Dev) : Bool :=
  match d.mc.stage with
  | .off => true
  | .mcBoot => true
  | .hold => true
  | .recovery => true
  | _ => false

/-- The main domain is out of reset and clocked: the time base runs (R660, R671). -/
def Dev.mainUp (d : Dev) : Bool := !d.mc.thermtrip && !d.mainInReset

/-- QC2 is out of reset with its clocks running (R617, R619, R621, R674). -/
def Dev.coreUp (d : Dev) : Bool := d.mc.stage.full && !d.mc.thermtrip && (d.pwr.calm == .run || d.pwr.calm == .entering)

/-- A write whose condition fails (R680): GLB_IGN_CNT and GLB_IGN_ADDR. -/
def Dev.ignored (d : Dev) (path : Path) (o : Nat) : Dev :=
  let n := match path with | .bar0 => 0 | .mgmt => 1 | .tileLocal => 2 | .bar4 => 0
  (d.setPreg .glb 0xB0 (satAdd (d.preg .glb 0xB0) 1)).setPreg .glb 0xB4 (packFields 32 [(0, o), (26, n)])

/-- A write to register `off` of page `p` that "takes effect only while" `ok` holds; a page that does not answer
discards it. -/
def Dev.guarded (d : Dev) (path : Path) (p : Page) (off : Nat) (ok : Bool) (f : Dev → Dev) : Dev :=
  if !d.pageAnswers p then d else if ok then f d else d.ignored path (p.base + off)

/-! ### Messages to the host (23 R645, R646) -/

/-- Sends an MSI-X message, or marks it pending while its vector is masked. -/
def Dev.msix (d : Dev) (vec : Nat) : Dev :=
  let e := d.hif.msix.getD vec MsixEntry.reset
  if e.masked then { d with hif := { d.hif with msix := d.hif.msix.set vec { e with pend := true } } }
  else d.emit (.msix vec)

/-- Records an event of HIF_EVT_STAT (R646). -/
def Dev.hifEvent (d : Dev) (i : Nat) : Dev :=
  let st := d.preg .hif 0xA4
  let d' := d.setPreg .hif 0xA4 (setBit st i true)
  if !bit st i && bit (d.preg .hif 0xA8) i then
    d'.msix (fld (d.preg .hif (if i < 2 then 0xAC else 0xB0)) (if i % 2 = 0 then 0 else 16) 11)
  else d'

/-! ### The recorder's queue (21 R591) -/

/-- An event as the MC queues it, stamped with the counts of R588. -/
def Dev.event (d : Dev) (code page origin sev : Nat) (severe : Bool) (data : List Byte) (fixed : Bool) : EvrEvent :=
  { code := code, page := page, origin := origin, sev := sev, severe := severe, minutes := d.evr.minutes,
    cycles := d.evr.cycles, data := data, fixed := fixed }

/-- Who caused an event that came by a path: 2 the host through BAR0, 3 the management interface (R586). -/
def pathOrigin : Path → Nat
  | .mgmt => 3
  | _ => 2

/-- Queues an event; a full queue drops and counts it (R591). Answers whether it was dropped. In recovery nothing but FW_UPDATE is
recorded (R670). -/
def Dev.pushEvent (d : Dev) (e : EvrEvent) : Dev × Bool :=
  if d.mc.stage = .recovery && e.code ≠ 2 then (d, false)
  else if d.evr.queue.length < 256 then ({ d with evr := { d.evr with queue := d.evr.queue ++ [e] } }, false)
  else ({ d with evr := { d.evr with drops := satAdd d.evr.drops 1, dropsOwed := d.evr.dropsOwed + 1 } }, true)

/-! ### Fault collection -/

/-- Programmed severity of a source (R561, R564). -/
def Dev.progSev (d : Dev) (p : Page) (s : Nat) : Nat :=
  if p.fixedSrc s then 3 else fld (d.preg p (if s < 16 then blkSev0 else blkSev1)) (2 * (s % 16)) 2

/-- A dew-point register that names the source has severe set (R561). -/
def Dev.isSevere (d : Dev) (p : Page) (s : Nat) : Bool :=
  (List.range 4).any fun j =>
    let r := d.preg p (blkDew0 + 4 * j)
    fld r 12 5 = s && bit r 17

/-- Effective severity (R561). -/
def Dev.effSev (d : Dev) (p : Page) (s : Nat) : Nat := min 3 (d.progSev p s + b2n (d.isSevere p s))

def Dev.isMasked (d : Dev) (p : Page) (s : Nat) : Bool := bit (d.preg p blkMask) s && !p.unmaskable s

/-- The action a source's events take: limited to LOG while masked (R563). -/
def Dev.actSev (d : Dev) (p : Page) (s : Nat) : Nat := if d.isMasked p s then 0 else d.effSev p s

/-- A page drives FAULT_N low (R573). -/
def Dev.pageFaulty (d : Dev) (p : Page) : Bool :=
  (List.range p.nsrc).any fun s => bit (d.preg p blkSticky) s && 1 ≤ d.actSev p s

/-- FAULT_N is low: a RESET hold drives it (R571), or some page's sticky bits (R573) while the main domain is out of reset (R666). -/
def Dev.faultLow (d : Dev) : Bool :=
  d.mc.holdAck ||
  !d.mainInReset && d.regs.cells.any fun c =>
    c.1 % 0x1000 == blkSticky && match placeOf c.1 with
      | .page p _ => d.pageFaulty p
      | _ => false

/-- A fault identity (R557). -/
def faultIdent (p : Page) (s sev : Nat) (severe rail : Bool) : Word :=
  packFields 32 [(0, p.index), (13, s), (18, sev), (20, b2n severe), (21, b2n rail)]

/-- One event of source `s` enters a dew-point register `j` (R560). Answers the package and whether the
count reached N. -/
def Dev.dewOne (d : Dev) (p : Page) (s j : Nat) : Dev × Bool :=
  let o := blkDew0 + 4 * j
  let r := d.preg p o
  if fld r 0 12 = 0 || fld r 12 5 ≠ s then (d, false) else
  let k := 4 * p.index + j
  let n := d.flt.dew.getD k 0 + 1
  let d := { d with flt := { d.flt with dew := d.flt.dew.set k n } }
  if n = fld r 0 12 then (d.setPreg p o (setBit r 17 true), true) else (d, false)

def Dev.dewAll (d : Dev) (p : Page) (s : Nat) : Dev × Bool :=
  (List.range 4).foldl (fun acc j => let (d', hit) := acc.1.dewOne p s j; (d', acc.2 || hit)) (d, false)

/-- The unit whose corrected-error source this is (R578). -/
def correctedUnit (p : Page) (s : Nat) : Option FUnit :=
  match p with
  | .tile t => if s = 1 then some (.tile t) else none
  | .pool c => if s = 0 then some (.core c) else none
  | .mem n => if s = 0 then some (.core n) else none
  | _ => none

/-- The unit, if any, removes a core that the loaded image binds (R576 byte 12 bit 2); a tile removes its core (R577). -/
def Dev.unbindsCore (d : Dev) (u : FUnit) : Bool :=
  match u with
  | .tile t => (d.lcoreOf (tileCore t)).isSome
  | .core c => (d.lcoreOf c).isSome
  | .mem c => (d.lcoreOf c).isSome
  | _ => false

/-- What the recorder's BAR0 page holds itself is at reset (R571, R597). -/
def Evr.pageReset (e : Evr) : Evr := { e with win := [], resp := ⟨[]⟩, cmdOk := false, cmdDenied := false }

/-- The main domain at reset: QC2, memory controllers, ports and every BAR0 page; the MC, the PCIe link, the health table, the fence map
and FLT_RESET_ID stay (R571). -/
def Dev.mainReset (d : Dev) : Dev :=
  { Dev.reset with
    fuses := d.fuses, evr := d.evr.pageReset, pins := d.pins,
    mc := { d.mc with resetCnt := satAdd d.mc.resetCnt 1, tfwVer := 0, coresOk := 0, memFail := 0, bootTime := 0 },
    hif := { Hif.reset with link := d.hif.link },
    flt := { Flt.reset with health := d.flt.health, clean := d.flt.clean, fenced := d.flt.fenced,
                            resetId := d.flt.resetId },
    inc := d.inc + 1,
    sent := d.sent }

/-- Sends a report: on I3C an in-band interrupt with the report's sequence signals it (R711). -/
def Dev.sendReport (d : Dev) (r : Report) : Dev := (if d.mc.smbus then d else d.emit (.ibi r.seq)).emit (.report r)

/-- Queues a management report (R576); answers whether it had no place. -/
def Dev.pushReport (d : Dev) (ident : Word) (flags : Nat) : Dev × Bool :=
  if 64 ≤ d.mc.reports.length then (d, true) else
  let r : Report := { ident := ident, minutes := d.evr.minutes, cycles := d.evr.cycles, flags := BitVec.ofNat 8 flags,
                      seq := d.mc.reportSeq, resends := 0 }
  ({ d with mc := { d.mc with reports := d.mc.reports ++ [r], reportSeq := d.mc.reportSeq + 1 } }.sendReport r, false)

/-- A RESET action for a fault identity (R571): FAULT_N is held low, the main domain resets, the MC records it, reports it whatever
report_en holds (R682) and waits in HOLD for ack_reset. -/
def Dev.pkgReset (d : Dev) (ident : Word) : Dev :=
  let d := (d.pushEvent (d.event 0x13 (fld ident 0 13) 0 3 (bit ident 20) (bytesLE 4 ident.toNat) true)).1
  let d := (d.pushReport ident 9).1
  let d := { d with flt := { d.flt with resetId := ident } }
  let d := d.mainReset
  { d with mc := { d.mc with stage := .hold, holdAck := true, afterReset := true, cause := 2 } }

/-- Where a FENCE action for a unit leads (R568). -/
inductive FenceWay where
  | log | reset | merged | queued | full
deriving DecidableEq, Repr

/-- The unit is fenced, a tile also with its core (R567). -/
def Dev.unitFenced (d : Dev) (u : FUnit) : Bool :=
  d.isFenced u || match u with
    | .tile t => d.isFenced (.core (tileCore t))
    | _ => false

def Dev.fenceWay (d : Dev) (u : FUnit) : FenceWay :=
  if d.fenceActive u then .reset
  else if d.unitFenced u then .log
  else if d.flt.queue.any fun q => q.unit == u.code then .merged
  else if 16 ≤ d.flt.queue.length then .full else .queued

/-- Puts a fence into the collector's queue. -/
def Dev.queueFence (d : Dev) (u : FUnit) (ident : Word) : Dev :=
  { d with flt := { d.flt with queue := d.flt.queue ++ [{ unit := u.code, ident := ident }] } }

/-- LOG: the sticky bit and FLT_CNT (R562, R563). -/
def Dev.logSource (d : Dev) (p : Page) (s : Nat) : Dev :=
  let d := d.setPreg p blkSticky (setBit (d.preg p blkSticky) s true)
  { d with flt := { d.flt with cnt := d.flt.cnt.modify (32 * p.index + s) 0 fun x => satAdd x 1 } }

/-- A unit becomes SUSPECT (R578): the state, FLT_SUSPECT_INFO, the clean count, and a HEALTH record on a change, whose origin is
`origin` (R586). Answers whether the record was dropped. -/
def Dev.setSuspect (d : Dev) (u : FUnit) (reason origin : Nat) : Dev × Bool :=
  let old := d.flt.health.getD u.code 0
  if old = 2 then (d, false) else
  let d := { d with flt := { d.flt with
    health := d.flt.health.set u.code 1, clean := d.flt.clean.set u.code 0, stained := d.flt.stained.set u.code true,
    suspectInfo := packFields 32 [(0, u.code), (13, reason)] } }
  if old = 0 then
    d.pushEvent (d.event 0x15 0 origin 0 false
      (bytesLE 2 u.code ++ [0, 1, BitVec.ofNat 8 reason]) false)
  else (d, false)

/-- Where an event of a page leads at severity `sev`, beside its report: a FENCE to the page's unit, or to a RESET where the page has
none (R562, R568). -/
def Dev.actWay (d : Dev) (p : Page) (sev : Nat) : FenceWay :=
  if sev = 3 then .reset else if sev < 2 then .merged else
  match p.unit with
  | some u => d.fenceWay u
  | none => .reset

/-- The REPORT, FENCE or RESET action of an event whose severity is `sev` (R562, R568, R576), and the collector's
own events that it gives rise to. -/
def Dev.actOn (d : Dev) (p : Page) (_s sev : Nat) (ident : Word) : Dev × List (Page × Nat) :=
  let way := d.actWay p sev
  if way = .log then (d, []) else
  let d := d.setPreg p blkIntStat (setBit (d.preg p blkIntStat) 0 true)
  let d := d.setPreg .flt blkIntStat (setBit (d.preg .flt blkIntStat) 0 true)
  let d := d.bump .flt 0xC0 1
  let d := d.hifEvent 1
  let fences := way = .queued
  let flags := b2n d.faultLow + 2 * b2n fences +
    4 * b2n (match p.unit with | some u => fences && d.unbindsCore u | none => false)
  let unit := match p.unit with | some u => u.code | none => 0x1FFF
  let seq := d.mc.reportSeq
  let mgmt := bit (d.preg .flt 0x80) 0 && bit (d.preg p blkIntEn) 0 && way != .reset
  let (d, noPlace) := if mgmt then d.pushReport ident flags else (d, false)
  let (d, lost) := d.pushEvent (d.event 0x10 p.index 0 sev (bit ident 20)
    (bytesLE 4 ident.toNat ++ bytesLE 2 unit ++ [seq]) false)
  let follow := (if noPlace then [(Page.flt, 4)] else []) ++ (if lost then [(Page.evr, 1)] else [])
  match way, p.unit with
  | .reset, _ => (d.pkgReset ident, [])
  | .queued, some u => (d.queueFence u ident, follow)
  | .full, some _ => (d, follow ++ [(Page.flt, 3)])
  | _, _ => (d, follow)

/-- Takes the action of an event, or holds it while the page's en is 0, a RESET and a LOG apart (R583). -/
def Dev.takeAct (d : Dev) (p : Page) (s sev : Nat) (ident : Word) : Dev × List (Page × Nat) :=
  if sev = 0 then (d, [])
  else if !d.pageOn .flt && d.actWay p sev != .reset && d.actWay p sev != .log then
    ({ d with flt := { d.flt with held := d.flt.held ++ [{ page := p.index, src := s, ident := ident, sev := sev }] } }, [])
  else d.actOn p s sev ident

/-- The RAIL condition of source s of a page lasts: its events are not counted (R555). -/
def Dev.isRailed (d : Dev) (p : Page) (s : Nat) : Bool := d.flt.railed.getD (32 * p.index + s) false

/-- One event of source `s` of page `p` reaches the collector (R555, R559 to R565, R583). -/
def Dev.raiseOne (d : Dev) (p : Page) (s : Nat) : Dev × List (Page × Nat) :=
  if d.isRailed p s then (d, []) else
  let (d, reached) := (d.logSource p s).dewAll p s
  let (d, follow) := match (if reached then correctedUnit p s else none) with
    | some u =>
      let (e, lost) := d.setSuspect u 0 0
      (e, (if lost then [(Page.evr, 1)] else []) ++ (if d.flt.health.getD u.code 0 = 0 then [(Page.flt, 6)] else []))
    | none => (d, [])
  let sev := d.actSev p s
  let (d, more) := d.takeAct p s sev (faultIdent p s sev (d.isSevere p s) false)
  (d, follow ++ more)

/-- Takes a list of events in order, with the events that they give rise to; `fuel` bounds their number. A RESET ends the list: the
pages whose events would follow are at reset. -/
def Dev.raiseList : Nat → List (Page × Nat) → Dev → Dev
  | 0, _, d => d
  | _ + 1, [], d => d
  | f + 1, (p, s) :: r, d =>
    let (e, more) := d.raiseOne p s
    if e.inc ≠ d.inc then e else Dev.raiseList f (r ++ more) e

/-- An error event of source `s` of page `p` (R562). An event gives rise to at most a few of the collector's
own, none of which gives rise to a further chain. -/
def Dev.raise (d : Dev) (p : Page) (s : Nat) : Dev := Dev.raiseList 8 [(p, s)] d

/-- A unit meets an event that leads to SUSPECT (R578). -/
def Dev.markSuspect (d : Dev) (u : FUnit) (reason origin : Nat) : Dev :=
  if d.flt.health.getD u.code 0 = 2 then d else
  let (d, lost) := d.setSuspect u reason origin
  Dev.raiseList 8 ((if lost then [(Page.evr, 1)] else []) ++ [(Page.flt, 6)]) d

end Sys2Proof.Machine
end

