-- ==== Sys2Proof/Machine/Operands.lean ====
section
/-! DEFINITION. The operand forms of the tile instructions: registers of a context (R56, R63, R91), addresses
and planes (R97 to R104), destinations (R107, R108, R158), and the scratchpad as a context sees it, write-combining
buffer included (R222 to R225). -/

namespace Sys2Proof.Machine

/-! ### Registers of a context -/

/-- s0 reads 0 (R56). -/
def Ctx.rs (c : Ctx) (n : Nat) : Word := if n = 0 then 0 else c.s.getD n 0
def Ctx.ra (c : Ctx) (n : Nat) : Word := c.a.getD n 0
def Ctx.rv (c : Ctx) (n : Nat) : Lanes := c.v.getD n (List.replicate 64 0)
/-- p0 reads as all ones (R56). -/
def Ctx.rp (c : Ctx) (n : Nat) : BitVec 64 := if n = 0 then BitVec.allOnes 64 else c.p.getD n 0

/-- A write to s0 is discarded (R91). -/
def Ctx.ws (c : Ctx) (n : Nat) (w : Word) : Ctx := if n = 0 then c else { c with s := c.s.set n w }
def Ctx.wa (c : Ctx) (n : Nat) (w : Word) : Ctx := { c with a := c.a.set n w }
def Ctx.wv (c : Ctx) (n : Nat) (v : Lanes) : Ctx := { c with v := c.v.set n v }
/-- A write to p0 is discarded (R91). -/
def Ctx.wp (c : Ctx) (n : Nat) (b : BitVec 64) : Ctx := if n = 0 then c else { c with p := c.p.set n b }

def Dev.ctx (d : Dev) (t : Nat) (bg : Bool) : Ctx := (d.tile t).ctx bg
def Dev.modCtx (d : Dev) (t : Nat) (bg : Bool) (f : Ctx → Ctx) : Dev := d.modTile t fun x => x.setCtx bg (f (x.ctx bg))

def Dev.ws (d : Dev) (t : Nat) (bg : Bool) (n : Nat) (w : Word) : Dev := d.modCtx t bg fun c => c.ws n w
def Dev.wa (d : Dev) (t : Nat) (bg : Bool) (n : Nat) (w : Word) : Dev := d.modCtx t bg fun c => c.wa n w
def Dev.wv (d : Dev) (t : Nat) (bg : Bool) (n : Nat) (v : Lanes) : Dev := d.modCtx t bg fun c => c.wv n v
def Dev.wp (d : Dev) (t : Nat) (bg : Bool) (n : Nat) (b : BitVec 64) : Dev := d.modCtx t bg fun c => c.wp n b

/-- Predicated vector result (R114): lanes whose bit is 0 keep their value. -/
def selectLanes (p : BitVec 64) (new old : Lanes) : Lanes := mkLanes fun i => if p.getLsbD i then lane new i else lane old i

/-- A register pair s(2n+1) : s(2n) (R148, R155, R159). -/
def Ctx.pair (c : Ctx) (n : Nat) : DWord := joinWords (c.rs (2 * n + 1)) (c.rs (2 * n))

/-! ### Addresses -/

/-- Post-increment addressing (R99): the address of the access and the new value of aB. -/
def indexed (base off : Word) (u : Bool) : Word × Word := if u then (base, base + off) else (base + off, base)

/-- Byte address of word k of a 2D access (R98), with 32-bit arithmetic. -/
def planeAddr (aB sP : Word) (dir : Bool) (k : Nat) : Nat :=
  let row := fld aB 16 16
  let col := fld aB 0 16
  let pitch := fld sP 16 13
  let base := fld sP 0 13
  let word := (base * 16 + (row + (if dir then k else 0)) * pitch * 16 + col + (if dir then 0 else k)) % 2 ^ 32
  word * 4 % 2 ^ 32

/-- A 32-bit byte address advanced by i. -/
def addrAt (a i : Nat) : Nat := (a + i) % 2 ^ 32

/-- The bounds of the local address space (R71, R216). -/
def spadSize : Nat := 0x50000
def spadGeneral : Nat := 0x48000
def poolWindow : Nat := 0x10000000
def poolBytes : Nat := 0x1000000
def localPage : Nat := 0x20000000

/-- The tile range of the pool and the spill area (R236, R238). -/
def Dev.spillArea (d : Dev) (c : Nat) : Nat × Nat :=
  let b := fld (d.preg (.pool c) 0x88) 0 24
  (b, min (b + fld (d.preg (.pool c) 0x8C) 0 25) poolBytes)

/-- A pool offset that a tile access may touch (R236). -/
def Dev.poolByteOk (d : Dev) (c off : Nat) : Bool :=
  d.pageOn (.pool c) && fld (d.preg (.pool c) 0x80) 0 24 ≤ off && off < fld (d.preg (.pool c) 0x84) 0 25 &&
  !((d.spillArea c).1 ≤ off && off < (d.spillArea c).2)

/-- The regions of the local address space (R71). -/
inductive Region where
  | spad | pool | page
deriving DecidableEq, Repr

def regionOf (a : Nat) : Option Region :=
  if a < spadSize then some .spad
  else if poolWindow ≤ a ∧ a < poolWindow + poolBytes then some .pool
  else if localPage ≤ a ∧ a < localPage + 0x1000 then some .page
  else none

/-- What kinds of access the regions accept (R101). -/
structure AccessKind where
  store : Bool
  pool  : Bool
  page  : Bool
deriving DecidableEq, Repr

/-- A byte that the access may touch when it starts in region `r` (R101, R217, R236). -/
def Dev.byteOk (d : Dev) (core : Nat) (k : AccessKind) (r : Option Region) (a : Nat) : Bool :=
  match r with
  | some .spad => a < (if k.store then spadGeneral else spadSize)
  | some .pool => k.pool && regionOf a == some .pool && d.poolByteOk core (a - poolWindow)
  | some .page => k.page && regionOf a == some .page
  | none => false

/-- The lowest byte of a linear access of n bytes that lies outside its region (R101). -/
def Dev.firstBad (d : Dev) (core : Nat) (k : AccessKind) (a n : Nat) : Option Nat :=
  ((List.range n).map (addrAt a)).find? fun x => !d.byteOk core k (regionOf a) x

/-- The first byte of a scratchpad span that lies at or above a limit (R120, R123, R136, R138). -/
def spanBad (limit a n : Nat) : Option Nat := if n = 0 then none else if limit ≤ a then some a else if limit < a + n then some limit else none

/-! ### The write-combining buffer (R222 to R225) -/

/-- The byte a scratchpad load observes: a valid byte of the buffer, else the bank (R225). -/
def Tile.byte (t : Tile) (a : Nat) : Byte :=
  match (t.wcb.find? fun e => e.line == a / 64 && (e.bytes.get? (a % 64)).isSome) with
  | some e => e.bytes.getD (a % 64) 0
  | none => t.spad.get a

def Tile.readBytes (t : Tile) (a n : Nat) : List Byte := (List.range n).map fun i => t.byte (a + i)

/-- A flush writes the entry's valid bytes at the bank (R224). -/
def flushEntry (m : Mem) (e : WcbEntry) : Mem := e.bytes.cells.foldl (fun m c => m.set (64 * e.line + c.1) c.2) m

/-- Flushes the entries that satisfy a test, oldest first. -/
def Tile.flush (t : Tile) (p : WcbEntry → Bool) : Tile :=
  { t with spad := (t.wcb.filter p).foldl flushEntry t.spad, wcb := t.wcb.filter fun e => !p e }

def Tile.flushAll (t : Tile) : Tile := t.flush fun _ => true

/-- Flushes the entries holding a store of a context (R223 row 4). -/
def Tile.flushOf (t : Tile) (bg : Bool) : Tile := t.flush fun e => if bg then e.bg else e.fg

/-- Flushes the entries whose line the span touches (R223 row 3). -/
def Tile.flushSpan (t : Tile) (a n : Nat) : Tile :=
  if n = 0 then t else t.flush fun e => a / 64 ≤ e.line && e.line ≤ (a + n - 1) / 64

/-- A word or vector store: touched entries flush first (R223), then the bytes are written. -/
def Tile.store (t : Tile) (a : Nat) (bs : List Byte) : Tile :=
  let t := t.flushSpan a bs.length
  { t with spad := t.spad.writeBytes a bs }

/-- A narrow store of bytes within one line (R222). -/
def Tile.narrowStore (t : Tile) (bg : Bool) (a : Nat) (bs : List Byte) : Tile :=
  let merge (e : WcbEntry) : WcbEntry :=
    { e with bytes := e.bytes.setMany (a % 64) bs, fg := e.fg || !bg, bg := e.bg || bg }
  let fresh : WcbEntry := merge { line := a / 64, bytes := ⟨[]⟩, fg := false, bg := false }
  let t :=
    if t.wcb.any fun e => e.line == a / 64 then
      { t with wcb := t.wcb.map fun e => if e.line = a / 64 then merge e else e }
    else
      let t := if t.wcb.length < 4 then t else
        match t.wcb with
        | [] => t
        | e :: r => { t with spad := flushEntry t.spad e, wcb := r }
      { t with wcb := t.wcb ++ [fresh] }
  -- an entry whose 64 bytes are all valid flushes
  t.flush fun e => 64 ≤ e.bytes.cells.length

/-! ### Landing area (R226) -/

def lcAddr (n : Nat) : Nat := 0x4FC00 + 4 * n
def Tile.lc (t : Tile) (n : Nat) : Word := t.spad.word (lcAddr n)
def Tile.setLc (t : Tile) (n : Nat) (w : Word) : Tile := { t with spad := t.spad.setWord (lcAddr n) w }
/-- true: counter n counts bytes -/
def Tile.lcBytes (t : Tile) (n : Nat) : Bool := bit (t.spad.word (if n < 32 then 0x4FD00 else 0x4FD04)) (n % 32)
/-- The landing window: lowest byte and first byte above (R227). -/
def Tile.landLo (t : Tile) : Nat := fld (t.spad.word 0x4FD08) 2 17 * 4
def Tile.landHi (t : Tile) : Nat := min (fld (t.spad.word 0x4FD0C) 2 17 * 4) spadGeneral
def Tile.inWindow (t : Tile) (a n : Nat) : Bool := t.landLo ≤ a && a + n ≤ t.landHi

/-- A condition of WAITC, LWATCH, WATCH or the host WAIT: at least, or equal, unsigned. -/
def meets (eq : Bool) (x target : Word) : Bool := if eq then x = target else target.toNat ≤ x.toNat

/-! ### The ring table (R281, R282) -/

def qEntry (q : Nat) : Nat := 0x48000 + 16 * q
def Tile.qBase (t : Tile) (q : Nat) : Nat := fld (t.spad.word (qEntry q)) 0 19
def Tile.qSize (t : Tile) (q : Nat) : Nat := fld (t.spad.word (qEntry q + 4)) 0 15
def Tile.qHead (t : Tile) (q : Nat) : Nat := fld (t.spad.word (qEntry q + 8)) 0 14
def Tile.qTail (t : Tile) (q : Nat) : Nat := fld (t.spad.word (qEntry q + 8)) 16 14
def Tile.qStat (t : Tile) (q : Nat) : Word := t.spad.word (qEntry q + 12)
/-- Messages in the ring. -/
def Tile.qCount (t : Tile) (q : Nat) : Nat := fld (t.qStat q) 0 12
def Tile.qSpilling (t : Tile) (q : Nat) : Bool := bit (t.qStat q) 12

def Tile.setPtr (t : Tile) (q head tail : Nat) : Tile :=
  { t with spad := t.spad.setWord (qEntry q + 8) (packFields 32 [(0, head), (16, tail)]) }
def Tile.setQStat (t : Tile) (q count : Nat) (mode : Bool) (held : Nat) : Tile :=
  { t with spad := t.spad.setWord (qEntry q + 12) (packFields 32 [(0, count), (12, b2n mode), (13, held)]) }

/-- A queue is absent (R282). -/
def Tile.qAbsent (t : Tile) (q : Nat) : Bool :=
  let s := t.qSize q
  let b := t.qBase q
  s < 256 || 16384 < s || s % 64 ≠ 0 || b % 64 ≠ 0 || b < 0x48100 || 0x4FC00 < b + s

/-- The head message of a ring, read from its record (R285): header words and payload. -/
def Tile.headMsg (t : Tile) (q : Nat) : Option (Word × Word × List Word) :=
  if t.qAbsent q || t.qCount q = 0 then none else
  let a := t.qBase q + t.qHead q
  let w0 := t.spad.word a
  some (w0, t.spad.word (a + 4), (List.range (fld w0 0 6)).map fun i => t.spad.word (a + 8 + 4 * i))

/-! ### What else an instruction may wait for (R62) -/

def Dev.port (d : Dev) (t rp : Nat) : RingPort := (d.tile t).ports.getD rp RingPort.reset
def Dev.setPort (d : Dev) (t rp : Nat) (p : RingPort) : Dev := d.modTile t fun x => { x with ports := x.ports.set rp p }

/-- Update-to-weight accumulators of a layer (R201). -/
def Tile.ratioOf (t : Tile) (l : Nat) : Ratio := t.ratio.getD l Ratio.reset

/-- The context has a pool store that the bank has not accepted (R110, R235). -/
def Dev.poolStoreHeld (d : Dev) (t : Nat) (bg : Bool) : Bool :=
  d.poolOps.cells.any fun c => c.2.any fun o => match o with
    | .write w => w.tile == t && w.bg == bg
    | .window _ => false

end Sys2Proof.Machine
end

