-- ==== Sys2Proof/Machine/Slots.lean ====
section
/-! DEFINITION. The forecast table as other units see it (13 R370, R378, R379): records, the slot that is open, and the
events recorded against it. -/

namespace Sys2Proof.Machine

/-- A slot record (R370). -/
structure SlotRec where
  offset   : Nat
  duration : Nat
  slack    : Nat
  kind     : Nat
  last     : Bool
  wrap     : Bool
  stop     : Bool
  route    : Nat
  next     : Nat
  ports    : BitVec 8
  /-- a reserved bit is 1 -/
  bad      : Bool
deriving DecidableEq, Repr

/-- Word k of the record of slot j. -/
def Dev.slotWord (d : Dev) (j k : Nat) : Word := d.rd (0x40000 + 32 * j + 4 * k)

def Dev.slotRec (d : Dev) (j : Nat) : SlotRec :=
  let w (k : Nat) : Word := d.slotWord j k
  { offset := (w 0).toNat + 2 ^ 32 * fld (w 1) 0 16, duration := (w 2).toNat, slack := (w 3).toNat
    kind := fld (w 4) 0 3, last := bit (w 4) 3, wrap := bit (w 4) 4, stop := bit (w 4) 5, route := fld (w 4) 8 4
    next := fld (w 4) 16 12, ports := BitVec.ofNat 8 (fld (w 5) 0 8)
    bad := fld (w 1) 16 16 ≠ 0 || 4 < fld (w 4) 0 3 || fld (w 4) 6 2 ≠ 0 || fld (w 4) 12 4 ≠ 0 || fld (w 4) 28 4 ≠ 0 ||
      fld (w 5) 8 24 ≠ 0 || w 6 ≠ 0 || w 7 ≠ 0 }

/-- Slot length. -/
def SlotRec.len (r : SlotRec) : Nat := r.duration + r.slack

/-- The kind of the open slot (R378); none while no slot is open. -/
def Dev.openKind (d : Dev) : Option Nat :=
  match d.fc.slots.getLast? with
  | some s => if d.fc.armed then some (d.slotRec s.slot).kind else none
  | none => none

def Dev.computeOpen (d : Dev) : Bool := d.openKind = some 0
/-- An exchange or collective slot is open (R25, R273). -/
def Dev.exchangeOpen (d : Dev) : Bool := d.openKind = some 1 || d.openKind = some 2

/-- Records an event against the open slot (R379, R387). -/
def Dev.slotEvent (d : Dev) (code : Nat) : Dev :=
  match d.fc.slots.getLast? with
  | some s => { d with fc := { d.fc with slots := d.fc.slots.dropLast ++ [{ s with events := s.events ++ [code] }] } }
  | none => d

end Sys2Proof.Machine
end

