-- ==== Sys2Proof/Machine/Packet.lean ====
section
/-! DEFINITION. Packets of the fabric (15 R429 to R448): their bytes, the route of R437 to R441, injection, outstanding
requests, error replies, and taking a packet that has arrived, with the epoch check. -/

namespace Sys2Proof.Machine

/-! ### Bytes of a packet (R429, R430) -/

/-- Length in 16-byte units, header included. -/
def Pkt.len (p : Pkt) : Nat := 1 + p.body.length / 16

def Pkt.bytes (p : Pkt) : List Byte :=
  let w0 : DWord := packFields 64 [(0, p.type), (4, p.vc), (6, p.len), (16, p.dst), (32, p.src), (48, p.rs), (52, p.ttl)]
  let w1 : DWord := packFields 64 [(0, p.epoch), (16, p.w1)]
  bytesLE 8 w0.toNat ++ bytesLE 8 w1.toNat ++ p.body

def parsePkt (bs : List Byte) : Pkt :=
  let w0 : DWord := BitVec.ofNat 64 (ofBytesLE (bs.take 8))
  let w1 : DWord := BitVec.ofNat 64 (ofBytesLE ((bs.drop 8).take 8))
  { type := fld w0 0 4, vc := fld w0 4 2, dst := fld w0 16 16, src := fld w0 32 16, rs := fld w0 48 4, ttl := fld w0 52 6
    epoch := fld w1 0 16, w1 := fld w1 16 48, body := bs.drop 16 }

/-- Length in units that a route header gives. -/
def headerUnits (unit : List Byte) : Nat := ofBytesLE (unit.take 2) / 64 % 32

def typeRd : Nat := 1
def typeWr : Nat := 2
def typeWrl : Nat := 3
def typeAdd : Nat := 4
def typeRdr : Nat := 5
def typeAck : Nat := 6
def typeErr : Nat := 7
def typeColl : Nat := 8
def typeJet : Nat := 9
def typeMgmt : Nat := 10

/-- A request packet (R430). -/
def Pkt.isRequest (p : Pkt) : Bool := 1 ≤ p.type && p.type ≤ 4

/-- The type is one of R431 on its own VC. -/
def Pkt.typeOk (p : Pkt) : Bool :=
  match p.type with
  | 1 => p.vc = 0 | 2 => p.vc = 0 | 3 => p.vc = 0 | 4 => p.vc = 0 | 5 => p.vc = 1 | 6 => p.vc = 1 | 7 => p.vc = 1
  | 8 => p.vc ≤ 1 | 9 => p.vc = 2 | 10 => p.vc = 3 | _ => false

/-- Fields of a request's extension (R430). -/
def Pkt.ext (p : Pkt) : BitVec 128 := BitVec.ofNat 128 (ofBytesLE (p.body.take 16))
def Pkt.tid (p : Pkt) : Nat := if p.isRequest || p.type = typeColl then fld p.ext 0 16 else p.w1 % 65536
def Pkt.reqBytes (p : Pkt) : Nat := fld p.ext 24 11
/-- The global address that a request names at its destination: bits [47:2]. -/
def Pkt.addr (p : Pkt) : Nat := p.w1 / 4 * 4

/-- Pads to a multiple of 16 bytes. -/
def pad16 (bs : List Byte) : List Byte := bs ++ List.replicate ((16 - bs.length % 16) % 16) 0

/-! ### The package in the fabric -/

def Dev.position (d : Dev) : Nat := fld (d.preg .fab 0x80) 0 16
def Dev.epoch (d : Dev) : Nat := fld (d.preg .fab 0x88) 0 16
/-- The route set stamped into new packets (R443). -/
def Dev.routeSet (d : Dev) : Nat := if d.fc.armed then d.fc.route else fld (d.preg .fab 0x8C) 4 4
def Dev.ttl (d : Dev) : Nat := max 1 (fld (d.preg .fab 0x8C) 8 6)

def Dev.fport (d : Dev) (p : Nat) : Fport := d.ports.getD p Fport.reset
def Dev.setFport (d : Dev) (p : Nat) (x : Fport) : Dev := { d with ports := d.ports.set p x }
def Fport.vc (x : Fport) (v : Nat) : PortVc := x.vcs.getD v PortVc.reset
def Fport.setVc (x : Fport) (v : Nat) (y : PortVc) : Fport := { x with vcs := x.vcs.set v y }

/-! ### Routes (R437 to R439, R441) -/

structure Axis where
  lo     : Nat
  width  : Nat
  wrap   : Bool
  minus  : Nat
  plus   : Nat
  extent : Nat

def Dev.axis (d : Dev) (rs a : Nat) : Axis :=
  let c := d.preg .fab (0x400 + 64 * rs + 8 * a)
  let e := fld (d.preg .fab (0x404 + 64 * rs + 8 * a)) 0 17
  { lo := fld c 0 4, width := if 16 < fld c 0 4 + fld c 4 5 then 0 else fld c 4 5, wrap := bit c 9
    minus := fld c 10 4, plus := fld c 14 4, extent := if e = 0 then 1 else e }

def Axis.coord (x : Axis) (pos : Nat) : Nat := pos / 2 ^ x.lo % 2 ^ x.width

/-- Position bits that no used axis covers. -/
def fixedMask (axes : List Axis) : BitVec 16 :=
  bitsOf 16 fun i => axes.all fun x => !(x.lo ≤ i && i < x.lo + x.width)

/-- Active override entries of a kind, with their match word and port, in order. -/
def Dev.overrides (d : Dev) (kind : Bool) : List (Word × Nat) :=
  (List.range 64).filterMap fun i =>
    let c := d.preg .fab (0x804 + 8 * i)
    if bit c 5 && !bit c 6 && bit c 4 == kind then some (d.preg .fab (0x800 + 8 * i), fld c 0 4) else none

def Dev.overrideDst (d : Dev) (dst : Nat) : Option Nat :=
  ((d.overrides false).find? fun e =>
    let m : BitVec 16 := BitVec.ofNat 16 (fld e.1 16 16)
    (BitVec.ofNat 16 dst &&& m) == (BitVec.ofNat 16 (fld e.1 0 16) &&& m)).map fun e => e.2

def Dev.overridePort (d : Dev) (p : Nat) : Nat :=
  match (d.overrides true).find? fun e => fld e.1 0 4 = p with
  | some e => e.2
  | none => p

/-- The dimension-order decision: the port and, on a wrap axis, that axis; `none` is NO_ROUTE. -/
def axisRoute (axes : List Axis) (dst own : Nat) : Option (Nat × Option Axis) :=
  match axes with
  | [] => none
  | x :: r =>
    if x.width = 0 then axisRoute r dst own else
    let cd := x.coord dst
    let co := x.coord own
    if x.extent ≤ cd then none
    else if cd = co then axisRoute r dst own
    else
      let f := (cd + x.extent + 2 ^ 32 - co) % 2 ^ 32 % x.extent
      let up := if x.wrap then f ≤ x.extent - f else co < cd
      some (if up then x.plus else x.minus, if x.wrap then some x else none)

/-- A port that a packet may be sent to: it exists, is not fenced and is not DISABLED. -/
def Dev.portUsable (d : Dev) (p : Nat) : Bool := p < 12 && !d.isFenced (.port p) && (d.fport p).state != .disabled

/-- R438: the port, and whether the packet, which came in on port `from_`, enters a wrap axis here (R441). -/
def Dev.routeOf (d : Dev) (rs dst : Nat) (from_ : Option Nat) : Option (Nat × Bool) :=
  let ok (r : Nat × Bool) : Option (Nat × Bool) := if d.portUsable r.1 then some r else none
  match d.overrideDst dst with
  | some p => ok (p, false)
  | none =>
    let axes := (List.range 6).map (d.axis rs)
    let m := fixedMask axes
    if (BitVec.ofNat 16 dst &&& m) ≠ (BitVec.ofNat 16 d.position &&& m) then none else
    match axisRoute axes dst d.position with
    | none => none
    | some (p, ax) =>
      let enters := match ax with
        | some x => from_ != some x.minus && from_ != some x.plus
        | none => false
      ok (d.overridePort p, enters)

/-! ### Sending -/

/-- Puts a packet into the transmit side of a port. -/
def Dev.queueTx (d : Dev) (p : Nat) (bubble : Bool) (k : Pkt) : Dev :=
  let x := d.fport p
  let y := x.vc k.vc
  d.setFport p (x.setVc k.vc { y with tx := y.tx ++ [(bubble, k.bytes)] })

/-- A packet that cannot be delivered is dropped (R440). -/
def Dev.routeDrop (d : Dev) : Dev := (d.bump .fab 0x110 1).raise .fab 1

/-- Flits of a fabric packet on the die network (R348). -/
def Pkt.flits (k : Pkt) : Nat := (k.len + 3) / 4

/-- A packet crosses the die network from an endpoint of core c to a port. -/
def Dev.sendOut (d : Dev) (c p : Nat) (bubble : Bool) (k : Pkt) : Dev := (d.injectFlits c k.vc k.flits).queueTx p bubble k

/-- Sends a packet of this package on its way from an endpoint of core `home`, which for a unit of no core is the core of the edge
router by which it leaves (DESIGN CHOICE, log entry 27); one for the package itself stays on the die network (R428). Answers false when
it was dropped. -/
def Dev.launch (d : Dev) (home : Option Nat) (k : Pkt) : Dev × Bool :=
  if k.dst = d.position then ({ d.injectFlits (home.getD (edgeCore 0)) k.vc k.flits with diePkts := d.diePkts ++ [k] }, true) else
  match d.routeOf k.rs k.dst none with
  | some (p, bubble) => (d.sendOut (home.getD (portCore p)) p bubble k, true)
  | none => (d.routeDrop, false)

/-- ERR (R434): word 1 holds tid and status. -/
def errPkt (d : Dev) (dst rs tid status : Nat) : Pkt :=
  { type := typeErr, vc := 1, dst := dst, src := d.position, rs := rs, ttl := d.ttl, epoch := d.epoch
    w1 := tid + 65536 * status, body := [] }

/-- Answers a request with ERR. -/
def Dev.sendErr (d : Dev) (dst rs tid status : Nat) : Dev := ((d.bump .fab 0x130 1).launch none (errPkt d dst rs tid status)).1

/-- Sends a packet; a request without a route draws ERR NO_ROUTE (R440). -/
def Dev.sendPkt (d : Dev) (home : Option Nat) (k : Pkt) : Dev :=
  let (d, ok) := d.launch home k
  if ok || !k.isRequest then d else d.sendErr k.src k.rs k.tid 4

/-- Injects a new packet of VC 0 to 2: route set, ttl and epoch are stamped at this moment (R440, R443, R447). While the
fabric page's en is 0 a packet for another package waits (R458). -/
def Dev.inject (d : Dev) (home : Option Nat) (type vc dst w1 : Nat) (body : List Byte) : Dev :=
  let k : Pkt := { type := type, vc := vc, dst := dst, src := d.position, rs := d.routeSet, ttl := d.ttl, epoch := d.epoch
                   w1 := w1, body := body }
  if d.pageOn .fab || dst = d.position then d.sendPkt home k else { d with fabWait := d.fabWait ++ [(home, k)] }

/-- A reply (R432) from a unit of core `home`: tid and route set of the request. -/
def Dev.reply (d : Dev) (home : Option Nat) (req : Pkt) (type status part : Nat) (data : List Byte) : Dev :=
  let k : Pkt := { type := type, vc := 1, dst := req.src, src := d.position, rs := req.rs, ttl := d.ttl, epoch := d.epoch
                   w1 := req.tid + 65536 * status + 65536 * 256 * part, body := pad16 data }
  d.sendPkt home k

/-- A jet packet (R431): subtype, fields of word 1 [63:24], and a body. -/
def Dev.jet (d : Dev) (home : Option Nat) (dst sub fields : Nat) (body : List Byte) : Dev :=
  d.inject home typeJet 2 dst (sub + 256 * fields) body
def Pkt.sub (p : Pkt) : Nat := p.w1 % 256
def Pkt.jetFields (p : Pkt) : BitVec 40 := BitVec.ofNat 40 (p.w1 / 256)

/-! ### Outstanding requests (R436) -/

/-- Port number of the tids of requests that stay on the die, and of those that found no route. -/
def portLocal : Nat := 16
def portNone : Nat := 17

/-- First port of a request's route. -/
def Dev.firstPort (d : Dev) (dst : Nat) : Nat :=
  if dst = d.position then portLocal else
  match d.routeOf d.routeSet dst none with
  | some (p, _) => p
  | none => portNone

def Dev.outstanding (d : Dev) (p : Nat) : Nat := (d.outReqs.filter fun r => r.tid / 2048 == p).length

/-- The lowest free entry of a port. -/
def Dev.freeTid (d : Dev) (p : Nat) : Option Nat :=
  ((List.range 2048).map fun n => 2048 * p + n).find? fun x => !d.outReqs.any fun r => r.tid == x

/-- A remote request of one entry: its packets as (type, address, lc, bytes, fn, data), with the replies to come. -/
structure ReqPart where
  type  : Nat
  addr  : Nat
  lc    : Nat
  bytes : Nat
  fn    : Nat
  data  : List Byte

def ReqPart.body (r : ReqPart) (tid : Nat) : List Byte :=
  bytesLE 16 (packFields 128 [(0, tid), (17, r.lc), (24, r.bytes), (35, r.fn)] : BitVec 128).toNat ++ pad16 r.data

/-- The core whose endpoint sends an issuer's packets; none for a unit of no core. -/
def Issuer.home : Issuer → Option Nat
  | .put t _ => some (tileCore t)
  | .stream c _ _ => some c
  | .coll c _ => some c
  | _ => none

def Dev.request (d : Dev) (issuer : Issuer) (addr : Nat) (parts : List ReqPart) : Dev :=
  let dst := addr / 2 ^ 48 % 65536
  match d.freeTid (d.firstPort dst), parts with
  | some tid, q :: _ =>
    let left := (parts.map fun p => if p.type = typeRd then (p.bytes + 255) / 256 else 1).foldl (· + ·) 0
    let e : OutReq := { tid := tid, issuer := issuer, type := q.type, addr := BitVec.ofNat 64 addr, epoch := d.epoch
                        left := left, parts := ⟨[]⟩ }
    parts.foldl (fun d p => d.inject issuer.home p.type 0 dst (p.addr % 2 ^ 48) (p.body tid)) { d with outReqs := d.outReqs ++ [e] }
  | _, _ => d

/-- Takes an entry for requests toward a position whose packets come later (R267): the package and the tid. -/
def Dev.reserveReq (d : Dev) (issuer : Issuer) (type addr : Nat) : Dev × Option Nat :=
  match d.freeTid (d.firstPort (addr / 2 ^ 48 % 65536)) with
  | some tid =>
    let e : OutReq := { tid := tid, issuer := issuer, type := type, addr := BitVec.ofNat 64 addr, epoch := d.epoch, left := 0, parts := ⟨[]⟩ }
    ({ d with outReqs := d.outReqs ++ [e] }, some tid)
  | none => (d, none)

/-- Sends the packets of a write under an entry that has been reserved for it (R436). -/
def Dev.requestOn (d : Dev) (issuer : Issuer) (tid addr : Nat) (parts : List ReqPart) : Dev :=
  let d := { d with outReqs := d.outReqs.map fun r => if r.tid = tid then { r with left := r.left + parts.length } else r }
  parts.foldl (fun d p => d.inject issuer.home p.type 0 (addr / 2 ^ 48 % 65536) (p.addr % 2 ^ 48) (p.body tid)) d

/-- Room for one more request toward a position (R264). -/
def Dev.canRequest (d : Dev) (dst : Nat) : Bool := d.outstanding (d.firstPort dst) < 2048

/-- The entry a reply names. -/
def Dev.reqOf (d : Dev) (tid : Nat) : Option OutReq := d.outReqs.find? fun r => r.tid == tid
def Dev.dropReq (d : Dev) (tid : Nat) : Dev := { d with outReqs := d.outReqs.filter fun r => r.tid != tid }
def Dev.setReq (d : Dev) (e : OutReq) : Dev := { d with outReqs := d.outReqs.map fun r => if r.tid = e.tid then e else r }

/-! ### Taking a packet that has arrived -/

/-- The packet that a command takes: the oldest of a port's VC, or packet i of the die network in the order of its VC. -/
def Dev.arrived (d : Dev) (src : PktSrc) (vc : Nat) : Option (Pkt × RxPkt × Dev) :=
  match src with
  | .port p =>
    let x := d.fport p
    let y := x.vc vc
    match y.rx with
    | [] => none
    | r :: rest =>
      let k := parsePkt r.bytes
      let d' := d.setFport p (x.setVc vc { y with rx := rest, freed := y.freed + BitVec.ofNat 16 k.len })
      -- one for this package, of its epoch, enters the die network at the port's edge router (R348, R448)
      some (k, r, if k.dst = d.position && (k.epoch = d.epoch || k.vc = 3) then d'.injectFlits (portCore p) k.vc k.flits else d')
  | .die i =>
    match takeInOrder (fun (k : Pkt) => k.vc) d.diePkts i with
    | none => none
    | some (k, rest) =>
      -- it stays in the package, under any position and epoch (R428)
      let k := { k with dst := d.position, src := d.position, epoch := d.epoch }
      if k.vc = vc then some (k, { bytes := k.bytes, stamp := d.tmb.time8, rp := false }, { d with diePkts := rest }) else none

/-- R448, for packets that entered from a port: answers the package and whether the packet is accepted. -/
def Dev.epochCheck (d : Dev) (src : PktSrc) (k : Pkt) : Dev × Bool :=
  match src with
  | .die _ => (d, true)
  | .port _ =>
    let df := (k.epoch + 65536 - d.epoch) % 65536
    if df = 0 || k.vc = 3 then (d, true)
    else if 0x8000 ≤ df then (d.bump .fab 0x100 1, false)
    else ((d.bump .fab 0x108 1).raise .fab 2, false)

/-- Runs `f` on the arrived packet of VC `vc` if it is for this package, on the VC of its type, and satisfies `p`; a packet of another
epoch is dropped with no effect. -/
def Dev.onPacket (d : Dev) (src : PktSrc) (vc : Nat) (p : Pkt → Bool) (f : Dev → Pkt → RxPkt → Dev) : Dev :=
  match d.arrived src vc with
  | none => d
  | some (k, r, d') =>
    if k.dst ≠ d.position || k.vc ≠ vc || !p k then d else
    let (d', ok) := d'.epochCheck src k
    if ok then f d' k r else d'

end Sys2Proof.Machine
end

