-- ==== Sys2Proof/Machine/Flags.lean ====
section
/-! DEFINITION. FPSTAT (R70): how the flags of lanes, steps and conversions combine into one context's sticky
bits, and the flags of the integer operations that saturate. -/

namespace Sys2Proof.Machine

/-- Sets sticky bits: nothing but a write of 1 clears one. -/
def Ctx.setFp (c : Ctx) (f : BitVec 5) : Ctx := { c with fpstat := c.fpstat ||| f }

/-- A write of 1 to a bit clears it. -/
def Ctx.clearFp (c : Ctx) (w : Word) : Ctx := { c with fpstat := c.fpstat &&& ~~~ (w.setWidth 5) }

/-- The flags of several results. -/
def orFlags (fs : List (BitVec 5)) : BitVec 5 := fs.foldl (fun a f => a ||| f) 0

/-- Signed 32-bit saturation with FPSTAT.sat (R115). -/
def satInt32 (i : Int) : Word × BitVec 5 :=
  if i < -(2 ^ 31) then (0x80000000#32, flagSat)
  else if 2 ^ 31 ≤ i then (0x7FFFFFFF#32, flagSat)
  else (BitVec.ofInt 32 i, 0)

/-- One saturating add into an INT32 cell (R122, R178): the clamped sum, and whether it saturated. -/
def accAdd (a : Word) (p : Int) : Word × Bool :=
  let (w, f) := satInt32 (a.toInt + p)
  (w, f ≠ 0)

end Sys2Proof.Machine
end

