-- ==== Sys2Proof/Machine/Slot.lean ====
section
/-! DEFINITION. Issue of a bundle (R58 to R66, R74 to R80, R83, R90): what a slot asks for and does, which trap a
bundle takes, when it stalls, and what the sequencer selects next. A slot's meaning is a `SlotSem` computed from
the state before the bundle, so that all slots read before any writes (R63). -/

namespace Sys2Proof.Machine

/-- The state a bundle reads, with its tile and context. -/
structure View where
  d  : Dev
  t  : Nat
  bg : Bool

def View.tile (v : View) : Tile := v.d.tile v.t
def View.c (v : View) : Ctx := v.tile.ctx v.bg
def View.s (v : View) (n : BitVec 6) : Word := v.c.rs n.toNat
def View.a (v : View) (n : BitVec 4) : Word := v.c.ra n.toNat
def View.v (v : View) (n : BitVec 5) : Lanes := v.c.rv n.toNat
def View.p (v : View) (n : BitVec 3) : BitVec 64 := v.c.rp n.toNat
def View.core (v : View) : Nat := tileCore v.t
/-- QT1_EXACT (R125). -/
def View.exact (v : View) : Bool := bit (v.d.preg (.tile v.t) 0xA0) 0
/-- Group `g` of the tile (R167). -/
def View.group (v : View) (g : BitVec 2) : Group := v.tile.groups.getD g.toNat Group.reset

def View.ws (v : View) (n : BitVec 6) (w : Word) : Dev → Dev := fun d => d.ws v.t v.bg n.toNat w
def View.wa (v : View) (n : BitVec 4) (w : Word) : Dev → Dev := fun d => d.wa v.t v.bg n.toNat w
def View.wv (v : View) (n : BitVec 5) (l : Lanes) : Dev → Dev := fun d => d.wv v.t v.bg n.toNat l
def View.wp (v : View) (n : BitVec 3) (b : BitVec 64) : Dev → Dev := fun d => d.wp v.t v.bg n.toNat b
/-- Sets sticky FPSTAT bits (R70). -/
def View.fp (v : View) (f : BitVec 5) : Dev → Dev := fun d => d.modCtx v.t v.bg fun c => c.setFp f
/-- Marks a register's write pending (R65). -/
def View.pend (v : View) (r : Reg) : Dev → Dev := fun d => d.modCtx v.t v.bg fun c => { c with pend := c.pend ++ [r] }

/-- Where control goes after the bundle (R95, R96, R156). -/
inductive Ctl where
  | next | goto (target : Nat) | halt | csw
deriving DecidableEq, Repr

/-- What one slot of a bundle asks for and does. `illegal` is its reason under R90, `traps` the causes and
TRAP_INFO it meets at issue, `needs` what it waits for (R62), `onStall` what a cycle in which it waits does, given the
counter of R83 that the cycle goes to, `access` its scratchpad accesses (write, address, length) for data breakpoints, `eff` its effect,
`clears` that it zeroes the tile's counters, which count from the following cycle (R84). -/
structure SlotSem where
  slot    : Nat
  srcs    : List Reg := []
  dests   : List Reg := []
  heads   : List Nat := []
  illegal : Option Nat := none
  traps   : List (Nat × Word) := []
  needs   : List Need := []
  onStall : Nat → Dev → Dev := fun _ => id
  access  : List (Bool × Nat × Nat) := []
  eff     : Dev → Dev := id
  clears  : Bool := false
  ctl     : Ctl := .next

def rs (n : BitVec 6) : Reg := .s n.toNat
def ra (n : BitVec 4) : Reg := .a n.toNat
def rv (n : BitVec 5) : Reg := .v n.toNat
def rp (n : BitVec 3) : Reg := .p n.toNat
def rg (n : BitVec 2) : Reg := .g n.toNat

/-- The reason of R90, lowest first: 1 when the mode forbids the slot, 2 for a reserved bit or value. -/
def illegalIf (mode rsv : Bool) : Option Nat := if mode then some 1 else if rsv then some 2 else none

/-- Trap causes (R77). -/
def trapIllegal : Nat := 1
def trapBundle : Nat := 2
def trapFetch : Nat := 3
def trapAddr : Nat := 4
def trapQOwner : Nat := 5
def trapQClass : Nat := 6
def trapGroup : Nat := 7
def trapBreak : Nat := 8
def trapUnderrun : Nat := 9
def trapSoftware : Nat := 10

/-- Counter offsets of R83. -/
def cntIssue : Nat := 0x108
def cntIdle : Nat := 0x110
def cntRing : Nat := 0x118
def cntQueue : Nat := 0x120
def cntWait : Nat := 0x128
def cntPool : Nat := 0x130
def cntSend : Nat := 0x138
def cntStore : Nat := 0x140
def cntOperand : Nat := 0x148
def cntSwitch : Nat := 0x150

/-- CNT_CTRL.run of a tile whose page is enabled (R83). -/
def Dev.counting (d : Dev) (t : Nat) : Bool := d.pageOn (.tile t) && bit (d.preg (.tile t) 0xFC) 0

/-- One counted cycle: CNT_CYCLE and one of the nine cycle counters (R83). -/
def Dev.countCycle (d : Dev) (t off : Nat) : Dev :=
  if d.counting t then (d.bumpAlways (.tile t) 0x100 1).bumpAlways (.tile t) off 1 else d

/-- All eleven counters become 0 (R84). -/
def Dev.zeroTileCounts (d : Dev) (t : Nat) : Dev :=
  { d with ctrs := (List.range 11).foldl (fun c i => c.set (Page.base (.tile t) + 0x100 + 8 * i) 0) d.ctrs }

/-- A change from one selected context to the other (R58, R59): it takes four cycles, and ends the runs of stalled cycles that rule 4
and R262 count. -/
def Dev.switchTo (d : Dev) (t : Nat) (bg : Bool) : Dev :=
  let d := d.modTile t fun x =>
    { x with sel := some bg, switching := 4, fg := { x.fg with stall := 0, ringWait := 0 }, bg := { x.bg with stall := 0, ringWait := 0 } }
  if d.counting t then d.bumpAlways (.tile t) cntSwitch 1 else d

/-- A context's run bit clears, and the write-combining buffer flushes (R223). -/
def Dev.endRun (d : Dev) (t : Nat) (bg : Bool) : Dev :=
  d.modTile t fun x => (x.setCtx bg { x.ctx bg with run := false, stall := 0, ringWait := 0, waits := [], halting := none }).flushAll

/-- A selected context that no longer runs is left: for the other context if that one may run (R59 rule 5), else for none. -/
def Dev.reselect (d : Dev) (t : Nat) : Dev :=
  match (d.tile t).sel with
  | none => d
  | some bg =>
    if (d.ctx t bg).run then d
    else if (d.ctx t (!bg)).run then d.switchTo t (!bg)
    else d.modTile t fun x => { x with sel := none, switching := 0 }

/-- A context stops running. -/
def Dev.stopCtx (d : Dev) (t : Nat) (bg : Bool) : Dev := (d.endRun t bg).reselect t

/-- A context whose HALT has issued stops once no slot of that bundle has a register to write (R96). -/
def Dev.haltDone (d : Dev) (t : Nat) (bg : Bool) : Dev :=
  match (d.ctx t bg).halting with
  | some rs => if rs.any fun r => (d.ctx t bg).pend.contains r then d else d.stopCtx t bg
  | none => d

/-- A trap (R76): the run bit clears, TRAP and TRAP_INFO record cause, PC and operand, PROGRAM_TRAP is raised,
and the trap is recorded against the open slot (R379). The PC is a bundle index of ten bits: after bundle 1,023 it records 0, and
TRAP_INFO of FETCH_BOUNDS the bundle index 1,024 (DESIGN CHOICE, log entry 8). -/
def Dev.takeTrap (d : Dev) (t : Nat) (bg : Bool) (cause : Nat) (info : Word) (pc : Nat) : Dev :=
  let d := d.modCtx t bg fun c =>
    { c with trap := packFields 32 [(0, cause), (16, pc % 1024), (31, 1)], trapInfo := info }
  ((d.stopCtx t bg).raise (.tile t) 0).slotEvent 5

/-! ### What a bundle waits for (R62, R83) -/

/-- The answer to the need rests on an operand register of its slot. -/
def Need.ofOperand : Need → Bool
  | .landing .. | .arrival _ | .ratio _ | .port .. => true
  | _ => false

/-- The network carries something that a send could have to wait behind (R293). -/
def Dev.netBusy (d : Dev) : Bool :=
  !d.msgs.isEmpty || !d.ingress.cells.isEmpty || !d.puts.isEmpty || d.segs.any Segment.mesh || !d.diePkts.isEmpty

/-- A write from outside the tile may be waiting for its write port (R220). -/
def Dev.writesUnderWay (d : Dev) : Bool :=
  !d.msgs.isEmpty || !d.ingress.cells.isEmpty || !d.spilled.cells.isEmpty || !d.coreQ.cells.isEmpty || !d.puts.isEmpty ||
  !d.segs.isEmpty || !d.diePkts.isEmpty || d.ports.cells.any fun x => x.2.vcs.cells.any fun v => !v.2.rx.isEmpty

/-- A store has to wait for a flush (R222, R223): a narrow one that finds no entry, any other one that touches an entry's line. -/
def Tile.flushFirst (t : Tile) (lines : List Nat) (narrow : Bool) : Bool :=
  if narrow then 4 ≤ t.wcb.length && !t.wcb.any fun e => lines.contains e.line
  else t.wcb.any fun e => lines.contains e.line

/-- Something contends for what the need names, so that a free value decides whether it is met in this cycle. -/
def Dev.contended (d : Dev) (t : Nat) : Need → Bool
  | .net _ => d.netBusy
  | .port lines narrow => d.writesUnderWay || (d.tile t).flushFirst lines narrow
  | _ => false

/-- The need is not met now. -/
def Dev.lacks (d : Dev) (t : Nat) (bg : Bool) (n : Need) : Bool :=
  match n with
  | .reg r => (d.ctx t bg).pend.contains r
  | .ring p out => let q := d.port t p; !(q.bound && q.output == out && q.full.getD q.cur false != out)
  | .message q => ((d.tile t).headMsg q).isNone
  | .landing n target eq => !meets eq ((d.tile t).lc n) target
  | .watchPlace => 4 ≤ (d.ctx t bg).watches
  | .arrival b => 2 ≤ ((d.tile t).bars.getD b TileBar.reset).pend.length
  | .net _ => d.contended t n && Config.netFull t d.draws
  | .poolStores => d.poolStoreHeld t bg
  | .port .. => d.contended t n && Config.portTaken t d.draws
  | .grant => d.pwr.spent.getD (tileCore t) false
  | .ratio l => d.rsl.phase != .idle || ((d.tile t).ratioOf l).closed

/-- A context that runs and can issue its next bundle, as far as what its last bundle waited for tells (R59, R62). -/
def Dev.canIssue (d : Dev) (t : Nat) (bg : Bool) : Bool :=
  (d.ctx t bg).run && (d.ctx t bg).halting.isNone && !(d.ctx t bg).waits.any (d.lacks t bg)

/-- The cycle counter of a need (R83). -/
def Need.counter (c : Ctx) : Need → Nat
  | .reg r => if c.loads.any fun l => l.dest == r then cntPool else cntOperand
  | .ring .. => cntRing
  | .message _ => cntQueue
  | .landing .. | .watchPlace | .arrival _ => cntWait
  | .net _ => cntSend
  | .port .. => cntStore
  | .poolStores | .grant | .ratio _ => cntOperand

/-- The counter of a cycle in which nothing issues: the first of the table whose condition holds (R83); a held exchange write of the
context counts as a send held. -/
def Tile.stallCounter (x : Tile) (bg : Bool) (ns : List Need) : Nat :=
  ((ns.map (Need.counter (x.ctx bg)) ++ if x.puts.any fun p => p.bg == bg then [cntSend] else []).min?).getD cntOperand

/-! ### Breakpoints (R80) -/

def Dev.brkCtrl (d : Dev) (t n : Nat) : Word := d.preg (.tile t) (0xC4 + 8 * n)
def Dev.brkAddr (d : Dev) (t n : Nat) : Word := d.preg (.tile t) (0xC0 + 8 * n)

/-- The breakpoint is enabled for the context. -/
def Dev.brkLive (d : Dev) (t n : Nat) (bg : Bool) : Bool :=
  let k := d.brkCtrl t n
  bit k 0 && (bit k 4 || bit k 3 == bg)

def Dev.fetchHit (d : Dev) (t n : Nat) (bg : Bool) (pc : Nat) : Bool :=
  let k := d.brkCtrl t n
  let m := fld k 8 5
  d.brkLive t n bg && fld k 1 2 = 0 && (fld (d.brkAddr t n) 0 10) / 2 ^ m = pc / 2 ^ m

/-- A scratchpad access of n bytes at a meets data breakpoint n. -/
def Dev.dataHit (d : Dev) (t n : Nat) (bg : Bool) (acc : Bool × Nat × Nat) : Bool :=
  let k := d.brkCtrl t n
  let lo := (d.brkAddr t n).toNat / 2 ^ fld k 8 5 * 2 ^ fld k 8 5
  d.brkLive t n bg && (if acc.1 then bit k 2 else bit k 1) &&
    (0 < acc.2.2 && acc.2.1 < lo + 2 ^ fld k 8 5 && lo < acc.2.1 + acc.2.2)

def Dev.setBrkStat (d : Dev) (t : Nat) (hits : List Nat) : Dev :=
  d.setPreg (.tile t) 0xE0 (hits.foldl (fun w n => setBit w n true) (d.preg (.tile t) 0xE0))

def Dev.countOnly (d : Dev) (t n : Nat) : Bool := bit (d.brkCtrl t n) 5

/-- halt_both of a halting hit clears the other context's run bit (R80). -/
def Dev.haltBoth (d : Dev) (t : Nat) (bg : Bool) (hits : List Nat) : Dev :=
  if hits.any fun n => bit (d.brkCtrl t n) 6 && !d.countOnly t n then
    d.endRun t (!bg)
  else d

/-! ### A bundle -/

/-- A register write that counts under R64: s0 and p0 do not (R91). -/
def countsAsWrite : Reg → Bool
  | .s 0 => false
  | .p 0 => false
  | _ => true

/-- The slots that write a register, or read a queue head, that another slot writes or reads (R64), as a mask. -/
def conflictMask (sems : List SlotSem) : Nat :=
  (sems.mapIdx fun i x =>
    let others := (sems.mapIdx fun j y => (j, y)).filter fun jy => jy.1 ≠ i
    let clash := others.any fun jy =>
      (x.dests.filter countsAsWrite).any (fun r => jy.2.dests.contains r) || x.heads.any fun q => jy.2.heads.contains q
    if clash then 2 ^ x.slot else 0).foldl (fun m b => m ||| b) 0

/-- The illegal slot with the lowest number: its TRAP_INFO (R90). -/
def illegalInfo (sems : List SlotSem) : Option Word :=
  (List.range 4).findSome? fun k => sems.findSome? fun x =>
    if x.slot = k then x.illegal.map fun r => BitVec.ofNat 32 (k + 16 * r) else none

/-- The trap with the lowest code (R78). Where two slots of a bundle raise ADDR_BOUNDS, TRAP_INFO holds the address of the slot whose
command came first: the manual ranks causes, not slots (DESIGN CHOICE, log entry 8). -/
def lowestTrap (ts : List (Nat × Word)) : Option (Nat × Word) :=
  (List.range 11).findSome? fun k => ts.find? fun x => x.1 == k

/-- The registers that a slot reads or writes. -/
def SlotSem.named (x : SlotSem) : List Reg := x.srcs ++ x.dests

/-- What a slot still waits for: pending registers, and needs whose answer does not rest on a pending operand. -/
def View.missing (v : View) (x : SlotSem) : List Need :=
  (x.named.filter fun r => v.c.pend.contains r).map Need.reg ++
  x.needs.filter fun n => v.d.lacks v.t v.bg n && !(n.ofOperand && x.srcs.any fun r => v.c.pend.contains r)

/-- HALT (R96): the context stops once every slot of the bundle has completed. -/
def Dev.halt (d : Dev) (t : Nat) (bg : Bool) (dests : List Reg) : Dev :=
  if (d.ctx t bg).run then (d.modCtx t bg fun c => { c with halting := some dests }).haltDone t bg else d

/-- What the issue check of a bundle answers, in the order fetch, decode, scoreboard, operands, units. -/
inductive IssueWay where
  | trap (cause : Nat) (info : Word)
  | stall (needs : List Need)
  | issue
deriving DecidableEq, Repr

/-- The decision for a bundle at `pc` (R62, R64, R74, R78, R90); `brk` is a halting fetch breakpoint. -/
def issueWay (v : View) (limit pc : Nat) (brk : Option Nat) (sems : List SlotSem) : IssueWay :=
  match brk with
  | some n => .trap trapBreak (BitVec.ofNat 32 n)
  | none =>
  if limit ≤ pc then .trap trapFetch (BitVec.ofNat 32 pc) else
  match illegalInfo sems with
  | some w => .trap trapIllegal w
  | none =>
  if conflictMask sems ≠ 0 then .trap trapBundle (BitVec.ofNat 32 (conflictMask sems)) else
  let missing := sems.flatMap v.missing
  if sems.any fun x => x.named.any fun r => v.c.pend.contains r then .stall missing else
  match lowestTrap (sems.flatMap fun x => x.traps) with
  | some (k, w) => .trap k w
  | none => if missing = [] then .issue else .stall missing

/-- The need is a ring slot's (R262). -/
def Need.ofRing : Need → Bool
  | .ring .. => true
  | _ => false

/-- A cycle in which the selected context waits; the run of cycles in which a ring instruction waits goes on or ends (R262). -/
def Dev.stallCycle (d : Dev) (t : Nat) (bg : Bool) (ns : List Need) : Dev :=
  (d.modCtx t bg fun c =>
    { c with stall := c.stall + 1, ringWait := if ns.any Need.ofRing then c.ringWait + 1 else 0, waits := ns }).countCycle t ((d.tile t).stallCounter bg ns)

/-- Needs that a free value has decided: the next one is drawn. -/
def Dev.drew (d : Dev) (t : Nat) (ns : List Need) : Dev :=
  if ns.any (d.contended t) then { d with draws := d.draws + 1 } else d

/-- A bundle whose needs a free value has decided. -/
def Dev.drawn (d : Dev) (t : Nat) (sems : List SlotSem) : Dev := d.drew t (sems.flatMap fun x => x.needs)

/-- The bundle of the selected context is offered for issue in one cycle. Where several accesses or several breakpoints hit in one
bundle, TRAP_INFO holds the start of the first access, in slot order, that the lowest-numbered halting breakpoint met (DESIGN
CHOICE, log entry 8). -/
def Dev.issueBundle (d : Dev) (t : Nat) (bg : Bool) (sems : List SlotSem) : Dev :=
  let v : View := { d := d, t := t, bg := bg }
  let pc := v.c.pc
  let hits := (List.range 4).filter fun n => d.fetchHit t n bg pc
  let d1 := if hits = [] then d else d.setBrkStat t hits
  match issueWay v (fld (d.preg (.tile t) 0x98) 0 11) pc (hits.find? fun n => !d.countOnly t n) sems with
  | .trap cause info =>
    let d1 := if cause = trapBreak then d1.haltBoth t bg hits else d1
    ((d1.countCycle t ((d.tile t).stallCounter bg [])).takeTrap t bg cause info pc)
  | .stall ns =>
    let d1 := sems.foldl (fun d x => if ns.any x.needs.contains then x.onStall ((v.tile).stallCounter bg ns) d else d) d1
    (d1.drawn t sems).stallCycle t bg ns
  | .issue =>
    let d1 := sems.foldl (fun d x => x.eff d) (d1.drawn t sems)
    let target := sems.findSome? fun x => match x.ctl with | .goto n => some n | _ => none
    let d1 := d1.modCtx t bg fun c => { c with pc := target.getD (pc + 1), stall := 0, ringWait := 0, waits := [] }
    let d1 := d1.countCycle t cntIssue
    -- data breakpoints: the bundle completes, then the context halts (R80)
    let accs := sems.flatMap fun x => x.access
    let dhits := (List.range 4).filter fun n => accs.any fun a => d.dataHit t n bg a
    let d1 := if dhits = [] then d1 else d1.setBrkStat t dhits
    let d1 := match dhits.find? fun n => !d.countOnly t n with
      | some n =>
        let a := match accs.find? fun a => d.dataHit t n bg a with | some a => a.2.1 | none => 0
        (d1.haltBoth t bg dhits).takeTrap t bg trapBreak (BitVec.ofNat 32 a) pc
      | none => d1
    let d1 := if sems.any fun x => x.ctl == .halt then d1.halt t bg (sems.flatMap fun x => x.dests)
      else if sems.any (fun x => x.ctl == .csw) && (d1.ctx t bg).run && (d1.ctx t (!bg)).run then d1.switchTo t (!bg)
      else d1
    -- a write that zeroes the counters prevails over what this cycle counts (R679)
    if sems.any fun x => x.clears then d1.zeroTileCounts t else d1

/-- A tile that may fetch: present, enabled, not fenced, its page's en 1, clocks not stopped (R58, R81, R357, R567). -/
def Dev.tileLive (d : Dev) (t : Nat) : Bool :=
  d.coreEnabled (tileCore t) && !d.isSpare t && !d.isFenced (.tile t) && !d.isFenced (.core (tileCore t)) &&
  d.pageOn (.tile t) && d.pwr.calm = .run && !d.mc.thermtrip

/-- Offers a complete bundle in one cycle: without a selected context, and while a switch is in progress, nothing issues and the cycle
counts CNT_IDLE (R58, R59, R83); a context whose HALT waits for its bundle issues nothing more (R96). -/
def Dev.offerBundle (d : Dev) (t : Nat) (sems : View → List SlotSem) : Dev :=
  if !d.tileLive t then d else
  match (d.tile t).sel with
  | none => d.countCycle t cntIdle
  | some bg =>
    if (d.tile t).switching ≠ 0 then
      (d.modTile t fun x => { x with switching := x.switching - 1 }).countCycle t cntIdle
    else match (d.ctx t bg).halting with
      | some rs => d.stallCycle t bg (rs.map Need.reg)
      | none => d.issueBundle t bg (sems { d := d, t := t, bg := bg })

end Sys2Proof.Machine
end

