-- ==== Sys2Proof/Machine/Convert.lean ====
section
/-! DEFINITION. Conversion sites (07 R186 to R208): tensor tags, the rounding a tag selects with its Drizzle inputs,
layer offsets, and the Barometer lines in which every conversion unit counts. -/

namespace Sys2Proof.Machine

/-- A tag entry (R186): its number, tensor id, class, scaled bit and layer. -/
structure Tag where
  num    : Nat
  id     : Word
  cls    : Nat
  scaled : Bool
  layer  : Nat

/-- Entry n of the tag table of physical core c; TAG[0] reads as zero (R187). -/
def Dev.tag (d : Dev) (c n : Nat) : Tag :=
  let lo := if n = 0 then 0 else d.rd (coreBase c + 0x6000 + 8 * n)
  let hi : Word := if n = 0 then 0 else d.rd (coreBase c + 0x6004 + 8 * n)
  { num := n, id := lo, cls := fld hi 0 2, scaled := bit hi 2, layer := fld hi 8 8 }

/-- The Drizzle output for a logical index under a tensor id, with the seed, step and replica of core c (R192). -/
def Dev.draw (d : Dev) (c : Nat) (tensor : Word) (index : Nat) : Word :=
  drizzle (joinWords (d.preg (.num c) 0x84) (d.preg (.num c) 0x80)) (d.preg (.num c) 0x88) tensor (index % 2 ^ 48)
    (fld (d.preg (.num c) 0x8C) 0 16)

/-- Rounding by class (R187, R188): stochastic for gradient-class tags only. -/
def Dev.roundingOf (d : Dev) (c : Nat) (tag : Tag) (index : Nat) : Rounding :=
  if tag.cls = 1 then .drizzle (d.draw c tag.id index) else .rne

/-- The exponent offset of a conversion under a tag (R198): the entry of the given layer table when scaled is 1. -/
def Tag.offset (tag : Tag) (layer : Tbl Byte) : Int := if tag.scaled then (layer.getD tag.layer 0).toInt else 0

/-! ### Barometer lines (R205, R206) -/

/-- The counts of one conversion on a line: it holds four 32-bit counts and flushes when one reaches 2^31. -/
def BaroLine.count (l : BaroLine) (cs : List ConvClass) : BaroLine :=
  { l with conv := l.conv + cs.length, van := l.van + cs.count .vanished, cla := l.cla + cs.count .clamped,
           sub := l.sub + cs.count .subnormal }

def BaroLine.full (l : BaroLine) : Bool := 2 ^ 31 ≤ l.conv || 2 ^ 31 ≤ l.van || 2 ^ 31 ≤ l.cla || 2 ^ 31 ≤ l.sub

/-- Counts in a unit of eight lines, least recently used first. Answers the lines and what was flushed. -/
def baroCount (ls : List BaroLine) (parity : Bool) (tag fmt : Nat) (cs : List ConvClass) : List BaroLine × List BaroLine :=
  let fresh : BaroLine := { parity := parity, tag := tag, fmt := fmt, conv := 0, van := 0, cla := 0, sub := 0 }
  let (old, rest, out) :=
    match takeFirst (fun l => l.parity == parity && l.tag == tag && l.fmt == fmt) ls with
    | some (l, r) => (l, r, [])
    | none => match ls with
      | l :: r => if ls.length < 8 then (fresh, ls, []) else (fresh, r, [l])
      | [] => (fresh, [], [])
  let l := old.count cs
  if l.full then (rest, out ++ [l]) else (rest ++ [l], out)

/-- Barometer collection of a core is running (BLK_CTRL.en of its numerics page). -/
def Dev.baroOn (d : Dev) (c : Nat) : Bool := d.pageOn (.num c)

/-- Flushed lines travel to the aggregator on VC3 (R206). -/
def Dev.flyBaro (d : Dev) (c : Nat) (ls : List BaroLine) : Dev :=
  ({ d with baroFly := d.baroFly ++ ls.map fun l => (c, l) }).injectPkts c 3 ls.length

def Dev.stepParity (d : Dev) (c : Nat) : Bool := bit (d.preg (.num c) 0x88) 0

/-- Counts conversions of a tile. -/
def Dev.baroTile (d : Dev) (t tag fmt : Nat) (cs : List Conv) : Dev :=
  let c := tileCore t
  if !d.baroOn c || cs = [] then d else
  let (ls, out) := baroCount (d.tile t).baro (d.stepParity c) tag fmt (cs.map Conv.cls)
  (d.modTile t fun x => { x with baro := ls }).flyBaro c out

/-- Counts conversions of a core's stream engine (unit 0) or collective unit (unit 1). A stream's segment converts when it completes, and
"DZ_STEP[0] at issue" (R205) is taken as DZ_STEP at that moment (DESIGN CHOICE, log entry 22). -/
def Dev.baroUnit (d : Dev) (c unit tag fmt : Nat) (cs : List Conv) : Dev :=
  if !d.baroOn c || cs = [] then d else
  let (ls, out) := baroCount (d.unitBaro.getD (8 * unit + c) []) (d.stepParity c) tag fmt (cs.map Conv.cls)
  ({ d with unitBaro := d.unitBaro.set (8 * unit + c) ls }).flyBaro c out

/-! ### Output formats shared by MCLOSE, VCVTT and streams -/

/-- The MX element of an MMAF code 3 to 8. -/
def mxOfCode (n : Nat) : MxElem :=
  match n with
  | 3 => .e4m3 | 4 => .e5m2 | 5 => .e3m2 | 6 => .e2m3 | 7 => .e2m1 | _ => .int8

/-- Conversion of one value into BF16 (0), FP16 (1), INT8 (9) or INT4 (10) by Barometer code. -/
def convPlain (fmt : Nat) (mode : Rounding) (x : FVal) (scale : Word) : Conv :=
  match fmt with
  | 0 => fmtBf16.conv true mode x
  | 1 => fmtFp16.conv true mode x
  | 9 => convIntScaled 8 mode x scale
  | _ => convIntScaled 4 mode x scale

end Sys2Proof.Machine
end

