-- ==== Sys2Proof/Machine/TilePage.lean ====
section
/-! DEFINITION. Reading registers: the common header of every page (R682), 64-bit counters with their latches
(R84), and the tile page (R81 to R86). -/

namespace Sys2Proof.Machine

/-- The page's unit is fenced, from the start of its fence sequence (R567, R682). -/
def Dev.pageFenced (d : Dev) (p : Page) : Bool :=
  match p.fenceUnit with
  | none => false
  | some u => d.isFenced u || d.fenceActive u ||
    (match u with
     | .tile t => d.isFenced (.core (tileCore t)) || d.fenceActive (.core (tileCore t))
     | _ => false)

/-- Effective severities of sources 16h to 16h + 15 (R561). -/
def Dev.esevWord (d : Dev) (p : Page) (half : Nat) : Word :=
  packFields 32 ((List.range 16).map fun i =>
    let s := 16 * half + i
    (2 * i, if s < p.nsrc then d.effSev p s else 0))

/-- BLK_CAP (R682): sources, fenceable, soft reset, local. -/
def Page.cap (p : Page) : Word :=
  packFields 32 [(0, p.nsrc), (6, b2n p.fenceUnit.isSome), (7, b2n (match p with | .debug _ => false | _ => true)),
                 (8, b2n (match p with | .tile _ => true | _ => false))]

/-- The stepping field: 0 A1, 1 B0. -/
def Dev.stepping (d : Dev) : Nat := b2n d.fuses.b0

/-- A header register (R682). Offsets 0x00C and 0x048 to 0x07F are reserved and read 0. -/
def Dev.readHeader (d : Dev) (p : Page) (off : Nat) (quiet : Bool) : Word :=
  if off = 0x0 then p.blkId
  else if off = 0x4 then packFields 32 [(0, (Config.blkMinor (p.blkId.toNat / 65536)).toNat), (8, 1), (16, d.stepping)]
  else if off = 0x8 then p.cap
  else if off = blkCtrl then packFields 32 [(0, b2n (d.pageOn p)), (2, b2n (d.pageFenced p))]
  else if off = blkStat then packFields 32 [(0, b2n (d.softBusy.contains p.index)), (1, b2n (!d.pageOn p && quiet))]
  else if off = 0x28 then d.esevWord p 0
  else if off = 0x2C then d.esevWord p 1
  else if (p.headerRow off).isSome then d.preg p off
  else 0

/-- Key of a latch: path and offset of the counter's low word. -/
def latchKey (path : Path) (o : Nat) : Nat := 4 * o + (match path with | .bar0 => 0 | .mgmt => 1 | .tileLocal => 2 | .bar4 => 3)

/-- Reads one word of a 64-bit register at BAR0 offset `o` of its low word, whose value is `x`: the low word
latches the high word for its path; the next read of the high word returns the latched value (R84). -/
def Dev.read64 (d : Dev) (path : Path) (o : Nat) (x : DWord) (high : Bool) : Dev × Word :=
  if high then
    match d.latch.get? (latchKey path o) with
    | some w => ({ d with latch := d.latch.erase (latchKey path o) }, w)
    | none => (d, hiWord x)
  else ({ d with latch := d.latch.set (latchKey path o) (hiWord x) }, loWord x)

/-- Die coordinates of a tile position (R343). -/
def dieX (core ppos : Nat) : Nat := 17 * (core % 4) + ppos
def dieY (core row : Nat) : Nat := if core < 4 then row else 23 - row

def absDiff (a b : Nat) : Nat := (a - b) + (b - a)

/-- The distance of R354. -/
def dieDist (c1 r1 p1 c2 r2 p2 : Nat) : Nat :=
  absDiff (dieX c1 p1) (dieX c2 p2) + absDiff (dieY c1 r1) (dieY c2 r2) +
  3 * (absDiff (c1 % 4) (c2 % 4) + absDiff (c1 / 4) (c2 / 4))

/-- Byte of DIST_MEM for memory port n: FF while the port is fenced (R85, R353). -/
def Dev.distMem (d : Dev) (t n : Nat) : Nat :=
  if d.isFenced (.mem n) then 255 else dieDist (tileCore t) (tileRow t) (tilePos t) n 0 8

/-- Byte of DIST_EDGE for edge router e: FF while all three of its ports are fenced. -/
def Dev.distEdge (d : Dev) (t e : Nat) : Nat :=
  if (List.range 3).all fun i => d.isFenced (.port (3 * e + i)) then 255 else
  dieDist (tileCore t) (tileRow t) (tilePos t) (edgeCore e) 5 (if e < 2 then 0 else 16)

/-- Latency and interval of each class on A1 and B0 (R69). -/
def latTable : List (Nat × Nat × Nat × Nat) :=
  [(1, 1, 1, 1), (3, 1, 3, 1), (2, 1, 1, 1), (6, 1, 5, 1), (72, 1, 64, 1), (1, 1, 1, 1), (2, 1, 2, 1), (5, 1, 4, 1),
   (6, 1, 5, 1), (9, 2, 8, 1), (8, 1, 6, 1), (40, 1, 32, 1), (36, 32, 34, 32), (2, 1, 2, 1), (30, 1, 26, 1), (4, 4, 4, 4)]

def Dev.latClass (d : Dev) (c : Nat) : Word :=
  let r := latTable.getD c (0, 0, 0, 0)
  if d.fuses.b0 then packFields 32 [(0, r.2.2.1), (8, r.2.2.2)] else packFields 32 [(0, r.1), (8, r.2.1)]

/-- The tile holds no work in flight (BLK_STAT.quiet). -/
def Tile.idle (x : Tile) : Bool :=
  !x.fg.run && !x.bg.run && x.fg.pend = [] && x.bg.pend = [] && x.wcb = [] && x.puts = []

/-- The tile's own registers (R81) but the counters. -/
def Dev.readTilePlain (d : Dev) (t off : Nat) : Word :=
  let x := d.tile t
  let p := Page.tile t
  let stored := d.preg p off
  if off < 0x80 then d.readHeader p off x.idle
  else if off = 0x80 then
    packFields 32 [(0, d.logPos (tileCore t) (tileRow t) (tilePos t)), (4, tileRow t), (8, tilePos t), (16, tileCore t)]
  else if off = 0x88 then stored ||| packFields 32 [(0, b2n x.fg.run), (1, b2n x.bg.run)]
  else if off = 0x8C then
    packFields 32 [(0, b2n (x.sel = some true)), (1, b2n (x.switching ≠ 0)), (2, b2n (x.fg.run && !d.canIssue t false)),
      (3, b2n (x.bg.run && !d.canIssue t true))]
  else if off = 0x90 then BitVec.ofNat 32 (x.fg.pc % 1024)
  else if off = 0x94 then BitVec.ofNat 32 (x.bg.pc % 1024)
  else if off = 0xA4 then
    packFields 32 ((List.range 4).flatMap fun g =>
      let gr := x.groups.getD g Group.reset
      [(g, b2n gr.isOpen), (4 + g, b2n (gr.isOpen && gr.bg))])
  else if off = 0xA8 then x.fg.fpstat.setWidth 32
  else if off = 0xAC then x.bg.fpstat.setWidth 32
  else if off = 0xB0 then x.fg.trap
  else if off = 0xB4 then x.bg.trap
  else if off = 0xB8 then x.fg.trapInfo
  else if off = 0xBC then x.bg.trapInfo
  else if off = 0x180 then packFields 32 ((List.range 4).map fun n => (8 * n, d.distMem t n))
  else if off = 0x184 then packFields 32 ((List.range 4).map fun n => (8 * n, d.distMem t (n + 4)))
  else if off = 0x188 then packFields 32 ((List.range 4).map fun e => (8 * e, d.distEdge t e))
  else if 0x200 ≤ off ∧ off < 0x240 then d.latClass ((off - 0x200) / 4)
  else if (p.row? off).isSome then stored
  else 0

/-- A read of the tile page through a path (R81, R84, R693). -/
def Dev.readTile (d : Dev) (path : Path) (t off : Nat) : Dev × Word :=
  if 0x100 ≤ off ∧ off < 0x158 then
    d.read64 path (Page.base (.tile t) + off / 8 * 8) (d.ctr (.tile t) (off / 8 * 8)) (off % 8 = 4)
  else (d, d.readTilePlain t off)

end Sys2Proof.Machine
end

