-- ==== Sys2Proof/Machine/LoadStore.lean ====
section
/-! DEFINITION. X slot: loads and stores of scratchpad, core pool and tile page (R98 to R104, R217, R222 to R236). -/

namespace Sys2Proof.Machine

/-! ### Core pool: merge windows and held writes (R233 to R235) -/

def Dev.poolMem (d : Dev) (c : Nat) : Mem := d.pool.getD c Mem.empty
def Dev.modPool (d : Dev) (c : Nat) (f : Mem → Mem) : Dev := { d with pool := d.pool.set c (f (d.poolMem c)) }
def poolKey (c line : Nat) : Nat := 262144 * c + line
def Dev.lineOps (d : Dev) (c line : Nat) : List PoolOp := d.poolOps.getD (poolKey c line) []
def Dev.setLineOps (d : Dev) (c line : Nat) (l : List PoolOp) : Dev :=
  { d with poolOps := if l = [] then d.poolOps.erase (poolKey c line) else d.poolOps.set (poolKey c line) l }

/-- A read joins the line's last window, unless a write is held behind it; else it opens a new one. -/
def joinWindow (l : List PoolOp) (r : Nat × Bool × Reg) : List PoolOp :=
  match l.getLast? with
  | some (.window rs) => l.dropLast ++ [.window (rs ++ [r])]
  | _ => l ++ [.window [r]]

/-- The writes of a list of line operations, in order. -/
def heldOf (l : List PoolOp) : List PoolWrite := l.filterMap fun o => match o with
  | .write w => some w
  | .window _ => none

/-- An earlier store of the same context is held (R235). -/
def Dev.storedBefore (d : Dev) (w : PoolWrite) : Bool :=
  w.tile < 1632 && d.poolOps.cells.any fun x => (heldOf x.2).any fun h => h.tile == w.tile && h.bg == w.bg && h.seq < w.seq

/-- A write is held behind an open window of its line (R234), and a store of a context behind its earlier stores (R235); else the bank
performs it. -/
def Dev.poolWrite (d : Dev) (c : Nat) (w : PoolWrite) : Dev :=
  let l := d.lineOps c (w.addr / 64)
  if l = [] && !d.storedBefore w then d.modPool c fun m => m.writeBytes w.addr w.bytes
  else d.setLineOps c (w.addr / 64) (l ++ [.write w])

/-- The core's pool as a read that arrives now finds it: after the writes that are held (R234, R446). -/
def Dev.poolNow (d : Dev) (c : Nat) : Mem :=
  d.poolOps.cells.foldl (fun m x =>
    if x.1 / 262144 = c then (heldOf x.2).foldl (fun m w => m.writeBytes w.addr w.bytes) m else m) (d.poolMem c)

/-- The number of the next injection or held write has been used. -/
def Dev.numbered (d : Dev) : Dev := { d with netSeq := d.netSeq + 1 }

/-- The lines that n bytes at a touch. -/
def linesOf (a n : Nat) : List Nat := (List.range ((a + n - 1) / 64 - a / 64 + 1)).map (a / 64 + ·)

/-- A pool load: it joins a window on each line it touches, and its destination is pending until they close. -/
def Dev.poolLoad (d : Dev) (t : Nat) (bg : Bool) (dest : Reg) (a n : Nat) (shape : LoadShape) (pred : BitVec 64) : Dev :=
  let c := tileCore t
  let lines := linesOf a n
  let d := lines.foldl (fun d l => d.setLineOps c l (joinWindow (d.lineOps c l) (t, bg, dest))) d
  (d.injectPkt c 0).modCtx t bg fun x =>
    { x with loads := x.loads ++ [{ dest := dest, addr := a, shape := shape, pred := pred, lines := lines, data := ⟨[]⟩ }]
             pend := if countsAsWrite dest then x.pend ++ [dest] else x.pend }

/-! ### Element values -/

/-- The word a loaded element delivers (R100). -/
def extend (shape : LoadShape) (bs : List Byte) : Word :=
  let n := ofBytesLE bs
  match shape.size, shape.signed with
  | 1, true => (BitVec.ofNat 8 n).signExtend 32
  | 2, true => (BitVec.ofNat 16 n).signExtend 32
  | _, _ => BitVec.ofNat 32 n

/-- Bits below the element width are ignored (R102). -/
def alignDown (n a : Nat) : Nat := a / n * n

/-- What a finished pool load writes. -/
def PoolLoad.finish (l : PoolLoad) (c : Ctx) : Ctx :=
  let el (i : Nat) : Word := extend l.shape ((List.range l.shape.size).map fun j => l.data.getD (l.addr + l.shape.size * i + j) 0)
  match l.dest with
  | .s n => c.ws n (el 0)
  | .v n => c.wv n (selectLanes l.pred (mkLanes el) (c.rv n))
  | _ => c

/-! ### Tile page writes from the local page (R75) -/

/-- CNT_CTRL (R84): clear zeroes all eleven counters, run is stored. -/
def Dev.writeCntCtrl (d : Dev) (t : Nat) (w : Word) : Dev :=
  let d := if bit w 1 then d.zeroTileCounts t else d
  d.setPreg (.tile t) 0xFC (w &&& 1#32)

/-- A write of 1 clears an FPSTAT bit (R70). -/
def Dev.clearFp (d : Dev) (t : Nat) (bg : Bool) (w : Word) : Dev := d.modCtx t bg fun c => c.clearFp w

def Dev.localWrite (d : Dev) (t : Nat) (bg : Bool) (off : Nat) (w : Word) : Dev :=
  if off = (if bg then 0xAC else 0xA8) then d.clearFp t bg w
  else if off = 0xFC then d.writeCntCtrl t w
  else d

/-! ### Slots -/

/-- Offsets of the formats XS and XV (R99). -/
def offXS (imm : BitVec 15) : Word := imm.signExtend 32
def offXV (imm : BitVec 12) : Word := imm.signExtend 32 <<< 2

def addrTrap (bad : Option Nat) : List (Nat × Word) :=
  match bad with
  | some a => [(trapAddr, BitVec.ofNat 32 a)]
  | none => []

/-- The update of aB (R99). -/
def View.postInc (v : View) (aB : BitVec 4) (u : Bool) (new : Word) : Dev → Dev := if u then v.wa aB new else id

/-- A scalar load. -/
def scalarLoad (v : View) (sD : BitVec 6) (aB : BitVec 4) (u : Bool) (imm : BitVec 15) (shape : LoadShape) : SlotSem :=
  let (w, new) := indexed (v.a aB) (offXS imm) u
  let a := alignDown shape.size w.toNat
  let bad := v.d.firstBad v.core { store := false, pool := true, page := shape.size = 4 } a shape.size
  { slot := 3, srcs := [ra aB], dests := rs sD :: (if u then [ra aB] else []), traps := addrTrap bad
    access := if regionOf a = some .spad then [(false, a, shape.size)] else []
    eff := fun d =>
      let d := match regionOf a with
        | some .spad =>
          v.ws sD (extend shape (v.tile.readBytes a shape.size)) (d.modTile v.t fun x => x.flushSpan a shape.size)
        | some .pool => d.poolLoad v.t v.bg (rs sD) (a - poolWindow) shape.size shape (BitVec.allOnes 64)
        | some .page => v.ws sD (v.d.readTile .tileLocal v.t (a - localPage)).2 (d.readTile .tileLocal v.t (a - localPage)).1
        | none => d
      v.postInc aB u new d }

/-- A vector load of 64 elements (R100, R104). All 64 are read, so a data breakpoint meets those of inactive lanes too, while a store
accesses those of active lanes alone (DESIGN CHOICE, log entry 8). -/
def vectorLoad (v : View) (vD : BitVec 5) (aB : BitVec 4) (u : Bool) (p : BitVec 3) (imm : BitVec 12) (rsv : BitVec 1)
    (shape : LoadShape) : SlotSem :=
  let (w, new) := indexed (v.a aB) (offXV imm) u
  let a := alignDown 4 w.toNat
  let n := 64 * shape.size
  let bad := v.d.firstBad v.core { store := false, pool := true, page := false } a n
  { slot := 3, srcs := [ra aB, rp p] ++ (if p = 0 then [] else [rv vD]), dests := rv vD :: (if u then [ra aB] else [])
    illegal := illegalIf false (rsv ≠ 0), traps := addrTrap bad
    access := if regionOf a = some .spad then [(false, a, n)] else []
    eff := fun d =>
      let d := match regionOf a with
        | some .spad =>
          let new := mkLanes fun i => extend shape (v.tile.readBytes (a + shape.size * i) shape.size)
          v.wv vD (selectLanes (v.p p) new (v.v vD)) (d.modTile v.t fun x => x.flushSpan a n)
        | some .pool => d.poolLoad v.t v.bg (rv vD) (a - poolWindow) n shape (v.p p)
        | _ => d
      v.postInc aB u new d }

/-- What a scratchpad store of these lines waits for (R220, R222). -/
def storeNeeds (a : Nat) (lines : List Nat) : List Need := if regionOf a = some .spad then [.port lines false] else []

/-- Performs a store of elements (address, bytes) in scratchpad or pool. -/
def View.storeElems (v : View) (els : List (Nat × List Byte)) (d : Dev) : Dev :=
  let d := els.foldl (fun d e =>
    match regionOf e.1 with
    | some .spad => d.modTile v.t fun x => x.store e.1 e.2
    | some .pool => d.poolWrite v.core { seq := v.d.netSeq, tile := v.t, bg := v.bg, addr := e.1 - poolWindow, bytes := e.2, back := .none }
    | _ => d) d
  if els.any fun e => regionOf e.1 == some .pool then d.numbered.injectPkt v.core 0 else d

/-- A vector store (R100, R103, R104): inactive lanes write nothing. -/
def vectorStore (v : View) (vA : BitVec 5) (aB : BitVec 4) (u : Bool) (p : BitVec 3) (imm : BitVec 12) (rsv : BitVec 1)
    (size : Nat) : SlotSem :=
  let (w, new) := indexed (v.a aB) (offXV imm) u
  let a := alignDown 4 w.toNat
  let n := 64 * size
  let bad := v.d.firstBad v.core { store := true, pool := true, page := false } a n
  let els := ((List.range 64).filter fun i => (v.p p).getLsbD i).map fun i =>
    (a + size * i, bytesLE size (lane (v.v vA) i).toNat)
  { slot := 3, srcs := [ra aB, rp p, rv vA], dests := if u then [ra aB] else []
    illegal := illegalIf false (rsv ≠ 0), traps := addrTrap bad, needs := storeNeeds a (linesOf a n)
    access := if regionOf a = some .spad then els.map fun e => (true, e.1, size) else []
    eff := fun d => v.postInc aB u new (v.storeElems els (d.modTile v.t fun x =>
      if regionOf a = some .spad then x.flushSpan a n else x)) }

def semLdw (v : View) (sD : BitVec 6) (aB : BitVec 4) (u : Bool) (imm : BitVec 15) : SlotSem :=
  scalarLoad v sD aB u imm { size := 4, signed := false }
def semLdh (v : View) (sD : BitVec 6) (aB : BitVec 4) (u : Bool) (imm : BitVec 15) : SlotSem :=
  scalarLoad v sD aB u imm { size := 2, signed := true }
def semLdhu (v : View) (sD : BitVec 6) (aB : BitVec 4) (u : Bool) (imm : BitVec 15) : SlotSem :=
  scalarLoad v sD aB u imm { size := 2, signed := false }
def semLdb (v : View) (sD : BitVec 6) (aB : BitVec 4) (u : Bool) (imm : BitVec 15) : SlotSem :=
  scalarLoad v sD aB u imm { size := 1, signed := true }
def semLdbu (v : View) (sD : BitVec 6) (aB : BitVec 4) (u : Bool) (imm : BitVec 15) : SlotSem :=
  scalarLoad v sD aB u imm { size := 1, signed := false }

def semStw (v : View) (sA : BitVec 6) (aB : BitVec 4) (u : Bool) (imm : BitVec 15) : SlotSem :=
  let (w, new) := indexed (v.a aB) (offXS imm) u
  let a := alignDown 4 w.toNat
  let bad := v.d.firstBad v.core { store := true, pool := true, page := true } a 4
  { slot := 3, srcs := [ra aB, rs sA], dests := if u then [ra aB] else [], traps := addrTrap bad
    needs := storeNeeds a [a / 64]
    access := if regionOf a = some .spad then [(true, a, 4)] else []
    clears := regionOf a = some .page && a - localPage = 0xFC && bit (v.s sA) 1
    eff := fun d => v.postInc aB u new <|
      if regionOf a = some .page then d.localWrite v.t v.bg (a - localPage) (v.s sA)
      else v.storeElems [(a, bytesLE 4 (v.s sA).toNat)] d }

/-- STH and STB pass through the write-combining buffer (R222). -/
def narrowStore (v : View) (sA : BitVec 6) (aB : BitVec 4) (u : Bool) (imm : BitVec 15) (size : Nat) : SlotSem :=
  let (w, new) := indexed (v.a aB) (offXS imm) u
  let a := alignDown size w.toNat
  let bad := v.d.firstBad v.core { store := true, pool := false, page := false } a size
  { slot := 3, srcs := [ra aB, rs sA], dests := if u then [ra aB] else [], traps := addrTrap bad
    needs := [.port [a / 64] true], access := [(true, a, size)]
    eff := fun d => v.postInc aB u new (d.modTile v.t fun x => x.narrowStore v.bg a (bytesLE size (v.s sA).toNat)) }

def semSth (v : View) (sA : BitVec 6) (aB : BitVec 4) (u : Bool) (imm : BitVec 15) : SlotSem := narrowStore v sA aB u imm 2
def semStb (v : View) (sA : BitVec 6) (aB : BitVec 4) (u : Bool) (imm : BitVec 15) : SlotSem := narrowStore v sA aB u imm 1

def semLdvW (v : View) (vD : BitVec 5) (aB : BitVec 4) (u : Bool) (p : BitVec 3) (imm : BitVec 12) (rsv : BitVec 1) : SlotSem :=
  vectorLoad v vD aB u p imm rsv { size := 4, signed := false }
def semLdvHu (v : View) (vD : BitVec 5) (aB : BitVec 4) (u : Bool) (p : BitVec 3) (imm : BitVec 12) (rsv : BitVec 1) : SlotSem :=
  vectorLoad v vD aB u p imm rsv { size := 2, signed := false }
def semLdvB (v : View) (vD : BitVec 5) (aB : BitVec 4) (u : Bool) (p : BitVec 3) (imm : BitVec 12) (rsv : BitVec 1) : SlotSem :=
  vectorLoad v vD aB u p imm rsv { size := 1, signed := true }
def semStvW (v : View) (vA : BitVec 5) (aB : BitVec 4) (u : Bool) (p : BitVec 3) (imm : BitVec 12) (rsv : BitVec 1) : SlotSem :=
  vectorStore v vA aB u p imm rsv 4
def semStvH (v : View) (vA : BitVec 5) (aB : BitVec 4) (u : Bool) (p : BitVec 3) (imm : BitVec 12) (rsv : BitVec 1) : SlotSem :=
  vectorStore v vA aB u p imm rsv 2
def semStvB (v : View) (vA : BitVec 5) (aB : BitVec 4) (u : Bool) (p : BitVec 3) (imm : BitVec 12) (rsv : BitVec 1) : SlotSem :=
  vectorStore v vA aB u p imm rsv 1

/-- The lowest byte of a 2D access outside `limit` (R98, R101). -/
def planeBad (limit : Nat) (addrs : List Nat) : Option Nat := (addrs.filter fun a => limit ≤ a).min?

/-- LDV2 (R104); its inactive lanes count as read, as in the other vector loads (DESIGN CHOICE, log entry 8). -/
def semLdv2 (v : View) (vD : BitVec 5) (aB : BitVec 4) (sP : BitVec 6) (dir : Bool) (p : BitVec 3) (rsv : BitVec 7) : SlotSem :=
  let addrs := (List.range 64).map (planeAddr (v.a aB) (v.s sP) dir)
  { slot := 3, srcs := [ra aB, rs sP, rp p] ++ (if p = 0 then [] else [rv vD]), dests := [rv vD]
    illegal := illegalIf false (rsv ≠ 0), traps := addrTrap (planeBad spadSize addrs)
    access := addrs.map fun a => (false, a, 4)
    eff := fun d =>
      let new := addrs.map fun a => BitVec.ofNat 32 (ofBytesLE (v.tile.readBytes a 4))
      v.wv vD (selectLanes (v.p p) new (v.v vD))
        (d.modTile v.t fun x => addrs.foldl (fun x a => x.flushSpan a 4) x) }

def semStv2 (v : View) (vA : BitVec 5) (aB : BitVec 4) (sP : BitVec 6) (dir : Bool) (p : BitVec 3) (rsv : BitVec 7) : SlotSem :=
  let addrs := (List.range 64).map (planeAddr (v.a aB) (v.s sP) dir)
  let els := ((List.range 64).filter fun i => (v.p p).getLsbD i).map fun i =>
    (planeAddr (v.a aB) (v.s sP) dir i, bytesLE 4 (lane (v.v vA) i).toNat)
  { slot := 3, srcs := [ra aB, rs sP, rp p, rv vA]
    illegal := illegalIf false (rsv ≠ 0), traps := addrTrap (planeBad spadGeneral addrs)
    needs := [.port (addrs.map fun a => a / 64) false], access := els.map fun e => (true, e.1, 4)
    eff := fun d => v.storeElems els (d.modTile v.t fun x => addrs.foldl (fun x a => x.flushSpan a 4) x) }

end Sys2Proof.Machine
end

