-- ==== Sys2Proof/Machine/Queue.lean ====
section
/-! DEFINITION. Hardware queues (10): ring table and placement, ingress, spill, core queues, channel counters, and the
X-slot queue instructions SEND, QRD and QCNT (R105 to R110, R281 to R308). -/

namespace Sys2Proof.Machine

/-! ### Identities -/

/-- The logical core that physical core c is, by its own map; 0 where no logical core is bound to it. -/
def Dev.logOf (d : Dev) (c : Nat) : Nat := (d.lcoreOf c).getD 0

/-- Sender identity of a tile context (R283): bits [31:16] of header word 0. -/
def Dev.tileSender (d : Dev) (t : Nat) (bg : Bool) : Nat :=
  d.logCore t + 8 * tileRow t + 128 * d.logPos (tileCore t) (tileRow t) (tilePos t) + 2048 * b2n bg
/-- Sender identity of core c's sync unit. -/
def Dev.unitSender (d : Dev) (c : Nat) : Nat := d.logOf c + 4096
/-- Sender identity of the host through the queue page of core c. R283 gives its s_core as the sender's logical core, and the host has
none: it is the logical core of that page (DESIGN CHOICE, log entry 55). -/
def Dev.hostSender (d : Dev) (c : Nat) : Nat := d.logOf c + 8192

/-- The R107 form of a destination. -/
def Dev.destCode (d : Dev) : QDest → Nat
  | .tile t q => 2 * q + 32 * d.logPos (tileCore t) (tileRow t) (tilePos t) + 512 * tileRow t + 8192 * d.logOf (tileCore t)
  | .core c q => 1 + 2 * q + 8192 * d.logOf c

/-- The physical core of a destination. -/
def QDest.core' : QDest → Nat
  | .tile t _ => tileCore t
  | .core c _ => c

/-- A queue number is reply class (R106). -/
def QDest.isReply : QDest → Bool
  | .tile _ q => 8 ≤ q
  | .core _ q => 512 ≤ q

/-- The destination that a register in the R107 form names at an endpoint of core `c`; none for a row of 12 to 15 or an
unbound logical core. -/
def Dev.destOf (d : Dev) (c : Nat) (w : Word) : Option QDest :=
  let l := fld w 13 3
  if !d.lcoreBound c l then none
  else if bit w 0 then some (.core (d.physCore c l) (fld w 1 10))
  else if 12 ≤ fld w 9 4 then none
  else some (.tile (d.tileOf c l (fld w 9 4) (fld w 5 4)) (fld w 1 4))

/-- The class of the queue that a register names, and its number (R106). -/
def destClass (w : Word) : Bool := if bit w 0 then bit w 10 else bit w 4
def destNumber (w : Word) : Nat := if bit w 0 then fld w 1 10 else fld w 1 4

/-! ### Message form (R283, R284) -/

def Msg.word0 (m : Msg) : Word :=
  packFields 32 [(0, m.payload.length), (8, m.kind), (11, b2n m.cls), (12, m.dq), (16, m.sender)]
def Msg.word1 (m : Msg) : Word :=
  match m.cq with
  | some c => packFields 32 [(0, c), (10, 1)]
  | none => 0
/-- Bytes of the record: 8 + 4 len, rounded up to 8; the padding is 0. -/
def Msg.recordSize (m : Msg) : Nat := (8 + 4 * m.payload.length + 7) / 8 * 8
def Msg.record (m : Msg) : List Byte :=
  let bs := (m.word0 :: m.word1 :: m.payload).flatMap fun w => bytesLE 4 w.toNat
  bs ++ List.replicate (m.recordSize - bs.length) 0

/-! ### Placement and removal (R286 to R288) -/

/-- Bytes occupied by messages and pad records (U of R286). -/
def Tile.qUsed (t : Tile) (q : Nat) : Nat :=
  if t.qCount q = 0 then 0 else
  let h := t.qHead q
  let e := t.qTail q
  if h < e then e - h else t.qSize q - h + e

/-- Writes a record into ring q under R286; none where the rule answers hold. -/
def Tile.place (t : Tile) (q : Nat) (m : Msg) : Option Tile :=
  let size := t.qSize q
  let s := m.recordSize
  let u := t.qUsed q
  let (h, tl) := if u = 0 then (0, 0) else (t.qHead q, t.qTail q)
  let e := size - tl
  let base := t.qBase q
  let put (t : Tile) (at_ : Nat) : Tile := { t with spad := t.spad.writeBytes (base + at_) m.record }
  let finish (t : Tile) (tail : Nat) : Tile :=
    (t.setPtr q h tail).setQStat q (t.qCount q + 1) (t.qSpilling q) (fld (t.qStat q) 13 19)
  if s ≤ e then
    if size < u + s then none else some (finish (put t tl) ((tl + s) % size))
  else
    if size < u + e + s then none else
    let t := { t with spad := t.spad.writeBytes (base + tl) (bytesLE 8 0x700) }
    some (finish (put t 0) s)

/-- A pop advances the head past the record, and past a pad record that follows (R288). -/
def Tile.pop (t : Tile) (q : Nat) : Tile :=
  let a := t.qBase q + t.qHead q
  let len := fld (t.spad.word a) 0 6
  let h := (t.qHead q + (8 + 4 * len + 7) / 8 * 8) % t.qSize q
  let n := t.qCount q - 1
  let h := if n ≠ 0 && fld (t.spad.word (t.qBase q + h)) 8 3 = 7 then 0 else h
  (t.setPtr q h (t.qTail q)).setQStat q n (t.qSpilling q) (fld (t.qStat q) 13 19)

/-! ### Spill cells (R294 to R297) -/

def Dev.spillOf (d : Dev) (t q : Nat) : List Msg := d.spilled.getD (16 * t + q) []
def Dev.coreQOf (d : Dev) (c q : Nat) : List Msg := d.coreQ.getD (1024 * c + q) []

/-- Stores a list in a table of lists, dropping the key of an empty one. -/
def setList {α : Type} (t : Tbl (List α)) (k : Nat) (l : List α) : Tbl (List α) :=
  match l with
  | [] => t.erase k
  | _ => t.set k l

/-- Spill cells in use in a core, all and of one class. -/
def Dev.cellsUsed (d : Dev) (c : Nat) : Nat :=
  (d.spilled.cells.foldl (fun n x => if tileCore (x.1 / 16) = c then n + x.2.length else n) 0) +
  (d.coreQ.cells.foldl (fun n x => if x.1 / 1024 = c then n + x.2.length else n) 0)
def Dev.reqCellsUsed (d : Dev) (c : Nat) : Nat :=
  let reqs (l : List Msg) := (l.filter fun m => !m.cls).length
  (d.spilled.cells.foldl (fun n x => if tileCore (x.1 / 16) = c then n + reqs x.2 else n) 0) +
  (d.coreQ.cells.foldl (fun n x => if x.1 / 1024 = c then n + reqs x.2 else n) 0)

/-- Cells of the spill area (R296). -/
def Dev.cellsTotal (d : Dev) (c : Nat) : Nat := min 65536 (fld (d.preg (.pool c) 0x8C) 0 25 / 256)

/-- A cell is free for a class: requests take at most seven eighths (R296). -/
def Dev.cellLeft (d : Dev) (c : Nat) (reply : Bool) : Bool :=
  d.cellsUsed c < d.cellsTotal c && (reply || d.reqCellsUsed c < d.cellsTotal c * 7 / 8)

/-- A cell can be taken: one is free, and the queue page's en is 1 (R306). -/
def Dev.cellFree (d : Dev) (c : Nat) (reply : Bool) : Bool := d.pageOn (.queue c) && d.cellLeft c reply

/-! ### Channel counters (R304, R305) -/

def ChanLine.full (l : ChanLine) : Bool := 2 ^ 31 ≤ l.msgs || 2 ^ 31 ≤ l.stall || 2 ^ 31 ≤ l.spills

/-- Counts in a unit of `cap` lines, least recently used first; answers the lines and what was flushed. -/
def chanCount (cap : Nat) (ls : List ChanLine) (sender dest msgs stall spills : Nat) : List ChanLine × List ChanLine :=
  let fresh : ChanLine := { sender := sender, dest := dest, msgs := 0, stall := 0, spills := 0 }
  let (old, rest, out) :=
    match takeFirst (fun (l : ChanLine) => l.sender == sender && l.dest == dest) ls with
    | some (l, r) => (l, r, [])
    | none => match ls with
      | l :: r => if ls.length < cap then (fresh, ls, []) else (fresh, r, [l])
      | [] => (fresh, [], [])
  let l := { old with msgs := old.msgs + msgs, stall := old.stall + stall, spills := old.spills + spills }
  if l.full then (rest, out ++ [l]) else (rest ++ [l], out)

/-- Counts a message or a spill at the queue unit of core c. -/
def Dev.countMsg (d : Dev) (c sender dest msgs spills : Nat) : Dev :=
  let (ls, out) := chanCount 64 (d.chanUnit.getD c []) sender dest msgs 0 spills
  ({ d with chanUnit := d.chanUnit.set c ls, chanFly := d.chanFly ++ out }).injectPkts c 3 out.length

/-- Counts a stall cycle of a SEND at its tile. -/
def Dev.countSendStall (d : Dev) (t : Nat) (sender dest : Nat) : Dev :=
  let (ls, out) := chanCount 4 (d.tile t).chan sender dest 0 1 0
  ({ (d.modTile t fun x => { x with chan := ls }) with chanFly := d.chanFly ++ out }).injectPkts (tileCore t) 3 out.length

/-! ### Arrival (R286, R293 to R298) -/

/-- A release of the commit barrier has been placed at tile t (R529). -/
def Dev.cbarPlaced (d : Dev) (t b : Nat) : Dev :=
  if b = fld (d.preg .rsl 0x80) 0 8 then
    let r := { d.rsl with placed := if d.rsl.placed.contains t then d.rsl.placed else d.rsl.placed ++ [t]
                          placedIn := d.fc.sstep }
    { d with rsl := r }
  else d

/-- What placing or spilling (`placed`), or discarding a message ends (R319, R328): a release that is discarded has not been placed (R529). -/
def Dev.settle (d : Dev) (m : Msg) (placed : Bool) : Dev :=
  let d := match m.watch with
    | some (t, bg) => d.modCtx t bg fun c => { c with watches := c.watches - 1 }
    | none => d
  match m.release with
  | some (t, b, gen) => (if placed then d.cbarPlaced t b else d).modTile t fun x => { x with bars := x.bars.modify b TileBar.reset fun s =>
      { s with pend := match takeFirst (fun p => p.1 == gen) s.pend with | some (_, r) => r | none => s.pend } }
  | none => d

/-- A message is discarded (R298): counted at its destination core, MSG_DROPPED raised. -/
def Dev.dropMsg (d : Dev) (c : Nat) (dest : Nat) (m : Msg) : Dev :=
  let d := ((d.settle m false).countMsg c m.sender dest 1 0).bump (.queue c) 0xB8 1
  d.raise (.queue c) 0

/-- The queue's tile or core is fenced. -/
def Dev.destFenced (d : Dev) : QDest → Bool
  | .tile t _ => d.isFenced (.tile t) || d.isFenced (.core (tileCore t))
  | .core c _ => d.isFenced (.core c)

/-- Writes a message into a spill cell of tile queue q, which is or enters spill mode. -/
def Dev.spill (d : Dev) (t q : Nat) (m : Msg) : Dev :=
  let c := tileCore t
  let l := d.spillOf t q ++ [m]
  let d := { d with spilled := setList d.spilled (16 * t + q) l }
  let d := d.modTile t fun x => x.setQStat q (x.qCount q) true l.length
  let d := (d.settle m true).bump (.queue c) 0xB0 1
  d.countMsg c m.sender (d.destCode (.tile t q)) 0 1

/-- Places a message in ring q of tile t, if R286 has room: counted, and its bookkeeping ends. -/
def Dev.enterRing (d : Dev) (t q : Nat) (m : Msg) : Option Dev :=
  match (d.tile t).place q m with
  | none => none
  | some x =>
    let d := (d.setTile t x).settle m true
    some ((d.bump (.queue (tileCore t)) 0xA8 1).countMsg (tileCore t) m.sender (d.destCode (.tile t q)) 1 0)

/-- Offers a message at the ingress to its tile queue: the package after it, or none while it has to wait. -/
def Dev.offer (d : Dev) (t q : Nat) (m : Msg) : Option Dev :=
  let dest := d.destCode (.tile t q)
  if (d.tile t).qAbsent q || d.destFenced (.tile t q) then some (d.dropMsg (tileCore t) dest m)
  else if (d.tile t).qSpilling q then
    if d.cellFree (tileCore t) m.cls then some (d.spill t q m) else none
  else d.enterRing t q m

def ingressKey (t : Nat) (cls : Bool) : Nat := 2 * t + b2n cls

/-- The message that waits at an ingress is evaluated again (R286, R289). -/
def Dev.retryIngress (d : Dev) (t : Nat) (cls : Bool) : Dev :=
  match d.ingress.get? (ingressKey t cls) with
  | none => d
  | some f =>
    match f.dest with
    | .core _ _ => d
    | .tile t' q =>
      match ({ d with ingress := d.ingress.erase (ingressKey t cls) }).offer t' q f.msg with
      | some d' => d'
      | none => d

/-- Both ingresses of a tile are evaluated again, after its ring table, its queues or its fence have changed (R286, R298). -/
def Dev.retryBoth (d : Dev) (t : Nat) : Dev := (d.retryIngress t false).retryIngress t true

/-- A message reaches the ingress of its class, which waits for nothing: it is placed, spilled or discarded, or waits. -/
def Dev.arriveTile (d : Dev) (f : MsgFly) (t q : Nat) : Dev :=
  match d.offer t q f.msg with
  | some d => d
  | none => { d with ingress := d.ingress.set (ingressKey t f.msg.cls) f }

/-! ### Messages in the network (R290, R345) -/

/-- Flits of a message's packet (R348), watch and release messages have one; any other message has a 16-byte route header before its 8-byte
header and payload. A packet travels on the VC of its class (R293). -/
def Msg.flits (m : Msg) : Nat := if m.kind = 1 || m.kind = 2 then 1 else (16 + 8 + 4 * m.payload.length + 63) / 64
def Msg.vc (m : Msg) : Nat := b2n m.cls

/-- A message enters the network at an endpoint of core c, numbered in the order of injection. -/
def Dev.injectMsg (d : Dev) (c : Nat) (f : MsgFly) : Dev :=
  ({ d with msgs := d.msgs ++ [{ f with seq := d.netSeq }] }).numbered.injectFlits c f.msg.vc f.msg.flits

/-- Sends a message into the network. -/
def Dev.sendMsg (d : Dev) (c : Nat) (m : Msg) (dest : QDest) : Dev := d.injectMsg c { msg := m, dest := dest, fwd := none, seq := 0 }

/-- The endpoint of the network that injected a message: the queue unit of a core that forwarded it, else the tile, whatever its
context, or the unit that its sender identity names. -/
def MsgFly.source (f : MsgFly) : Bool × Nat :=
  match f.fwd with
  | some k => (true, k / 1024)
  | none => (false, if f.msg.sender / 4096 = 0 then f.msg.sender % 2048 else f.msg.sender)

/-- The endpoint of a destination: a tile, or the queue unit of a core. -/
def QDest.endpoint : QDest → Bool × Nat
  | .tile t _ => (false, t)
  | .core c _ => (true, c)

/-- A message of the host (R283). -/
def MsgFly.ofHost (f : MsgFly) : Bool := f.fwd.isNone && f.msg.sender / 4096 = 2

/-- Message g keeps its place before message f: they share one path of the network (R345), or the host sent both to one queue (R290). -/
def MsgFly.before (g f : MsgFly) : Bool :=
  (g.source == f.source && g.dest.endpoint == f.dest.endpoint && g.msg.cls == f.msg.cls) ||
  (g.ofHost && f.ofHost && g.dest == f.dest)

/-- Endpoints of the die network that take writes (R344): a tile, a core's pool, a memory port. -/
inductive WriteEnd where
  | tile (t : Nat) | pool (c : Nat) | port (n : Nat)
deriving DecidableEq, Repr

def GSpot.endpoint : GSpot → WriteEnd
  | .hbm a => .port (a / 2 ^ 36)
  | .pool c _ => .pool c
  | .spad t _ => .tile t

/-- The endpoint of this package that an injected write goes to. -/
def PutItem.dest (p : PutItem) : Option WriteEnd := p.spot.map GSpot.endpoint

/-- A message and a write on one path, tile to tile on VC0: the earlier one arrives first (R345). -/
def Dev.samePath (d : Dev) (p : PutItem) (f : MsgFly) : Bool :=
  !f.msg.cls && f.fwd.isNone && (f.msg.sender == d.tileSender p.src false || f.msg.sender == d.tileSender p.src true) &&
  match f.dest with
  | .tile t _ => p.dest == some (.tile t)
  | .core _ _ => false

/-- Takes message i of the network, if nothing that shares its path is ahead of it. -/
def Dev.takeMsg (d : Dev) (i : Nat) : Option (MsgFly × List MsgFly) :=
  match takeAfter MsgFly.before d.msgs i with
  | none => none
  | some (f, rest) => if d.puts.any fun p => d.samePath p f && p.seq < f.seq then none else some (f, rest)

/-- The host injections that wait, in the order in which they were given. -/
def Dev.injections (d : Dev) : List (Nat × MsgFly) :=
  d.hostInj.cells.foldl (fun l x => l.takeWhile (fun y => y.2.seq < x.2.seq) ++ x :: l.dropWhile (fun y => y.2.seq < x.2.seq)) []

/-- The network takes the host injections that wait and whose page is on (R301, R306), as far as it has room; one waits behind an earlier
one to the same queue, which the host sent through another core's page (R290). -/
def Dev.takeInjections (d : Dev) : Dev :=
  if !d.coreUp then d else d.injections.foldl (fun d x =>
    if !d.pageOn (.queue x.1) || (d.netBusy && Config.netFull (1632 + x.1) d.draws) ||
        d.hostInj.cells.any (fun y => y.2.dest == x.2.dest && y.2.seq < x.2.seq) then { d with draws := d.draws + 1 }
    else ({ d with hostInj := d.hostInj.erase x.1 }).injectMsg x.1 x.2) d

/-- Message i in flight reaches the ingress of its tile. A message behind another that waits there stays in the
network (R293). -/
def Dev.queueArrival (d : Dev) (i : Nat) : Dev :=
  match d.takeMsg i with
  | none => d
  | some (f, rest) =>
    match f.dest with
    | .core _ _ => d
    | .tile t q =>
      if (d.ingress.get? (ingressKey t f.msg.cls)).isSome then d
      else (({ d with msgs := rest }).arriveTile f t q).takeInjections

/-- The message waiting at an ingress has waited QSPILL_WAIT cycles (R294); without a free cell it stays (R297). -/
def Dev.queueSpill (d : Dev) (t : Nat) (cls : Bool) : Dev :=
  match d.ingress.get? (ingressKey t cls) with
  | none => d
  | some f =>
    match f.dest with
    | .core _ _ => d
    | .tile t' q =>
      if d.cellFree (tileCore t') cls then
        ({ d with ingress := d.ingress.erase (ingressKey t cls) }).spill t' q f.msg
      else d

/-- The oldest spilled message of a queue returns to its ring (R295), and is counted there (R304); spill mode ends with the last,
and the message that waits at the ingress is evaluated again. -/
def Dev.spillReturn (d : Dev) (t q : Nat) : Dev :=
  match d.spillOf t q with
  | [] => d
  | m :: r =>
    match (d.tile t).place q m with
    | none => d
    | some x =>
      let x := x.setQStat q (x.qCount q) (r ≠ []) r.length
      let d := { (d.setTile t x) with spilled := setList d.spilled (16 * t + q) r }
      let d := (d.bump (.queue (tileCore t)) 0xA8 1).countMsg (tileCore t) m.sender (d.destCode (.tile t q)) 1 0
      d.retryIngress t m.cls

/-! ### Core queues (R299 to R301) -/

def Dev.cqCfg (d : Dev) (c q : Nat) : Word := d.rd (coreBase c + 0x8000 + 8 * q)

/-- A message reaches a core queue (R299): stored in a spill cell while one is free and the page is on, which counts as a message and as a
spill (R304), discarded at a fenced core. -/
def Dev.coreQueueStore (d : Dev) (i : Nat) : Dev :=
  match d.takeMsg i with
  | none => d
  | some (f, rest) =>
    match f.dest with
    | .tile _ _ => d
    | .core c q =>
      let d' := { d with msgs := rest }
      if d.isFenced (.core c) then d'.dropMsg c (d.destCode f.dest) f.msg
      else if !d.cellFree c f.msg.cls then d
      else
        let d' := { d' with coreQ := setList d'.coreQ (1024 * c + q) (d'.coreQOf c q ++ [f.msg]) }
        let d' := (((d'.settle f.msg true).bump (.queue c) 0xA8 1).bump (.queue c) 0xB0 1).countMsg c f.msg.sender (d.destCode f.dest) 1 1
        let d' := d'.takeInjections
        -- a queue bound to the host holds a message (R646)
        if fld (d.cqCfg c q) 0 2 = 2 then d'.hifEvent 2 else d'

/-- A message that core queue (c, q) forwarded has not been accepted, spilled or discarded yet. -/
def Dev.cqMoving (d : Dev) (c q : Nat) : Bool :=
  d.msgs.any (fun f => f.fwd = some (1024 * c + q)) || d.ingress.cells.any fun x => x.2.fwd = some (1024 * c + q)

/-- A core queue bound to a tile queue forwards its oldest message (R299), which keeps its place behind what the queue unit has sent to
the same ingress before (R345). The unit of a fenced core forwards nothing (R567). -/
def Dev.coreQueueForward (d : Dev) (c q : Nat) : Dev :=
  let cfg := d.cqCfg c q
  let row := fld cfg 10 4
  let tq := fld cfg 2 4
  match d.coreQOf c q with
  | [] => d
  | m :: r =>
    if fld cfg 0 2 ≠ 1 || 12 ≤ row || (8 ≤ tq) ≠ m.cls || !d.pageOn (.queue c) || d.isFenced (.core c) || d.cqMoving c q then d else
    let t := c * 204 + row * 17 + d.physPos c row (fld cfg 6 4)
    let f : MsgFly := { msg := { m with dq := tq, cq := some q }, dest := .tile t tq, fwd := some (1024 * c + q)
                        seq := 0 }
    let d := { d with coreQ := setList d.coreQ (1024 * c + q) r }
    if (d.ingress.get? (ingressKey t m.cls)).isSome || d.msgs.any (fun g => g.before f) then d.injectMsg c f
    else (d.injectFlits c f.msg.vc f.msg.flits).arriveTile f t tq

/-- CQ_POP (R300): the oldest message of a host-bound queue goes to CQ_DATA. -/
def Dev.cqPop (d : Dev) (c : Nat) (w : Word) : Dev :=
  let q := fld w 0 10
  let clear (d : Dev) := (List.range 64).foldl (fun d i => d.setPreg (.queue c) (0x100 + 4 * i) 0) d
  if !d.pageOn (.queue c) || d.isFenced (.core c) || !d.coreUp then d else
  match d.coreQOf c q, fld (d.cqCfg c q) 0 2 with
  | m :: r, 2 =>
    let d := clear { d with coreQ := setList d.coreQ (1024 * c + q) r }
    let m : Msg := { m with dq := (Config.poppedDq q).toNat }
    let ws := m.word0 :: m.word1 :: m.payload
    let d := (List.range ws.length).foldl (fun d i => d.setPreg (.queue c) (0x100 + 4 * i) (ws.getD i 0)) d
    d.setPreg (.queue c) 0x98 (packFields 32 [(0, 1), (1, q)])
  | _, _ => (clear d).setPreg (.queue c) 0x98 (packFields 32 [(1, q)])

/-- A write of QINJ_CMD has an effect (R301, R306, R567): the page is on, the core is not fenced, no injection waits for the network. -/
def Dev.qinjOk (d : Dev) (c : Nat) : Bool := d.pageOn (.queue c) && !d.isFenced (.core c) && !(d.hostInj.get? c).isSome

/-- QINJ_CMD (R301): without effect while an injection waits for the network. -/
def Dev.qinj (d : Dev) (c : Nat) (w : Word) : Dev :=
  if !d.qinjOk c then d else
  let len := min 62 (fld w 16 6)
  let m : Msg :=
    { kind := 4, cls := destClass w, dq := destNumber w % 16, sender := d.hostSender c, cq := none
      payload := (List.range len).map fun i => d.preg (.queue c) (0x200 + 4 * i), watch := none, release := none }
  match d.destOf c w with
  | some dest =>
    if !d.coreUp || d.netBusy || d.hostInj.cells.any (fun x => x.2.dest == dest) then
      ({ d with hostInj := d.hostInj.set c { msg := m, dest := dest, fwd := none, seq := d.netSeq } }).numbered.takeInjections
    else d.sendMsg c m dest
  | none => d.dropMsg c (fld w 0 16) m

/-- QINJ_CMD as the host writes it: a host action where it takes effect (R495). -/
def Dev.qinjCmd (d : Dev) (c : Nat) (w : Word) : Dev := if d.qinjOk c then d.hostAct.qinj c w else d

/-! ### Deadlock (R303) -/

/-- The sender of a waiting message is a context of tile t. -/
def Dev.sentBy (d : Dev) (m : Msg) (t : Nat) : Bool := m.sender = d.tileSender t false || m.sender = d.tileSender t true

/-- A queue of tile x is blocked by message f at its ingress, sent by a context of tile y: no cell of its class is free, and the message
has not come through a core queue (R303). -/
def Dev.blockedBy (d : Dev) (f : MsgFly) (x y : Nat) : Bool :=
  !d.cellLeft (tileCore x) f.msg.cls && f.fwd.isNone && f.msg.cq.isNone && d.sentBy f.msg y

/-- Two tiles mutually blocked for QDL_THRESH cycles: recorded in the page of the lower-numbered logical core. -/
def Dev.queueDeadlock (d : Dev) (x y : Nat) (cx cy : Bool) : Dev :=
  match d.ingress.get? (ingressKey x cx), d.ingress.get? (ingressKey y cy) with
  | some a, some b =>
    if !d.blockedBy a x y || !d.blockedBy b y x then d else
    let ident (f : MsgFly) : Word := packFields 32 [(0, d.destCode f.dest), (16, f.msg.sender)]
    let c := if d.logOf (tileCore x) ≤ d.logOf (tileCore y) then tileCore x else tileCore y
    let d := (d.setPreg (.queue c) 0x8C (ident a)).setPreg (.queue c) 0x90 (ident b)
    d.raise (.queue c) 1
  | _, _ => d

/-! ### Aggregation (R305) -/

/-- Adds a flushed line to the aggregator's totals: at most 16,384 channels, the rest in one overflow total, whose queue field R305 does
not give and is 0 (DESIGN CHOICE, log entry 55). -/
def addChan (ts : List ChanTotal) (l : ChanLine) : List ChanTotal :=
  let upd (t : ChanTotal) : ChanTotal := { t with msgs := t.msgs + l.msgs, stall := t.stall + l.stall, spills := t.spills + l.spills }
  let key (s q : Nat) (t : ChanTotal) : Bool := t.sender == s && t.dest == q
  let fresh (s q : Nat) : ChanTotal := { sender := s, dest := q, msgs := l.msgs, stall := l.stall, spills := l.spills }
  if ts.any (key l.sender l.dest) then ts.map fun t => if key l.sender l.dest t then upd t else t
  else if (ts.filter fun t => t.sender ≠ 0xFFFF).length < 16384 then ts ++ [fresh l.sender l.dest]
  else if ts.any (key 0xFFFF 0) then ts.map fun t => if key 0xFFFF 0 t then upd t else t
  else ts ++ [fresh 0xFFFF 0]

/-- Flushed line i reaches the aggregator. -/
def Dev.channelFlush (d : Dev) (i : Nat) : Dev :=
  match d.chanFly[i]? with
  | none => d
  | some l => { d with chanFly := d.chanFly.take i ++ d.chanFly.drop (i + 1), chanTotal := addChan d.chanTotal l }

/-! ### Instructions -/

/-- The flush of the context's buffered stores before a signal leaves the tile (R110, R223). -/
def View.flushOwn (v : View) : Dev → Dev := fun d => d.modTile v.t fun x => x.flushOf v.bg

/-- SEND (R105 to R107): the message is copied at issue. -/
def sendSem (v : View) (vA : BitVec 5) (sDst len : BitVec 6) (rsv : BitVec 9) (reply : Bool) : SlotSem :=
  let w := v.s sDst
  let dest := v.d.destOf v.core w
  let m : Msg :=
    { kind := 0, cls := reply, dq := destNumber w % 16, sender := v.d.tileSender v.t v.bg, cq := none
      payload := (v.v vA).take len.toNat, watch := none, release := none }
  { slot := 3, srcs := [rv vA, rs sDst], illegal := illegalIf false (rsv ≠ 0 || len = 63)
    traps := if dest.isNone then [(trapAddr, w)]
      else if destClass w ≠ reply then [(trapQClass, BitVec.ofNat 32 (destNumber w))] else []
    needs := [.net reply, .poolStores]
    onStall := fun off d => match dest with
      | some q => if off = cntSend then d.countSendStall v.t m.sender (d.destCode q) else d
      | none => d
    eff := fun d => match dest with
      | some q => (v.flushOwn d).sendMsg v.core m q
      | none => d }

def semSendReq (v : View) (vA : BitVec 5) (sDst len : BitVec 6) (rsv : BitVec 9) : SlotSem := sendSem v vA sDst len rsv false
def semSendRpl (v : View) (vA : BitVec 5) (sDst len : BitVec 6) (rsv : BitVec 9) : SlotSem := sendSem v vA sDst len rsv true

/-- QCTX assigns the queue to the other context (R61). -/
def View.queueTrap (v : View) (qn : BitVec 4) : List (Nat × Word) :=
  if bit (v.d.preg (.tile v.t) 0x9C) qn.toNat ≠ v.bg then [(trapQOwner, qn.setWidth 32)] else []

/-- The 64 lanes of a popped message (R68). -/
def msgLanes (m : Word × Word × List Word) : Lanes :=
  let ws := m.1 :: m.2.1 :: m.2.2
  mkLanes fun i => ws.getD i 0

/-- QRD pops the head of qn (R68, R105); the waiting message of its class is then evaluated (R289). Its read of the ring is no
scratchpad access that a data breakpoint meets (DESIGN CHOICE, log entry 8). -/
def semQrd (v : View) (dest : BitVec 6) (qn : BitVec 4) (kind : BitVec 1) (rsv : BitVec 15) : SlotSem :=
  let q := qn.toNat
  let vec := kind = 0
  let vD : BitVec 5 := dest.setWidth 5
  let m := v.tile.headMsg q
  { slot := 3, dests := [if vec then rv vD else rs dest], heads := [q]
    illegal := illegalIf false (rsv ≠ 0 || (vec && bit dest 5)), traps := v.queueTrap qn
    needs := [.message q]
    eff := fun d => match m with
      | none => d
      | some m =>
        let d := (d.modTile v.t fun x => x.pop q).retryIngress v.t (8 ≤ q)
        if vec then v.wv vD (msgLanes m) d else v.ws dest (m.2.2.getD 0 0) d }

/-- QCNT counts whole messages, spilled ones included (R105, R295). -/
def semQcnt (v : View) (sD : BitVec 6) (qn : BitVec 4) (kind : BitVec 1) (rsv : BitVec 15) : SlotSem :=
  let q := qn.toNat
  let n := if v.tile.qAbsent q then 0 else v.tile.qCount q + (v.d.spillOf v.t q).length
  { slot := 3, dests := [rs sD], illegal := illegalIf false (rsv ≠ 0 || kind = 0), traps := v.queueTrap qn
    eff := v.ws sD (BitVec.ofNat 32 n) }

end Sys2Proof.Machine
end

