-- ==== Sys2Proof/Machine/Sync.lean ====
section
/-! DEFINITION. Synchronisation objects, watches and barriers (11): the X-slot sync instructions (R108 to R110), the
sync units, the barrier tree from tile to fabric, realign, and the host and forcing registers (R309 to R342). -/

namespace Sys2Proof.Machine

/-! ### Objects and watches (R309 to R320) -/

def objAddr (c obj : Nat) : Nat := coreBase c + 0x10000 + 8 * obj
def Dev.objVal (d : Dev) (c obj : Nat) : Word := d.rd (objAddr c obj)
/-- Control word: partner [12:0], realign [13], paired [14]. -/
def Dev.objCtl (d : Dev) (c obj : Nat) : Word := d.rd (objAddr c obj + 4)

/-- The message of a watch (R318). -/
def Dev.watchMsg (d : Dev) (w : Watch) : Msg :=
  { kind := 1, cls := true, dq := w.qn, sender := d.unitSender w.core, cq := none
    payload := [d.objVal w.core w.obj, packFields 32 [(0, w.obj), (13, d.logOf w.core)], w.target]
    watch := some (w.tile, w.bg), release := none }

/-- A watch fires: one message to qn of its tile. -/
def Dev.fireWatch (d : Dev) (w : Watch) : Dev :=
  (d.sendMsg w.core (d.watchMsg w) (.tile w.tile w.qn)).bump (.sync w.core) 0xE0 1

/-- Stores an object's value and evaluates its watches in order of registration (R317, R320). -/
def Dev.setObj (d : Dev) (c obj : Nat) (w : Word) : Dev :=
  let d := d.wr (objAddr c obj) w
  let hit (x : Watch) : Bool := x.core == c && x.obj == obj && meets x.eq w x.target
  (d.watches.filter hit).foldl Dev.fireWatch { d with watches := d.watches.filter fun x => !hit x }

/-- The prior value reaches the scalar register that waits for it (R108, R109). -/
def Dev.replyPrior (d : Dev) (reply : Option (Nat × Bool × Nat)) (w : Word) : Dev :=
  match reply with
  | none => d
  | some (t, bg, n) => (d.modCtx t bg fun c =>
      if c.pend.contains (.s n) then { (c.ws n w) with pend := c.pend.erase (.s n) } else c).haltDone t bg

/-- One read-modify-write (R311): the new value and the reply. -/
def Dev.applyOp (d : Dev) (c obj : Nat) (f : Word → Word) (reply : Option (Nat × Bool × Nat)) : Dev :=
  let prior := d.objVal c obj
  let d := ((d.setObj c obj (f prior)).replyPrior reply prior).bump (.sync c) 0xD8 1
  if reply.isSome then d.injectFlits c 2 1 else d

/-- Registers a watch, or sends its message at once (R317). -/
def Dev.registerWatch (d : Dev) (w : Watch) : Dev :=
  let d := d.bump (.sync w.core) 0xD8 1
  if meets w.eq (d.objVal w.core w.obj) w.target then d.fireWatch w else { d with watches := d.watches ++ [w] }

/-- Watches that are removed without a message no longer count against their contexts. -/
def Dev.removeWatches (d : Dev) (p : Watch → Bool) : Dev :=
  (d.watches.filter p).foldl (fun d w => d.modCtx w.tile w.bg fun c => { c with watches := c.watches - 1 })
    { d with watches := d.watches.filter fun w => !p w }

/-- Sends an item to a sync unit from an endpoint of core c: a packet of one flit on VC2 (R314, R348). -/
def Dev.sendItem (d : Dev) (c : Nat) (f : SyncFly) : Dev := ({ d with syncs := d.syncs ++ [f] }).injectFlits c 2 1

/-! ### Barrier slots (R325, R327) -/

/-- The physical core that is logical core 0, by the map of the lowest enabled core. -/
def Dev.core0 (d : Dev) : Nat :=
  match (List.range 8).find? d.coreEnabled with
  | some c => d.physCore c 0
  | none => 0

def barKey (c b : Nat) (gen : Bool) (lvl : Nat) : Nat := ((256 * c + b) * 2 + b2n gen) * 16 + lvl
def lvlCore : Nat := 12
def lvlDie : Nat := 13
def Dev.barSlot (d : Dev) (c b : Nat) (gen : Bool) (lvl : Nat) : BarSlot := d.bars.getD (barKey c b gen lvl) BarSlot.reset
def Dev.setBarSlot (d : Dev) (c b : Nat) (gen : Bool) (lvl : Nat) (s : BarSlot) : Dev :=
  { d with bars := if s = BarSlot.reset then d.bars.erase (barKey c b gen lvl) else d.bars.set (barKey c b gen lvl) s }

/-- BARCFGb.scope: 1 row, 2 core, 3 package, 4 job, else off; barriers 254 and 255 read 0 (R340). -/
def Dev.barScope (d : Dev) (c b : Nat) : Nat :=
  if 254 ≤ b then 0 else
  let s := fld (d.preg (.sync c) (0x400 + 4 * b)) 0 3
  if 4 < s then 0 else s
def Dev.barCmask (d : Dev) (c b : Nat) : BitVec 8 := BitVec.ofNat 8 (fld (d.preg (.sync c) (0x400 + 4 * b)) 8 8)
/-- BARROWb field r. -/
def Dev.barRow (d : Dev) (c b r : Nat) : Nat :=
  fld (joinWords (d.preg (.sync c) (0x804 + 8 * b)) (d.preg (.sync c) (0x800 + 8 * b))) (5 * r) 5

def roundKey (c b lvl : Nat) : Nat := (256 * c + b) * 16 + lvl
def Dev.round (d : Dev) (c b lvl : Nat) : Word := d.rounds.getD (roundKey c b lvl) 0
/-- The root completes a round (R327). -/
def Dev.nextRound (d : Dev) (c b lvl : Nat) : Dev × Word :=
  let r := d.round c b lvl + 1
  ({ d with rounds := d.rounds.set (roundKey c b lvl) r }, r)

/-- SYNC_BAR_INFO (R340). -/
def Dev.barInfo (d : Dev) (c b : Nat) (gen : Bool) (level row obj : Nat) : Dev :=
  d.setPreg (.sync c) 0xB0 (packFields 32 [(0, b), (8, b2n gen), (9, level), (12, row), (16, obj)])

/-- BARRIER_EXCESS (R330). -/
def Dev.barExcess (d : Dev) (c b : Nat) (gen : Bool) (level row : Nat) : Dev := (d.barInfo c b gen level row 0).raise (.sync c) 2

def Dev.pushRel (d : Dev) (level c row b : Nat) (gen : Bool) (round : Word) : Dev :=
  { d with rels := d.rels ++ [{ level := level, core := c, row := row, bar := b, gen := gen, round := round }] }

/-! ### Releases (R327, R328) -/

/-- The release message of a tile goes to the queue that it named for that generation. -/
def Dev.releaseTile (d : Dev) (t b : Nat) (gen : Bool) (round : Word) : Dev :=
  match ((d.tile t).bars.getD b TileBar.reset).pend.find? fun p => p.1 == gen with
  | none => d
  | some (_, q) =>
    let m : Msg :=
      { kind := 2, cls := true, dq := q, sender := d.unitSender (tileCore t), cq := none
        payload := [packFields 32 [(0, b), (8, b2n gen)], round], watch := none, release := some (t, b, gen) }
    (d.sendMsg (tileCore t) m (.tile t q)).bump (.sync (tileCore t)) 0xE8 1

/-- A row releases the tiles of its mask and resets its slot. -/
def Dev.releaseRow (d : Dev) (c row b : Nat) (gen : Bool) (round : Word) : Dev :=
  let s := d.barSlot c b gen row
  (onesOf s.mask).foldl (fun d pos => d.releaseTile (c * 204 + row * 17 + pos) b gen round)
    (d.setBarSlot c b gen row BarSlot.reset)

/-- The core level releases its rows: those that take part, complete or, under a forced release, not (R327, R338). -/
def Dev.releaseCore (d : Dev) (c b : Nat) (gen : Bool) (round : Word) : Dev :=
  let s := d.barSlot c b gen lvlCore
  ((List.range 12).filter fun r => bit s.mask r || d.barRow c b r ≠ 0).foldl (fun d row => d.pushRel 0 c row b gen round) (d.setBarSlot c b gen lvlCore BarSlot.reset)

/-- The die level, in core c, releases its logical cores, those that take part: one packet of one flit to the sync unit of each. -/
def Dev.releaseDie (d : Dev) (c b : Nat) (gen : Bool) (round : Word) : Dev :=
  let s := d.barSlot c b gen lvlDie
  ((List.range 8).filter fun l => bit s.mask l || bit (d.barCmask c b) l).foldl
    (fun d l => (d.pushRel 1 (d.physCore c l) 0 b gen round).injectFlits c 2 1) (d.setBarSlot c b gen lvlDie BarSlot.reset)

/-- BARRIER_RELEASE: release i passes its level. -/
def Dev.barrierRelease (d : Dev) (i : Nat) : Dev :=
  match takeInOrder (fun (r : RelFly) => (r.level, r.core, r.row, r.bar)) d.rels i with
  | none => d
  | some (r, rest) =>
    let d := { d with rels := rest }
    match r.level with
    | 0 => d.releaseRow r.core r.row r.bar r.gen r.round
    | 1 => d.releaseCore r.core r.bar r.gen r.round
    | _ => d.releaseDie r.core r.bar r.gen r.round

/-! ### The fabric level (R332) -/

def fabKey (b : Nat) (gen : Bool) : Nat := 2 * b + b2n gen
def Dev.fabSlot (d : Dev) (b : Nat) (gen : Bool) : FabSlot := d.fabBars.getD (fabKey b gen) FabSlot.reset
def Dev.setFabSlot (d : Dev) (b : Nat) (gen : Bool) (s : FabSlot) : Dev :=
  { d with fabBars := if s = FabSlot.reset then d.fabBars.erase (fabKey b gen) else d.fabBars.set (fabKey b gen) s }

def Dev.fabChildren (d : Dev) : Nat := min 64 (fld (d.preg (.sync d.core0) 0xA8) 0 7)
def Dev.fabRoot (d : Dev) : Bool := bit (d.preg (.sync d.core0) 0xA4) 16
def Dev.fabParent (d : Dev) : Nat := fld (d.preg (.sync d.core0) 0xA4) 0 16

/-- Jet fields of ARRIVE and RELEASE: barrier and generation; a RELEASE carries the round and T_rel in its body. -/
def barFields (b : Nat) (gen : Bool) : Nat := b + 256 * b2n gen
def relBody (round : Word) (tRel : Nat) : List Byte := bytesLE 4 round.toNat ++ bytesLE 8 tRel ++ List.replicate 4 0

/-- The release of barrier 255 (R386): the next origin is T_rel + 2,000 ft, and LULL_N is no longer held low for the superstep it
releases (R381). -/
def Dev.slipRelease (d : Dev) (tRel : Nat) : Dev :=
  let f := d.fc
  if f.slipPrev then
    { d with fc := { f with slipPrev := false, lullPrev := false, origin := tRel + 2000, lastRel := some (f.sstep - 1) } }
  else if f.slip && f.arrived then { d with fc := { f with rel := some (tRel + 2000), lullOut := false, lastRel := some f.sstep } }
  else { d with fc := { f with lullOut := false, lullPrev := false } }

/-- The tree's children beside those at the positions `known`: positions learned from their messages, and for the rest of
SYNC_FAB_CHILDREN free ones, since no register holds a child's position (R332). -/
def Dev.otherKids (d : Dev) (known : List Nat) : Dev × List Nat :=
  let want := d.fabChildren - known.length
  let heard := (d.fc.kids.filter fun k => !known.contains k).take want
  let n := want - heard.length
  ({ d with draws := d.draws + n }, heard ++ (List.range n).map fun i => (Config.treeChild (d.draws + i)).toNat)

/-- RELEASING: the die level is released and RELEASE goes to every child; the slot is IDLE again. -/
def Dev.fabRelease (d : Dev) (b : Nat) (gen : Bool) (round : Word) (tRel : Nat) : Dev :=
  let s := d.fabSlot b gen
  let d := d.setFabSlot b gen FabSlot.reset
  let d := if b = 255 then d.slipRelease tRel else d.pushRel 2 d.core0 0 b gen round
  let (d, rest) := d.otherKids s.children
  (s.children ++ rest).foldl (fun d c => d.jet (some d.core0) c 1 (barFields b gen) (relBody round tRel)) d

/-- COUNTING is complete when the die level and every child have arrived. -/
def Dev.fabCheck (d : Dev) (b : Nat) (gen : Bool) : Dev :=
  let s := d.fabSlot b gen
  if s.state = .counting && s.die && s.children.length = d.fabChildren then
    if d.fabRoot then
      let (d, r) := d.nextRound d.core0 b lvlCore
      d.fabRelease b gen r (d.tmb.time8 / 8)
    else (d.setFabSlot b gen { s with state := .sent, timed := false }).jet (some d.core0) d.fabParent 0 (barFields b gen) []
  else d

/-- The die level of a job-scope barrier completes, or the forecast unit arrives at barrier 255 (R385). -/
def Dev.fabDie (d : Dev) (b : Nat) (gen : Bool) : Dev :=
  let s := d.fabSlot b gen
  (d.setFabSlot b gen { s with state := if s.state = .idle then .counting else s.state, die := true }).fabCheck b gen

/-- The sync unit of logical core 0 takes messages: its page is on and its core is not fenced. -/
def Dev.rootUnitOn (d : Dev) : Bool := d.pageOn (.sync d.core0) && !d.isFenced (.core d.core0)

/-- ARRIVE of a child: counted, or beyond the child count. -/
def Dev.fabArrive (d : Dev) (from_ b : Nat) (gen : Bool) : Dev :=
  if d.fabChildren = 0 then d else
  let s := d.fabSlot b gen
  if d.fabChildren ≤ s.children.length then d.barExcess d.core0 b gen 3 0
  else
    let kids := if d.fc.kids.contains from_ then d.fc.kids else d.fc.kids ++ [from_]
    let d := { d with fc := { d.fc with kids := kids } }
    let state := if s.state = .idle then FabState.counting else s.state
    (d.setFabSlot b gen { s with state := state, children := s.children ++ [from_] }).fabCheck b gen

def Dev.arriveRow (d : Dev) (src : PktSrc) : Dev :=
  if !d.rootUnitOn then d else
  d.onPacket src 2 (fun k => k.type = typeJet && k.sub = 0) fun d k _ =>
    d.fabArrive k.src (fld k.jetFields 0 8) (bit k.jetFields 8)

def Dev.releaseJet (d : Dev) (src : PktSrc) : Dev :=
  if !d.rootUnitOn then d else
  d.onPacket src 2 (fun k => k.type = typeJet && k.sub = 1) fun d k _ =>
    let b := fld k.jetFields 0 8
    let gen := bit k.jetFields 8
    if (d.fabSlot b gen).state = .sent then
      d.fabRelease b gen (BitVec.ofNat 32 (ofBytesLE (k.body.take 4))) (ofBytesLE ((k.body.drop 4).take 8))
    else d

/-! ### Arrivals (R326 to R330) -/

/-- An arrival at the die level in core c0. -/
def Dev.arriveDieAt (d : Dev) (c0 b : Nat) (gen : Bool) (l : Nat) : Dev :=
  let s := d.barSlot c0 b gen lvlDie
  let cm := d.barCmask c0 b
  if !(bit cm l) || bit s.mask l then d.barExcess c0 b gen 2 0 else
  let m := setBit s.mask l true
  let d := d.setBarSlot c0 b gen lvlDie { s with count := s.count + 1, mask := m }
  if (onesOf cm).all fun i => bit m i then
    if d.barScope c0 b = 4 then d.fabDie b gen
    else
      let (d, r) := d.nextRound c0 b lvlCore
      d.releaseDie c0 b gen r
  else d

/-- Row `row` of core c has completed: the core level. -/
def Dev.coreArrive (d : Dev) (c b : Nat) (gen : Bool) (row : Nat) : Dev :=
  let s := d.barSlot c b gen lvlCore
  let m := setBit s.mask row true
  let d := d.setBarSlot c b gen lvlCore { s with count := s.count + 1, mask := m }
  if (List.range 12).all fun r => d.barRow c b r = 0 || bit m r then
    if d.barScope c b = 2 then
      let (d, r) := d.nextRound c b lvlCore
      d.releaseCore c b gen r
    else
      d.sendItem c { chan := .unit c, core := d.physCore c 0, what := .arriveDie b gen ((d.lcoreOf c).getD 8) }
  else d

/-- A tile's arrival at its row counter. -/
def Dev.rowArrive (d : Dev) (c b : Nat) (gen : Bool) (t : Nat) : Dev :=
  let row := tileRow t
  let n := d.barRow c b row
  let s := d.barSlot c b gen row
  if n = 0 || d.barScope c b = 0 || n < s.count + 1 then d.barExcess c b gen 0 row else
  let d := d.setBarSlot c b gen row { s with count := s.count + 1, mask := setBit s.mask (tilePos t) true }
  if s.count + 1 = n then
    if d.barScope c b = 1 then
      let (d, r) := d.nextRound c b row
      d.releaseRow c row b gen r
    else d.coreArrive c b gen row
  else d

/-- Items of one sender to one unit take effect in issue order (R312); those of a tile's two contexts share one path (R345). -/
def SyncFly.chanKey (f : SyncFly) : SyncChan × Nat :=
  (match f.chan with
    | .tile t _ => .tile t false
    | c => c, f.core)

def SyncFly.isArrival (f : SyncFly) : Bool :=
  match f.what with
  | .arrive _ _ _ => true
  | .arriveDie _ _ _ => true
  | _ => false

/-! ### The realign barrier (R335, R336) -/

/-- A core whose unit takes part: enabled and not fenced. -/
def Dev.realigns (d : Dev) (c : Nat) : Bool := d.coreEnabled c && !d.isFenced (.core c)

/-- The die-level slot of barrier 254 in use, in the core of the root: the participating units that have arrived, by physical core. -/
def Dev.slot254 (d : Dev) : BarSlot := d.barSlot d.core0 254 d.gen254 lvlDie

/-- Every participating unit has arrived at barrier 254. -/
def Dev.realignReady (d : Dev) : Bool := ((List.range 8).filter d.realigns).all fun c => bit d.slot254.mask c

/-- A realign slot opens: every participating unit holds what reaches its ingress, and arrives at barrier 254. -/
def Dev.realignOpen (d : Dev) : Dev :=
  if d.realign then d else
  ((List.range 8).filter d.realigns).foldl
    (fun x c => x.sendItem c { chan := .unit c, core := d.core0, what := .arriveDie 254 d.gen254 c }) { d with realign := true }

/-- The objects of core c with realign = 1, ascending. -/
def Dev.realignObjs (d : Dev) (c : Nat) : List Nat :=
  ((d.regs.cells.filter fun x => coreBase c + 0x10000 ≤ x.1 && x.1 < coreBase c + 0x20000 && x.1 % 8 = 4 && bit x.2 13).map
    fun x => (x.1 - coreBase c - 0x10000) / 8).filter fun o => bit (d.objCtl c o) 13

/-- The partner of an object, when both form a realigned pair. -/
def Dev.partner (d : Dev) (c obj : Nat) : Option Nat :=
  let k := d.objCtl c obj
  let p := fld k 0 13
  let kp := d.objCtl c p
  if p ≠ obj && bit k 13 && bit k 14 && bit kp 13 && bit kp 14 && fld kp 0 13 = obj then some p else none

/-- One unit at the release of barrier 254. -/
def Dev.realignUnit (d : Dev) (c : Nat) : Dev :=
  let objs := d.realignObjs c
  let new (o : Nat) : Word := match d.partner c o with
    | some p => if o < p then d.objVal c o - d.objVal c p else 0
    | none => 0
  let d' := objs.foldl (fun x o => x.wr (objAddr c o) (new o)) d
  let d' := objs.foldl (fun x o => if new o ≠ 0 then (x.barInfo c (o % 256) false 5 0 o).raise (.sync c) 3 else x) d'
  let hit (w : Watch) : Bool := w.core == c && objs.contains w.obj
  let n := (d.watches.filter hit).length
  (iterate n (fun _ x => x.raise (.sync c) 4) (d'.removeWatches hit)).bump (.sync c) 0xF0 1

/-! ### Forcing and host operations (R323, R338, R339) -/

/-! ### What a commit closes (R494, R529) -/

/-- Bound logical cores, and the physical core of each, by the map of the lowest enabled core. -/
def Dev.boundCores (d : Dev) : List Nat := List.range (d.boundCount d.mapCore)
def Dev.corePhys (d : Dev) (l : Nat) : Nat := d.physCore d.mapCore l

/-- The bound tiles of logical core l: positions with a program that are neither spare nor fenced. -/
def Dev.boundTiles (d : Dev) (l : Nat) : List Nat :=
  let c := d.corePhys l
  ((List.range 204).map fun i => c * 204 + i).filter fun t =>
    !d.isSpare t && d.preg (.tile t) 0x98 ≠ 0 && !d.isFenced (.tile t) && !d.isFenced (.core c)

/-- A commit is due (R529): the commit barrier of job scope has released at every bound tile, and the superstep of the
last release has ended. -/
def Dev.commitDue (d : Dev) : Bool :=
  let tiles := d.boundCores.flatMap d.boundTiles
  d.rsl.phase = .idle && d.rsl.placed ≠ [] && d.barScope d.core0 (fld (d.preg .rsl 0x80) 0 8) = 4 &&
    tiles.all (fun t => d.rsl.placed.contains t) && (!d.fc.armed || !d.fc.begun || d.fc.sstep ≠ d.rsl.placedIn)

/-- The first origin of the step that the next journal record closes has passed (R494): once the record of the committing step is
written, an origin that has passed since is the next step's. -/
def Dev.inStep (d : Dev) : Bool :=
  match d.rsl.phase with
  | .journal => d.rsl.originSeen
  | .key => d.rsl.originSeen
  | _ => d.rsl.started

/-- The record of the last step has still to be made though the first origin of the step after it has passed: what happens now lies in both. -/
def Dev.inNextStep (d : Dev) : Bool :=
  match d.rsl.phase with
  | .drain => d.rsl.originSeen
  | .idle => d.commitDue && d.fc.armed && d.fc.begun
  | _ => false

/-- Logs a forced action (R339), with its mark for the journal of every step that it falls in; FORCE_STAT falls when the record is
written. The record takes the place `n` that the recorder's queue had free when the action began, so that it is never dropped; an event
that the action itself gave rise to may be (R591). -/
def Dev.logForce (d : Dev) (n c : Nat) (mgmt : Bool) (cmd what : Nat) (before after : Word) : Dev :=
  let data := [BitVec.ofNat 8 (d.logOf c), BitVec.ofNat 8 cmd] ++ bytesLE 2 what ++ bytesLE 4 before.toNat ++ bytesLE 4 after.toNat
  let e := d.event 0x20 (Page.index (.debug c)) (if mgmt then 3 else 2) 0 false data false
  let q := d.evr.queue.take n ++ [e] ++ d.evr.queue.drop n
  let d := { d with evr := { d.evr with queue := q.take 256 } }
  let d := if q.length ≤ 256 then d else
    ({ d with evr := { d.evr with drops := satAdd d.evr.drops 1, dropsOwed := d.evr.dropsOwed + 1 } }).raise .evr 1
  let d := d.bump (.sync c) 0xF8 1
  { d with rsl := { d.rsl with forced := d.rsl.forced || d.inStep, nextForced := d.rsl.nextForced || d.inNextStep } }

/-- The release of barrier 254 (R335): the round number, the slot, and the participating units in step. -/
def Dev.realignRelease (d : Dev) : Dev :=
  let d := (d.nextRound d.core0 254 lvlCore).1.setBarSlot d.core0 254 d.gen254 lvlDie BarSlot.reset
  ((List.range 8).filter d.realigns).foldl Dev.realignUnit { d with realign := false, gen254 := !d.gen254 }

/-- The forced release of R338 at the highest level that core c holds. Barrier 254 has the die level of logical core 0 alone, barrier
255 the fabric level there. -/
def Dev.forceReleaseNow (d : Dev) (c b : Nat) (gen : Bool) : Dev :=
  let held0 := c = d.core0
  let fabric : Dev :=
    if d.fabRoot then
      let (d, r) := d.nextRound c b lvlCore
      d.fabRelease b gen r (d.tmb.time8 / 8)
    else d.fabRelease b gen (d.round c b lvlCore) (d.tmb.time8 / 8)
  if b = 255 then if held0 then fabric else d
  else if b = 254 then
    if !held0 then d
    else if d.realign && gen = d.gen254 then d.realignRelease
    else (d.nextRound c b lvlCore).1.setBarSlot c b gen lvlDie BarSlot.reset
  else match d.barScope c b with
  | 1 => (List.range 12).foldl (fun d row =>
      if d.barRow c b row = 0 then d else
      let (d, r) := d.nextRound c b row
      d.releaseRow c row b gen r) d
  | 2 =>
    let (d, r) := d.nextRound c b lvlCore
    d.releaseCore c b gen r
  | 3 =>
    if held0 then
      let (d, r) := d.nextRound c b lvlCore
      d.releaseDie c b gen r
    else d.releaseCore c b gen (d.round c b lvlCore)
  | 4 => if held0 then fabric else d.releaseCore c b gen (d.round c b lvlCore)
  | _ => d

/-! ### What reaches a unit's ingress (R312, R316, R335) -/

def SyncChan.isForce : SyncChan → Bool
  | .force _ _ => true
  | _ => false
def SyncChan.isHost : SyncChan → Bool
  | .host _ => true
  | _ => false

/-- What a realign does not hold: the arrivals at barrier 254, and a forced release, which is no operation of a channel (R335, R338). -/
def SyncFly.passes (f : SyncFly) : Bool :=
  match f.what with
  | .arriveDie 254 _ _ => true
  | .release _ _ => true
  | _ => false

/-- An item waits at the ingress: the page's en is 0, which holds neither host operations nor forced actions (R340), or the recorder's
queue has no room for the record of a forced action (R591). -/
def Dev.syncWaits (d : Dev) (f : SyncFly) : Bool :=
  (!f.chan.isHost && !f.chan.isForce && !d.pageOn (.sync f.core)) || (f.chan.isForce && 256 ≤ d.evr.queue.length)

/-- An item that a unit accepts takes effect. -/
def Dev.applyItem (d : Dev) (f : SyncFly) : Dev :=
  let c := f.core
  let before (obj : Nat) : Word := d.objVal c obj
  let after (d' : Dev) (obj : Nat) (cmd : Nat) (w : Word) : Dev :=
    match f.chan with
    | .host _ => d'.setPreg (.sync c) 0xA0 (before obj)
    | .force _ m => d'.logForce d.evr.queue.length c m cmd obj (before obj) w
    | _ => d'
  match f.what with
  | .add obj v r => after (d.applyOp c obj (fun x => x + v) r) obj 1 (before obj + v)
  | .set obj v r => after (d.applyOp c obj (fun _ => v) r) obj 0 v
  | .cas obj e n r => d.applyOp c obj (fun x => if x = e then n else x) r
  | .watch obj tgt eq t bg qn =>
    d.registerWatch { core := c, obj := obj, target := tgt, eq := eq, tile := t, bg := bg, qn := qn }
  | .release b gen =>
    let d' := d.forceReleaseNow c b gen
    d'.logForce d.evr.queue.length c (f.chan = .force c true) 2 (b + 256 * b2n gen) (d.round c b lvlCore) (d'.round c b lvlCore)
  | .arrive b gen t => d.rowArrive c b gen t
  | .arriveDie b gen l =>
    if b = 254 then
      let s := d.barSlot c 254 gen lvlDie
      d.setBarSlot c 254 gen lvlDie { s with count := s.count + 1, mask := setBit s.mask l true }
    else d.arriveDieAt c b gen l

/-- The items held during a realign take effect in arrival order; one that waits stays at the ingress, ahead of what follows it. -/
def Dev.applyHeld (d : Dev) : Dev :=
  let (d', left) := d.syncHeld.foldl (fun (acc : Dev × List SyncFly) f =>
    if acc.1.isFenced (.core f.core) then acc
    else if acc.1.syncWaits f then (acc.1, acc.2 ++ [f]) else (acc.1.applyItem f, acc.2)) ({ d with syncHeld := [] }, [])
  { d' with syncs := left ++ d'.syncs }

/-- An item is accepted; where it releases barrier 254 (a forced release), what the realign held follows it. -/
def Dev.acceptItem (d : Dev) (f : SyncFly) : Dev :=
  let d' := d.applyItem f
  if d.realign && !d'.realign then d'.applyHeld else d'

/-- Item i reaches its unit, which holds it, discards it or accepts it; `want` says which items the command takes. -/
def Dev.syncArrive (d : Dev) (want : SyncFly → Bool) (i : Nat) : Dev :=
  match takeInOrder SyncFly.chanKey d.syncs i with
  | none => d
  | some (f, rest) =>
    let d' := { d with syncs := rest }
    if !want f then d
    else if d.isFenced (.core f.core) then d'
    else if d.realign && !f.passes then { d' with syncHeld := d'.syncHeld ++ [f] }
    else if d.syncWaits f then d
    else d'.acceptItem f

/-- BARRIER_ARRIVE: arrival i reaches its level; a fenced core discards it (R316). -/
def Dev.barrierArrive (d : Dev) (i : Nat) : Dev := d.syncArrive SyncFly.isArrival i

/-- SYNC_OP_APPLY: operation i is applied at its unit (R311, R316, R317), or joins those that a realign holds. -/
def Dev.syncOpApply (d : Dev) (i : Nat) : Dev := d.syncArrive (fun f => !f.isArrival) i

/-- REALIGN_APPLY: barrier 254 releases; the held operations are applied after it. -/
def Dev.realignApply (d : Dev) : Dev :=
  if !d.realign || !d.realignReady then d else d.realignRelease.applyHeld

/-- Issues an operation of the host or forcing registers: applied at once unless the unit holds it, or its clock is stopped (R617, R619). -/
def Dev.ownOp (d : Dev) (f : SyncFly) : Dev :=
  let d := { d with syncs := d.syncs ++ [f] }
  if !d.coreUp then d else d.syncOpApply (d.syncs.length - 1)

/-- An operation of the host registers has not been applied yet (HOP_STAT.busy). -/
def Dev.hopBusy (d : Dev) (c : Nat) : Bool := (d.syncs ++ d.syncHeld).any fun f => f.chan = .host c

/-- HOP_CMD (R323). -/
def Dev.hop (d : Dev) (c : Nat) (set : Bool) : Dev :=
  if d.hopBusy c then d else
  let obj := fld (d.preg (.sync c) 0x90) 0 13
  let v := d.preg (.sync c) 0x94
  d.ownOp { chan := .host c, core := c, what := if set then .set obj v none else .add obj v none }

def Dev.hopAdd (d : Dev) (c : Nat) : Dev := d.hop c false
def Dev.hopSet (d : Dev) (c : Nat) : Dev := d.hop c true

/-- FORCE_CMD (R338): ignored while FORCE_STAT.busy is 1, which lasts until the record is logged, or while the page's en
is 0 (R692). -/
def Dev.force (d : Dev) (c : Nat) (mgmt : Bool) (what : Nat → Word → SyncWhat) : Dev :=
  if !d.pageOn (.debug c) || bit (d.preg (.debug c) 0x8C) 0 then d else
  (d.setPreg (.debug c) 0x8C 1).ownOp
    { chan := .force c mgmt, core := c, what := what (fld (d.preg (.debug c) 0x80) 0 13) (d.preg (.debug c) 0x84) }

def Dev.forceSet (d : Dev) (c : Nat) (mgmt : Bool) : Dev := d.force c mgmt fun obj v => .set obj v none
def Dev.forceAdd (d : Dev) (c : Nat) (mgmt : Bool) : Dev := d.force c mgmt fun obj v => .add obj v none
def Dev.forceRelease (d : Dev) (c : Nat) (mgmt : Bool) (b : Nat) (gen : Bool) : Dev := d.force c mgmt fun _ _ => .release b gen

/-! ### Timeouts, BAR_RESET, WATCH_CLEAR (R331, R334, R341) -/

/-- A slot has waited BAR_TIMEOUT cycles: recorded and raised once. -/
def Dev.barrierTimeout (d : Dev) (c b : Nat) (gen : Bool) (level row : Nat) : Dev :=
  let say (d : Dev) (c : Nat) : Dev := (d.barInfo c b gen level (if level = 0 then row else 0) 0).raise (.sync c) 1
  let lvl := if level = 0 then row else if level = 1 then lvlCore else lvlDie
  if level ≤ 2 then
    let s := d.barSlot c b gen lvl
    if s.count = 0 || s.timed || (level = 2 && c ≠ d.core0) || (level = 0 && 12 ≤ row) then d
    else say (d.setBarSlot c b gen lvl { s with timed := true }) c
  else
    let s := d.fabSlot b gen
    if s.timed || s.state ≠ (if level = 3 then FabState.counting else FabState.sent) || c ≠ d.core0 || 4 < level then d
    else say (d.setFabSlot b gen { s with timed := true }) c

/-- BAR_RESET (R334). -/
def Dev.barReset (d : Dev) (c : Nat) (w : Word) : Dev :=
  if !d.coreHalted c then d else
  let hit (b : Nat) : Bool := bit w 8 || b = fld w 0 8
  let d := { d with
    bars := d.bars.keep fun k _ => !(k / 16 / 2 / 256 = c && hit (k / 16 / 2 % 256))
    rounds := d.rounds.keep fun k _ => !(k / 16 / 256 = c && hit (k / 16 % 256))
    fabBars := if c = d.core0 then d.fabBars.keep fun k _ => !hit (k / 2) else d.fabBars
    gen254 := d.gen254 && !(c = d.core0 && hit 254)
    fc := if c = d.core0 && hit 255 then { d.fc with gen255 := false, kids := [] } else d.fc }
  { d with tiles := d.tiles.mapVals fun t x =>
      if tileCore t = c then { x with bars := x.bars.keep fun b _ => !hit b } else x }

/-- WATCH_CLEAR (R340, R341). -/
def Dev.watchClear (d : Dev) (c : Nat) (w : Word) : Dev :=
  if d.coreHalted c && bit w 0 then d.removeWatches fun x => x.core == c else d

/-! ### Instructions -/

/-- The physical core and index of the object that a register names at an endpoint of core c (R108). -/
def Dev.objOf (d : Dev) (c : Nat) (w : Word) : Option (Nat × Nat) :=
  if d.lcoreBound c (fld w 13 3) then some (d.physCore c (fld w 13 3), fld w 0 13) else none

def replyTrap (qn : BitVec 4) : List (Nat × Word) := if qn.toNat < 8 then [(trapQClass, qn.setWidth 32)] else []

/-- Sends an operation of the context's channel. -/
def View.sendSync (v : View) (core : Nat) (what : SyncWhat) : Dev → Dev := fun d =>
  d.sendItem v.core { chan := .tile v.t v.bg, core := core, what := what }

/-- SADD, SSET and SCAS: `what` makes the item from the object index and the reply. -/
def syncSem (v : View) (sD sObj : BitVec 6) (srcs : List Reg) (rsvBad : Bool)
    (what : Nat → Option (Nat × Bool × Nat) → SyncWhat) : SlotSem :=
  let w := v.s sObj
  let o := v.d.objOf v.core w
  { slot := 3, srcs := rs sObj :: srcs, dests := [rs sD], illegal := illegalIf false rsvBad
    traps := if o.isNone then [(trapAddr, w)] else [], needs := [.poolStores]
    eff := fun d => match o with
      | none => d
      | some (c, obj) =>
        let reply := if sD = 0 then none else some (v.t, v.bg, sD.toNat)
        let d := v.sendSync c (what obj reply) (v.flushOwn d)
        if sD = 0 then d else v.pend (rs sD) d }

def semSadd (v : View) (sD sObj sVal : BitVec 6) (rsv : BitVec 8) : SlotSem :=
  syncSem v sD sObj [rs sVal] (rsv ≠ 0) fun obj r => .add obj (v.s sVal) r
def semSset (v : View) (sD sObj sVal : BitVec 6) (rsv : BitVec 8) : SlotSem :=
  syncSem v sD sObj [rs sVal] (rsv ≠ 0) fun obj r => .set obj (v.s sVal) r
def semScas (v : View) (sD sObj sExp sNew : BitVec 6) (rsv : BitVec 2) : SlotSem :=
  syncSem v sD sObj [rs sExp, rs sNew] (rsv ≠ 0) fun obj r => .cas obj (v.s sExp) (v.s sNew) r

/-- WATCH (R108, R317, R319). -/
def semWatch (v : View) (sObj sTgt : BitVec 6) (cond : BitVec 1) (qn : BitVec 4) (rsv : BitVec 9) : SlotSem :=
  let w := v.s sObj
  let o := v.d.objOf v.core w
  { slot := 3, srcs := [rs sObj, rs sTgt], illegal := illegalIf false (rsv ≠ 0)
    traps := (if o.isNone then [(trapAddr, w)] else []) ++ replyTrap qn
    needs := [.watchPlace, .poolStores]
    eff := fun d => match o with
      | none => d
      | some (c, obj) =>
        let d := (v.flushOwn d).modCtx v.t v.bg fun x => { x with watches := x.watches + 1 }
        v.sendSync c (.watch obj (v.s sTgt) (cond = 1) v.t v.bg qn.toNat) d }

/-- BARA (R324, R326, R329). -/
def semBara (v : View) (sBar : BitVec 6) (qn : BitVec 4) (rsv : BitVec 16) : SlotSem :=
  let w := v.s sBar
  let b := fld w 0 8
  let s := v.tile.bars.getD b TileBar.reset
  { slot := 3, srcs := [rs sBar], illegal := illegalIf false (rsv ≠ 0)
    traps := (if v.d.barScope v.core b = 0 then [(trapAddr, w)] else []) ++ replyTrap qn
    needs := [.arrival b, .poolStores]
    onStall := fun _ d =>
      if 2 ≤ s.pend.length && !v.c.pend.contains (rs sBar) && !v.c.waits.contains (.arrival b) && bit (d.preg (.sync v.core) 0x80) 0 then d.raise (.sync v.core) 0 else d
    eff := fun d =>
      let d := (v.flushOwn d).modTile v.t fun x =>
        { x with bars := x.bars.set b { gen := !s.gen, pend := s.pend ++ [(s.gen, qn.toNat)] } }
      v.sendSync v.core (.arrive b s.gen v.t) d }

end Sys2Proof.Machine
end

