-- ==== Sys2Proof/Machine/Scalar.lean ====
section
/-! DEFINITION. S slot: scalar and address arithmetic, branches, halt, trap, context switch and layer table
(R88, R92 to R97, R156). -/

namespace Sys2Proof.Machine

/-- 1 or 0 (R94). -/
def flag32 (b : Bool) : Word := if b then 1#32 else 0#32

/-- Shift amount: bits [4:0] (R94). -/
def shAmt (w : Word) : Nat := fld w 0 5

/-- ALU functions (R93, R94); none for a reserved code. -/
def aluFn (fn : Nat) (a b : Word) : Option Word :=
  match fn with
  | 0x0 => some (a + b)
  | 0x1 => some (a - b)
  | 0x2 => some (a &&& b)
  | 0x3 => some (a ||| b)
  | 0x4 => some (a ^^^ b)
  | 0x5 => some (a <<< shAmt b)
  | 0x6 => some (a >>> shAmt b)
  | 0x7 => some (a.sshiftRight (shAmt b))
  | 0x8 => some (flag32 (a.slt b))
  | 0x9 => some (flag32 (a.ult b))
  | 0xA => some (flag32 (a == b))
  | 0xB => some (if a.slt b then a else b)
  | 0xC => some (if a.slt b then b else a)
  | 0xD => some (if a.ult b then a else b)
  | 0xE => some (if a.ult b then b else a)
  | _ => none

/-- MUL functions (R93). -/
def mulFn (fn : Nat) (a b : Word) : Option Word :=
  match fn with
  | 0 => some (a * b)
  | 1 => some ((a.signExtend 64 * b.signExtend 64).extractLsb' 32 32)
  | 2 => some ((a.setWidth 64 * b.setWidth 64).extractLsb' 32 32)
  | _ => none

/-- Branch conditions (R95); none for a reserved code. -/
def condHolds (cond : Nat) (a b : Word) : Option Bool :=
  match cond with
  | 0 => some true
  | 1 => some (a == b)
  | 2 => some (a != b)
  | 3 => some (a.slt b)
  | 4 => some (!a.slt b)
  | 5 => some (a.ult b)
  | 6 => some (!a.ult b)
  | _ => none

/-- A slot that writes one scalar register. -/
def scalarSem (v : View) (sD : BitVec 6) (srcs : List Reg) (w : Option Word) (rsvBad : Bool := false) : SlotSem :=
  { slot := 0, srcs := srcs, dests := [rs sD], illegal := illegalIf false (rsvBad || w.isNone)
    eff := v.ws sD (w.getD 0) }

/-- A slot that writes one address register. -/
def addrSem (v : View) (aD : BitVec 4) (srcs : List Reg) (w : Word) (rsvBad : Bool := false) : SlotSem :=
  { slot := 0, srcs := srcs, dests := [ra aD], illegal := illegalIf false rsvBad, eff := v.wa aD w }

/-- R97: row and column deltas, each modulo 2^16. -/
def add2d (a : Word) (dr dc : BitVec 16) : Word :=
  ((a.extractLsb' 16 16 + dr) ++ (a.extractLsb' 0 16 + dc) : BitVec 32)

/-- R88: NOP in any slot; its RSV bits must be 0. -/
def semNop (_v : View) (slot : Fin 4) (rsv : BitVec 26) : SlotSem :=
  { slot := slot.val, illegal := illegalIf false (rsv ≠ 0) }

def semAlu (v : View) (sD sA sB : BitVec 6) (fn : BitVec 8) : SlotSem :=
  scalarSem v sD [rs sA, rs sB] (aluFn fn.toNat (v.s sA) (v.s sB))

def semMul (v : View) (sD sA sB : BitVec 6) (fn : BitVec 8) : SlotSem :=
  scalarSem v sD [rs sA, rs sB] (mulFn fn.toNat (v.s sA) (v.s sB))

def semAddi (v : View) (sD sA : BitVec 6) (imm : BitVec 14) : SlotSem :=
  scalarSem v sD [rs sA] (some (v.s sA + imm.signExtend 32))

def semAndi (v : View) (sD sA : BitVec 6) (imm : BitVec 14) : SlotSem :=
  scalarSem v sD [rs sA] (some (v.s sA &&& imm.setWidth 32))

def semOri (v : View) (sD sA : BitVec 6) (imm : BitVec 14) : SlotSem :=
  scalarSem v sD [rs sA] (some (v.s sA ||| imm.setWidth 32))

def semXori (v : View) (sD sA : BitVec 6) (imm : BitVec 14) : SlotSem :=
  scalarSem v sD [rs sA] (some (v.s sA ^^^ imm.setWidth 32))

def semShifti (v : View) (sD sA : BitVec 6) (kind : BitVec 2) (amount : BitVec 5) (rsv : BitVec 7) : SlotSem :=
  let n := amount.toNat
  let w := match kind.toNat with
    | 0 => some (v.s sA <<< n)
    | 1 => some (v.s sA >>> n)
    | 2 => some ((v.s sA).sshiftRight n)
    | _ => none
  scalarSem v sD [rs sA] w (rsv ≠ 0)

def semSlti (v : View) (sD sA : BitVec 6) (imm : BitVec 14) : SlotSem :=
  scalarSem v sD [rs sA] (some (flag32 ((v.s sA).slt (imm.signExtend 32))))

def semLui (v : View) (sD : BitVec 6) (imm : BitVec 20) : SlotSem :=
  scalarSem v sD [] (some (imm.setWidth 32 <<< 12))

/-- BR; for condition 0 the register fields are ignored (R95). -/
def semBr (v : View) (sA sB : BitVec 6) (cond : BitVec 4) (target : BitVec 10) : SlotSem :=
  let taken := condHolds cond.toNat (v.s sA) (v.s sB)
  { slot := 0, srcs := if cond = 0 then [] else [rs sA, rs sB], illegal := illegalIf false taken.isNone
    ctl := if taken = some true then .goto target.toNat else .next }

def semBrp (v : View) (p : BitVec 3) (all : Bool) (target : BitVec 10) (rsv : BitVec 12) : SlotSem :=
  let taken := if all then v.p p = BitVec.allOnes 64 else v.p p ≠ 0
  { slot := 0, srcs := [rp p], illegal := illegalIf false (rsv ≠ 0)
    ctl := if taken then .goto target.toNat else .next }

def semCall (v : View) (sD : BitVec 6) (target : BitVec 10) (rsv : BitVec 10) : SlotSem :=
  { slot := 0, dests := [rs sD], illegal := illegalIf false (rsv ≠ 0), ctl := .goto target.toNat
    eff := v.ws sD (BitVec.ofNat 32 (v.c.pc + 1)) }

def semJr (v : View) (sA : BitVec 6) (rsv : BitVec 20) : SlotSem :=
  { slot := 0, srcs := [rs sA], illegal := illegalIf false (rsv ≠ 0), ctl := .goto (fld (v.s sA) 0 10) }

def semHalt (_v : View) (rsv : BitVec 26) : SlotSem :=
  { slot := 0, illegal := illegalIf false (rsv ≠ 0), ctl := .halt }

def semTrap (_v : View) (imm : BitVec 16) (rsv : BitVec 10) : SlotSem :=
  { slot := 0, illegal := illegalIf false (rsv ≠ 0), traps := [(trapSoftware, imm.setWidth 32)] }

def semAaddi (v : View) (aD aA : BitVec 4) (imm : BitVec 18) : SlotSem :=
  addrSem v aD [ra aA] (v.a aA + imm.signExtend 32)

def semA2addi (v : View) (aD aA : BitVec 4) (dr dc : BitVec 8) (rsv : BitVec 2) : SlotSem :=
  addrSem v aD [ra aA] (add2d (v.a aA) (dr.signExtend 16) (dc.signExtend 16)) (rsv ≠ 0)

def semAmov (v : View) (aD : BitVec 4) (sA : BitVec 6) (rsv : BitVec 16) : SlotSem :=
  addrSem v aD [rs sA] (v.s sA) (rsv ≠ 0)

def semAread (v : View) (sD : BitVec 6) (aA : BitVec 4) (rsv : BitVec 16) : SlotSem :=
  scalarSem v sD [ra aA] (some (v.a aA)) (rsv ≠ 0)

def semA2set (v : View) (aD : BitVec 4) (sA sB : BitVec 6) (rsv : BitVec 10) : SlotSem :=
  addrSem v aD [rs sA, rs sB] ((v.s sA).extractLsb' 0 16 ++ (v.s sB).extractLsb' 0 16 : BitVec 32) (rsv ≠ 0)

def semAadd (v : View) (aD aA : BitVec 4) (sB : BitVec 6) (rsv : BitVec 12) : SlotSem :=
  addrSem v aD [ra aA, rs sB] (v.a aA + v.s sB) (rsv ≠ 0)

def semA2add (v : View) (aD aA : BitVec 4) (sB : BitVec 6) (rsv : BitVec 12) : SlotSem :=
  addrSem v aD [ra aA, rs sB] (add2d (v.a aA) ((v.s sB).extractLsb' 16 16) ((v.s sB).extractLsb' 0 16)) (rsv ≠ 0)

/-- CSW: a switch after the bundle's slots issue, when the other context may run (R156, R59 rule 3). -/
def semCsw (_v : View) (rsv : BitVec 26) : SlotSem :=
  { slot := 0, illegal := illegalIf false (rsv ≠ 0), ctl := .csw }

/-- Entry of the tile's layer table named by a register's low byte (R156, R197). -/
def View.layer (v : View) (w : Word) : Byte := v.tile.layer.getD (fld w 0 8) 0

def semLtrd (v : View) (sD sL : BitVec 6) (rsv : BitVec 14) : SlotSem :=
  scalarSem v sD [rs sL] (some ((v.layer (v.s sL)).signExtend 32)) (rsv ≠ 0)

def semLtwr (v : View) (sL sV : BitVec 6) (rsv : BitVec 14) : SlotSem :=
  { slot := 0, srcs := [rs sL, rs sV], illegal := illegalIf false (rsv ≠ 0)
    eff := fun d => d.modTile v.t fun x => { x with layer := x.layer.set (fld (v.s sL) 0 8) ((v.s sV).setWidth 8) } }

/-- A reserved opcode raises ILLEGAL_INSTRUCTION with reason 0 (R89, R90). -/
def semReserved (_v : View) (slot : Fin 4) : SlotSem := { slot := slot.val, illegal := some 0 }

end Sys2Proof.Machine
end

