-- ==== Sys2Proof/Machine/Vector.lean ====
section
/-! DEFINITION. V slot: the vector engine and the predicates (R112 to R117, R145 to R155). -/

namespace Sys2Proof.Machine

/-- What one lane of an operation delivers: its word and its FPSTAT flags. -/
abbrev LaneRes := Word × BitVec 5

/-- Sources of an instruction that writes vD under predicate p: vD is one unless p is p0 (R114). -/
def vecSrcs (p : BitVec 3) (vD : BitVec 5) (srcs : List Reg) : List Reg :=
  srcs ++ rp p :: (if p = 0 then [] else [rv vD])

/-- A predicated lane-by-lane vector result: inactive lanes keep their value and set no flag (R114). -/
def View.lanesEff (v : View) (vD : BitVec 5) (p : BitVec 3) (f : Nat → LaneRes) : Dev → Dev := fun d =>
  let act := v.p p
  let rs := (List.range 64).map fun i => if act.getLsbD i then f i else (lane (v.v vD) i, 0)
  v.fp (orFlags (rs.map Prod.snd)) (v.wv vD (rs.map Prod.fst) d)

/-- A lane-by-lane vector slot. -/
def laneSem (v : View) (vD : BitVec 5) (p : BitVec 3) (srcs : List Reg) (illegal : Option Nat) (f : Nat → LaneRes) : SlotSem :=
  { slot := 2, srcs := vecSrcs p vD srcs, dests := [rv vD], illegal := illegal, eff := v.lanesEff vD p f }

/-- VFP functions (R113, R115); none for a reserved code. -/
def vfpFn (fn : Nat) : Option (Word → Word → LaneRes) :=
  match fn with
  | 0 => some fp32Add
  | 1 => some fp32Sub
  | 2 => some fp32Mul
  | 3 => some fp32Min
  | 4 => some fp32Max
  | 5 => some fun a _ => (fp32Abs a, 0)
  | 6 => some fun a _ => (fp32Neg a, 0)
  | _ => none

/-- VINT functions (R113, R115). -/
def vintFn (fn : Nat) : Option (Word → Word → LaneRes) :=
  match fn with
  | 0x00 => some fun a b => (a + b, 0)
  | 0x01 => some fun a b => (a - b, 0)
  | 0x02 => some fun a b => (a * b, 0)
  | 0x03 => some fun a b => (a &&& b, 0)
  | 0x04 => some fun a b => (a ||| b, 0)
  | 0x05 => some fun a b => (a ^^^ b, 0)
  | 0x06 => some fun a b => (a <<< shAmt b, 0)
  | 0x07 => some fun a b => (a >>> shAmt b, 0)
  | 0x08 => some fun a b => (a.sshiftRight (shAmt b), 0)
  | 0x09 => some fun a b => (if a.slt b then a else b, 0)
  | 0x0A => some fun a b => (if a.slt b then b else a, 0)
  | 0x0B => some fun a b => satInt32 (a.toInt + b.toInt)
  | 0x0C => some fun a b => satInt32 (a.toInt - b.toInt)
  | _ => none

/-- VSOP functions: VINT's, FADD, FMUL and BCAST with sB broadcast (R113). -/
def vsopFn (fn : Nat) : Option (Word → Word → LaneRes) :=
  match fn with
  | 0x10 => some fp32Add
  | 0x11 => some fp32Mul
  | 0x20 => some fun _ s => (s, 0)
  | _ => vintFn fn

def laneFn (f : Option (Word → Word → LaneRes)) (a b : Word) : LaneRes :=
  match f with
  | some g => g a b
  | none => (0, 0)

/-- VFP; FABS and FNEG have no second source and their vB field is RSV. -/
def semVfp (v : View) (vD vA vB : BitVec 5) (p : BitVec 3) (fn : BitVec 8) : SlotSem :=
  let f := vfpFn fn.toNat
  let unary := fn.toNat = 5 ∨ fn.toNat = 6
  laneSem v vD p (if unary then [rv vA] else [rv vA, rv vB]) (illegalIf false (f.isNone || (unary && vB ≠ 0)))
    fun i => laneFn f (lane (v.v vA) i) (lane (v.v vB) i)

def semVfma (v : View) (vD vA vB vC : BitVec 5) (p : BitVec 3) (rsv : BitVec 3) : SlotSem :=
  laneSem v vD p [rv vA, rv vB, rv vC] (illegalIf false (rsv ≠ 0))
    fun i => fp32Fma (lane (v.v vA) i) (lane (v.v vB) i) (lane (v.v vC) i)

def semVint (v : View) (vD vA vB : BitVec 5) (p : BitVec 3) (fn : BitVec 8) : SlotSem :=
  let f := vintFn fn.toNat
  laneSem v vD p [rv vA, rv vB] (illegalIf false f.isNone) fun i => laneFn f (lane (v.v vA) i) (lane (v.v vB) i)

/-- VSOP; BCAST reads only sB and its vA field is RSV. -/
def semVsop (v : View) (vD vA : BitVec 5) (sB : BitVec 6) (p : BitVec 3) (fn : BitVec 7) : SlotSem :=
  let f := vsopFn fn.toNat
  let bcast := fn.toNat = 0x20
  laneSem v vD p (if bcast then [rs sB] else [rv vA, rs sB]) (illegalIf false (f.isNone || (bcast && vA ≠ 0)))
    fun i => laneFn f (lane (v.v vA) i) (v.s sB)

/-- VCMP conditions (R113, R115); none for a reserved code. -/
def vcmpFn (cond : Nat) (a b : Word) : Option Bool :=
  let nan := (fp32 a).isNan || (fp32 b).isNan
  match cond with
  | 0 => some (!nan && !(fp32 a).lt (fp32 b) && !(fp32 b).lt (fp32 a))
  | 1 => some (!nan && (fp32 a).lt (fp32 b))
  | 2 => some (!nan && !(fp32 b).lt (fp32 a))
  | 3 => some nan
  | 4 => some (a == b)
  | 5 => some (a.slt b)
  | 6 => some (a.ult b)
  | 7 => some (a != b)
  | _ => none

/-- VCMP writes 0 into the bit of every inactive lane (R114). -/
def semVcmp (v : View) (pD : BitVec 3) (vA vB : BitVec 5) (p : BitVec 3) (cond : BitVec 4) (rsv : BitVec 6) : SlotSem :=
  { slot := 2, srcs := [rv vA, rv vB, rp p] ++ (if p = 0 then [] else [rp pD]), dests := [rp pD]
    illegal := illegalIf false (rsv ≠ 0 || 8 ≤ cond.toNat)
    eff := v.wp pD (bitsOf 64 fun i =>
      (v.p p).getLsbD i && (vcmpFn cond.toNat (lane (v.v vA) i) (lane (v.v vB) i)).getD false) }

/-- VSEL uses its p as a selector and writes all lanes (R114). -/
def semVsel (v : View) (vD vA vB : BitVec 5) (p : BitVec 3) (rsv : BitVec 8) : SlotSem :=
  { slot := 2, srcs := [rv vA, rv vB, rp p], dests := [rv vD], illegal := illegalIf false (rsv ≠ 0)
    eff := v.wv vD (selectLanes (v.p p) (v.v vA) (v.v vB)) }

/-- The conversion of VCVT (R116, R145): its result word, its outcome and the Barometer code it counts under. -/
def vcvtFn (fn : Nat) (x s : Word) : Option (Word × Conv × Option Nat) :=
  let same (c : Conv) (fmt : Option Nat) : Word × Conv × Option Nat := (BitVec.ofNat 32 c.enc, c, fmt)
  let sext (w : Nat) (c : Conv) (fmt : Nat) : Word × Conv × Option Nat := ((BitVec.ofNat w c.enc).signExtend 32, c, some fmt)
  match fn with
  | 0 => some (same (fmtBf16.conv true .rne (fp32 x)) (some 0))
  | 1 => some (same (fmtFp32.conv true .rne (fmtBf16.decode (fld x 0 16))) none)
  | 2 => some (sext 8 (convIntScaled 8 .rne (fp32 x) s) 9)
  | 3 => some (same (convScaleUp (x.setWidth 8).toInt s) (some 2))
  | 4 => some (same (fmtFp32.conv true .rne (FVal.ofInt x.toInt)) (some 2))
  | 5 => some (sext 8 (convIntSat 8 x.toInt) 9)
  | 6 => some (same (fmtFp16.conv true .rne (fp32 x)) (some 1))
  | 7 => some (same (fmtFp32.conv true .rne (fmtFp16.decode (fld x 0 16))) none)
  | 8 => some (sext 4 (convIntScaled 4 .rne (fp32 x) s) 10)
  | 9 => some (same (convScaleUp (x.setWidth 4).toInt s) (some 2))
  | _ => none

def activeLanes (p : BitVec 64) : List Nat := onesOf p

/-- The functions of VCVT whose conversion has a scale; the others ignore sB (R116). -/
def vcvtScaled (f : Nat) : Bool := f = 2 || f = 3 || f = 8 || f = 9

/-- VCVT: narrowing conversions count under tag 0 and round to nearest even (R146). -/
def semVcvt (v : View) (vD vA : BitVec 5) (sB : BitVec 6) (p : BitVec 3) (fn : BitVec 7) : SlotSem :=
  let f := fn.toNat
  let one (i : Nat) := vcvtFn f (lane (v.v vA) i) (v.s sB)
  let act := activeLanes (v.p p)
  { slot := 2, srcs := vecSrcs p vD ([rv vA] ++ if vcvtScaled f then [rs sB] else []), dests := [rv vD]
    illegal := illegalIf (v.exact && 6 ≤ f && f ≤ 9) (10 ≤ f)
    eff := fun d =>
      let d := v.lanesEff vD p (fun i => match one i with
        | some (w, c, _) => (w, c.flags)
        | none => (0, 0)) d
      match (one 0).bind fun r => r.2.2 with
      | some fmt => d.baroTile v.t 0 fmt (act.filterMap fun i => (one i).map fun r => r.2.1)
      | none => d }

/-- One combining step of VRED (R117). -/
def vredOp (fn : Nat) (a b : Word) : LaneRes :=
  match fn with
  | 0 => fp32Add a b
  | 1 => fp32Max a b
  | 2 => fp32Min a b
  | 3 => (a + b, 0)
  | 4 => (if a.slt b then b else a, 0)
  | _ => (if a.slt b then a else b, 0)

/-- The identity of each reduction (R117). -/
def vredId (fn : Nat) : Word := [0x80000000#32, 0xFF800000#32, 0x7F800000#32, 0, 0x80000000#32, 0x7FFFFFFF#32].getD fn 0

/-- The fixed tree of R117 over 2^k words: halves combine until one word is left. -/
def reduceTree (op : Word → Word → LaneRes) : Nat → List Word → LaneRes
  | 0, xs => (xs.getD 0 0, 0)
  | k + 1, xs =>
    let rs := List.zipWith op (xs.take (2 ^ k)) (xs.drop (2 ^ k))
    let r := reduceTree op k (rs.map Prod.fst)
    (r.1, orFlags (rs.map Prod.snd) ||| r.2)

def semVred (v : View) (sD : BitVec 6) (vA : BitVec 5) (p : BitVec 3) (fn : BitVec 6) (rsv : BitVec 6) : SlotSem :=
  let f := fn.toNat
  let xs := (List.range 64).map fun i => if (v.p p).getLsbD i then lane (v.v vA) i else vredId f
  { slot := 2, srcs := [rv vA, rp p], dests := [rs sD], illegal := illegalIf false (rsv ≠ 0 || 6 ≤ f)
    eff := fun d => let r := reduceTree (vredOp f) 6 xs; v.fp r.2 (v.ws sD r.1 d) }

def semVext (v : View) (sD : BitVec 6) (vA : BitVec 5) (sB : BitVec 6) (rsv : BitVec 9) : SlotSem :=
  { slot := 2, srcs := [rv vA, rs sB], dests := [rs sD], illegal := illegalIf false (rsv ≠ 0)
    eff := v.ws sD (lane (v.v vA) (fld (v.s sB) 0 6)) }

def semVins (v : View) (vD : BitVec 5) (sA sB : BitVec 6) (rsv : BitVec 9) : SlotSem :=
  { slot := 2, srcs := [rs sA, rs sB, rv vD], dests := [rv vD], illegal := illegalIf false (rsv ≠ 0)
    eff := v.wv vD (mkLanes fun i => if i = fld (v.s sB) 0 6 then v.s sA else lane (v.v vD) i) }

def semVmov (v : View) (vD vA : BitVec 5) (p : BitVec 3) (rsv : BitVec 13) : SlotSem :=
  laneSem v vD p [rv vA] (illegalIf false (rsv ≠ 0)) fun i => (lane (v.v vA) i, 0)

def semViota (v : View) (vD : BitVec 5) (sB : BitVec 6) (p : BitVec 3) (rsv : BitVec 12) : SlotSem :=
  laneSem v vD p [rs sB] (illegalIf false (rsv ≠ 0)) fun i => (BitVec.ofNat 32 i + v.s sB, 0)

/-- PLOGIC functions (R113). -/
def plogicFn (fn : Nat) (a b : BitVec 64) : Option (BitVec 64) :=
  match fn with
  | 0 => some (a &&& b)
  | 1 => some (a ||| b)
  | 2 => some (a ^^^ b)
  | 3 => some (a &&& ~~~ b)
  | 4 => some (~~~ a)
  | _ => none

def semPlogic (v : View) (pD pA pB : BitVec 3) (fn : BitVec 4) (rsv : BitVec 13) : SlotSem :=
  let r := plogicFn fn.toNat (v.p pA) (v.p pB)
  { slot := 2, srcs := [rp pA, rp pB], dests := [rp pD], illegal := illegalIf false (rsv ≠ 0 || r.isNone)
    eff := v.wp pD (r.getD 0) }

def semPmov (v : View) (pD : BitVec 3) (sA sB : BitVec 6) (rsv : BitVec 11) : SlotSem :=
  { slot := 2, srcs := [rs sA, rs sB], dests := [rp pD], illegal := illegalIf false (rsv ≠ 0)
    eff := v.wp pD (joinWords (v.s sB) (v.s sA)) }

/-- The registers of pair n (R148, R155, R159). -/
def pairRegs (n : BitVec 5) : List Reg := [.s (2 * n.toNat), .s (2 * n.toNat + 1)]
def View.pair (v : View) (n : BitVec 5) : DWord := v.c.pair n.toNat

/-- The 64 words of a list of 256 bytes. -/
def wordsOf (bs : List Byte) : Lanes := mkLanes fun i => BitVec.ofNat 32 (ofBytesLE ((bs.drop (4 * i)).take 4))

/-- VCVTT (R147 to R150, R189): the pair names tag and index base; a residual-class tag traps. -/
def semVcvtt (v : View) (vD vA vO n : BitVec 5) (p : BitVec 3) (fn : BitVec 3) : SlotSem :=
  let pair := v.pair n
  let tag := v.d.tag v.core (fld pair 48 10)
  let f := fn.toNat
  let mode (i : Nat) : Rounding := v.d.roundingOf v.core tag (fld pair 0 48 + (lane (v.v vO) i).toNat)
  let y (i : Nat) : FVal := (fp32 (lane (v.v vA) i)).scale (tag.offset v.tile.layer)
  let act := activeLanes (v.p p)
  let fmt := if f ≤ 1 then f else f + 1
  { slot := 2, srcs := pairRegs n ++ vecSrcs p vD [rv vA, rv vO], dests := [rv vD]
    illegal := illegalIf v.exact false
    traps := if tag.cls = 2 then [(trapIllegal, BitVec.ofNat 32 (2 + 16 * 2))] else []
    eff := fun d =>
      if f ≤ 1 then
        let one (i : Nat) := convPlain f (mode i) (y i) 0
        let d := v.lanesEff vD p (fun i => (BitVec.ofNat 32 (one i).enc, (one i).flags)) d
        d.baroTile v.t tag.num fmt (act.map one)
      else
        let k := mxOfCode fmt
        let block (b : Nat) := mxBlock k (fun i => mode (32 * b + i))
          ((List.range 32).map fun i => if (v.p p).getLsbD (32 * b + i) then y (32 * b + i) else FVal.zero false)
        let b0 := block 0
        let b1 := block 1
        let span (b : Nat × List Conv × BitVec 5) := packElems k.bits (b.2.1.map Conv.enc)
        let bytes := span b0 ++ span b1 ++ List.replicate (252 - 8 * k.bits) 0 ++
          [BitVec.ofNat 8 b0.1, BitVec.ofNat 8 b1.1, 0, 0]
        let d := v.fp (b0.2.2 ||| b1.2.2) (v.wv vD (wordsOf bytes) d)
        d.baroTile v.t tag.num fmt (b0.2.1 ++ b1.2.1) }

/-- One lane of UPDX (R151): w + u * 2^-off, rounded once. -/
def updxLane (w u : Word) (off : Int) : LaneRes :=
  fp32Arith ((fp32 w).add ((fp32 u).scale (-off))) [fp32 w, fp32 u]

/-- The two terms of an active lane (R152), with the flags of their roundings. -/
def updxTerms (w u : Word) (off : Int) : LaneRes × LaneRes :=
  let ut := fp32Arith ((fp32 u).scale (-off)) [fp32 u]
  let u2 := fp32Mul ut.1 ut.1
  ((u2.1, ut.2 ||| u2.2), fp32Mul w w)

/-- UPDX (R151, R152, R201, R202): it stalls while the layer's accumulators of the previous step are unread. -/
def semUpdx (v : View) (vD vA : BitVec 5) (sL : BitVec 6) (p : BitVec 3) (rsv : BitVec 7) : SlotSem :=
  let layer := fld (v.s sL) 0 8
  let off : Int := (v.tile.layer.getD layer 0).toInt
  let act := v.p p
  let w (i : Nat) := lane (v.v vD) i
  let u (i : Nat) := lane (v.v vA) i
  let collect := v.d.baroOn v.core
  { slot := 2, srcs := [rs sL, rv vA, rv vD, rp p], dests := [rv vD], illegal := illegalIf v.exact (rsv ≠ 0)
    needs := [.ratio layer]
    eff := fun d =>
      let d := v.lanesEff vD p (fun i => updxLane (w i) (u i) off) d
      if !collect then d else
      let terms := (List.range 64).map fun i =>
        if act.getLsbD i then updxTerms (w i) (u i) off else ((0x80000000#32, 0), (0x80000000#32, 0))
      let su := reduceTree fp32Add 6 (terms.map fun t => t.1.1)
      let sw := reduceTree fp32Add 6 (terms.map fun t => t.2.1)
      let r := v.tile.ratioOf layer
      let u2 := fp32Add r.u2 su.1
      let w2 := fp32Add r.w2 sw.1
      let flags := orFlags (terms.map fun t => t.1.2 ||| t.2.2) ||| su.2 ||| sw.2 ||| u2.2 ||| w2.2
      let r' : Ratio := { r with u2 := u2.1, w2 := w2.1, count := r.count + BitVec.ofNat 32 (popCount act) }
      v.fp flags (d.modTile v.t fun x => { x with ratio := x.ratio.set layer r' }) }

/-- W64 element i of a vector (R154). -/
def w64Of (l : Lanes) (i : Nat) : DWord := joinWords (lane l (2 * i + 1)) (lane l (2 * i))

/-- Writes pairs whose lane 2i is active: the result of the function given, with its flags. -/
def View.pairsEff (v : View) (vD : BitVec 5) (p : BitVec 3) (f : Nat → DWord × BitVec 5) : Dev → Dev :=
  v.lanesEff vD (0 : BitVec 3) fun i =>
    if (v.p p).getLsbD (i / 2 * 2) then
      let r := f (i / 2)
      (if i % 2 = 0 then loWord r.1 else hiWord r.1, r.2)
    else (lane (v.v vD) i, 0)

/-- Writes lanes 0 to 31 from W64 elements under the bit of lane 2i, and zero in lanes 32 to 63 under their own bits. -/
def View.halfEff (v : View) (vD : BitVec 5) (p : BitVec 3) (f : Nat → LaneRes) : Dev → Dev :=
  v.lanesEff vD (0 : BitVec 3) fun i =>
    if i < 32 then if (v.p p).getLsbD (2 * i) then f i else (lane (v.v vD) i, 0)
    else if (v.p p).getLsbD i then (0, 0) else (lane (v.v vD) i, 0)

/-- VWOP (R154); its conversions count under tag 0 (R188). -/
def semVwop (v : View) (vD vA : BitVec 5) (sB : BitVec 6) (p : BitVec 3) (fn : BitVec 7) : SlotSem :=
  let f := fn.toNat
  let sigma : Int := (v.s sB).toInt
  let act := activeLanes (v.p p)
  let pairs := (List.range 32).filter fun i => (v.p p).getLsbD (2 * i)
  let toW (w : Nat) (i : Nat) := convToW w .rne (fp32 (lane (v.v vA) i)) sigma
  let from32 (i : Nat) := convFromW (lane (v.v vA) i) sigma
  let from64 (i : Nat) := convFromW (w64Of (v.v vA) i) sigma
  let narrow (i : Nat) := convW64to32 (w64Of (v.v vA) i)
  let word (c : Conv) : LaneRes := (BitVec.ofNat 32 c.enc, c.flags)
  let srcs := [rv vA, rp p] ++ (if f = 0 ∨ f = 1 ∨ p ≠ 0 then [rv vD] else []) ++
    (if 2 ≤ f ∧ f ≤ 5 then [rs sB] else [])
  { slot := 2, srcs := srcs, dests := [rv vD], illegal := illegalIf v.exact (8 ≤ f)
    eff := fun d =>
      match f with
      | 0 => v.lanesEff vD p (fun i => wAdd (lane (v.v vD) i) (lane (v.v vA) i)) d
      | 1 => v.pairsEff vD p (fun i => wAdd (w64Of (v.v vD) i) (w64Of (v.v vA) i)) d
      | 2 => (v.lanesEff vD p (fun i => word (toW 32 i)) d).baroTile v.t 0 11 (act.map (toW 32))
      | 3 => (v.lanesEff vD p (fun i => word (from32 i)) d).baroTile v.t 0 2 (act.map from32)
      | 4 => (v.pairsEff vD p (fun i => (BitVec.ofNat 64 (toW 64 i).enc, (toW 64 i).flags)) d).baroTile v.t 0 12
               (pairs.map (toW 64))
      | 5 => (v.halfEff vD p (fun i => word (from64 i)) d).baroTile v.t 0 2 (pairs.map from64)
      | 6 => v.pairsEff vD p (fun i => (w32to64 (lane (v.v vA) i), 0)) d
      | _ => (v.halfEff vD p (fun i => word (narrow i)) d).baroTile v.t 0 11 (pairs.map narrow) }

/-- VCRC (R155): folds lanes 0 to len, least significant byte first, into the pair. -/
def semVcrc (v : View) (n vA : BitVec 5) (len : BitVec 6) (rsv : BitVec 10) : SlotSem :=
  let bytes := (List.range (len.toNat + 1)).flatMap fun i => bytesLE 4 (lane (v.v vA) i).toNat
  let lo : BitVec 6 := BitVec.ofNat 6 (2 * n.toNat)
  { slot := 2, srcs := rv vA :: pairRegs n, dests := pairRegs n, illegal := illegalIf false (rsv ≠ 0)
    eff := fun d => let c := crc64 (v.pair n) bytes; v.ws (lo + 1) (hiWord c) (v.ws lo (loWord c) d) }

end Sys2Proof.Machine
end

