-- ==== Sys2Proof/Machine/Global.lean ====
section
/-! DEFINITION. Serving the global memory space (15 R423 to R428, R433), landing counters (08 R226 to R230), mirror
regions (19 R540 to R542), and the exchange writes PUT and PUTG with the other landing-counter instructions
(05 R157 to R166). -/

namespace Sys2Proof.Machine

/-! ### Landing counters -/

/-- Sends the message of a landing watch (R164): kind 3, counter value and number. -/
def Dev.landMsg (d : Dev) (t lc : Nat) (w : LWatch) (val : Word) : Dev :=
  d.sendMsg (tileCore t)
    { kind := 3, cls := true, dq := w.qn, sender := d.tileSender t w.bg, cq := none
      payload := [val, BitVec.ofNat 32 lc], watch := none, release := none } (.tile t w.qn)

/-- Evaluates the watch of a counter after a change (R230). -/
def Dev.landEval (d : Dev) (t lc : Nat) : Dev :=
  let x := d.tile t
  match x.lwatch.get? lc with
  | none => d
  | some w =>
    if meets w.eq (x.lc lc) w.target then
      (d.setTile t { x with lwatch := x.lwatch.erase lc }).landMsg t lc w (x.lc lc)
    else d

/-- Stores a counter and evaluates its watch. -/
def Dev.setLanding (d : Dev) (t lc : Nat) (w : Word) : Dev := (d.modTile t fun x => x.setLc lc w).landEval t lc

/-- A write of n bytes has landed: the counter rises by 1, or by n in byte mode (R228). -/
def Dev.landed (d : Dev) (t lc n : Nat) : Dev :=
  let x := d.tile t
  d.setLanding t lc (x.lc lc + BitVec.ofNat 32 (if x.lcBytes lc then n else 1))

/-! ### Addresses (R423 to R427) -/

/-- The core of the endpoint by which a packet enters the die network, whose map translates what it addresses (R346, R360): the edge router
of its port; for one that never left the package edge router 0 (DESIGN CHOICE, log entry 27). -/
def srcCore : PktSrc → Nat
  | .port p => portCore p
  | .die _ => edgeCore 0

/-- What n bytes at bits [47:0] of an address name, translated by the map of core m (R346), or the error status of R427. -/
def Dev.translate (d : Dev) (m a n : Nat) : Except Nat GSpot :=
  let off := a % 2 ^ 46
  match a / 2 ^ 46 % 4 with
  | 0 => if (off + n - 1) / 2 ^ 39 ≠ 0 then .error 1 else .ok (.hbm off)
  | 1 =>
    if off / 2 ^ 32 ≠ 0 then .error 1
    else if off / 2 ^ 31 = 1 then
      let l := off / 2 ^ 27 % 8
      let row := off / 2 ^ 23 % 16
      if off / 2 ^ 30 % 2 ≠ 0 || !d.lcoreBound m l then .error 1
      else if 12 ≤ row then .error (if d.isFenced (.core (d.physCore m l)) then 3 else 8)
      else .ok (.spad (d.tileOf m l row (off / 2 ^ 19 % 16)) (off % 2 ^ 19))
    else
      let l := off / 2 ^ 24 % 8
      if off / 2 ^ 27 % 16 ≠ 0 || !d.lcoreBound m l then .error 1
      else .ok (.pool (d.physCore m l) (off % 2 ^ 24))
  | 2 => .error (if off / 2 ^ 26 ≠ 0 then 1 else 8)
  | _ => .error 1

/-- A unit that n bytes at a spot touch is fenced (R427). -/
def Dev.spotFenced (d : Dev) (n : Nat) : GSpot → Bool
  | .hbm a => (List.range 8).any fun i => a / 2 ^ 36 ≤ i && i ≤ (a + n - 1) / 2 ^ 36 && d.isFenced (.mem i)
  | .pool c _ => d.isFenced (.core c)
  | .spad t _ => d.isFenced (.tile t) || d.isFenced (.core (tileCore t))

/-- The spot of an access that is served now, or its error status. -/
def Dev.spotBy (d : Dev) (m a n : Nat) : Except Nat GSpot :=
  match d.translate m a n with
  | .error e => .error e
  | .ok s => if d.spotFenced n s then .error 3 else .ok s

/-- A pool byte that a request of the global space may touch. -/
def Dev.poolServed (d : Dev) (c off : Nat) : Bool :=
  fld (d.preg (.pool c) 0x80) 0 24 ≤ off && off < fld (d.preg (.pool c) 0x84) 0 25 &&
  !((d.spillArea c).1 ≤ off && off < (d.spillArea c).2)

def Dev.poolSpanServed (d : Dev) (c off n : Nat) : Bool := (List.range n).all fun i => d.poolServed c (off + i)

/-- Splits bytes at 64-byte lines. -/
def splitLines : Nat → Nat → List Byte → List (Nat × List Byte)
  | 0, _, _ => []
  | _ + 1, _, [] => []
  | f + 1, a, bs =>
    let n := 64 - a % 64
    (a, bs.take n) :: splitLines f (a + n) (bs.drop n)

/-- A pool write by a unit that is no tile; `back` is answered once all of it has been performed, if some of it is held. -/
def Dev.poolWriteUnit (d : Dev) (c a : Nat) (bs : List Byte) (back : Back := .none) : Dev :=
  ((splitLines (bs.length + 1) a bs).foldl (fun d' x =>
    d'.poolWrite c { seq := d.netSeq, tile := 1632, bg := false, addr := x.1, bytes := x.2, back := back }) d).numbered

/-- A write that reaches the pool now is held behind a window of a line that it touches (R234). -/
def Dev.poolHolds (d : Dev) (c a n : Nat) : Bool := (linesOf a n).any fun l => d.lineOps c l ≠ []

/-- RD (R427): the bytes, or the status. -/
def Dev.readSpot (d : Dev) (s : GSpot) (n : Nat) : Except Nat (List Byte) :=
  match s with
  | .hbm a => .ok (d.hbm.readBytes a n)
  | .pool c off => if d.poolSpanServed c off n then .ok ((d.poolNow c).readBytes off n) else .error 8
  | .spad t a => if a + n ≤ spadGeneral then .ok ((d.tile t).spad.readBytes a n) else .error 8

/-- A read of n bytes, translated by the map of core m. -/
def Dev.readBy (d : Dev) (m a n : Nat) : Except Nat (List Byte) :=
  match d.spotBy m a n with
  | .error e => .error e
  | .ok s => d.readSpot s n

/-- The core of the unit that holds a spot: a memory port's is the core of its number (R344). -/
def GSpot.home : GSpot → Nat
  | .hbm a => a / 2 ^ 36
  | .pool c _ => c
  | .spad t _ => tileCore t

/-- The core of the unit that answers for an address. -/
def Dev.homeOf (d : Dev) (m a : Nat) : Option Nat := match d.translate m a 1 with
  | .ok s => some s.home
  | .error _ => none

/-- A data write arrives at a tile (R227, R228). -/
def Dev.landWrite (d : Dev) (t a : Nat) (bs : List Byte) (lc : Option Nat) : Except Nat Dev :=
  if spadGeneral < a + bs.length then .error 8
  else if !(d.tile t).inWindow a bs.length then .error 2
  else
    let d := d.modTile t fun x => { x with spad := x.spad.writeBytes a bs }
    .ok (match lc with
      | some n => d.landed t n bs.length
      | none => d)

/-! ### Mirror regions (R540 to R542) -/

/-- Outcome of a write: done, waiting for the ACK of its mirror writes, or the error status it draws. -/
inductive WOut where
  | ok | wait | err (status : Nat)
deriving DecidableEq, Repr

/-- Valid and unbroken mirror entries that n bytes at HBM offset a touch: entry, overlap start and length, destination. -/
def Dev.mirrorsOf (d : Dev) (a n : Nat) : List (Nat × Nat × Nat × Nat) :=
  (List.range 64).filterMap fun i =>
    let r (k : Nat) : Word := d.preg .rsl (0x100 + 16 * i + k)
    let src := fld (r 0) 0 30 * 65536
    let size := fld (r 8) 0 24 * 65536
    let lo := max a src
    let hi := min (a + n) (src + size)
    if bit (r 12) 0 && !bit (r 12) 1 && lo < hi then
      some (i, lo, hi - lo, fld (r 12) 16 16 * 2 ^ 48 + fld (r 4) 0 30 * 65536 + (lo - src))
    else none

/-- Cuts a write into packets of at most 256 bytes. -/
def writeParts (type lc : Nat) : Nat → Nat → List Byte → List ReqPart
  | 0, _, _ => []
  | _ + 1, _, [] => []
  | f + 1, a, bs =>
    { type := type, addr := a, lc := lc, bytes := min 256 bs.length, fn := 0, data := bs.take 256 } ::
      writeParts type lc f (a + 256) (bs.drop 256)

/-- The package that a mirror write goes to. -/
def MirFly.pos (m : MirFly) : Nat := m.dst / 2 ^ 48 % 65536

/-- Sends a mirror write, behind those to its package that wait, if an outstanding-request entry is free; else it waits (R541). -/
def Dev.mirrorSend (d : Dev) (m : MirFly) : Dev :=
  if (d.mirQ.any fun x => x.pos == m.pos) || !d.canRequest m.pos then { d with mirQ := d.mirQ ++ [m] }
  else d.request (.mirror m.entry m.back) m.dst (writeParts typeWr 0 (m.data.length + 1) m.dst m.data)

/-- Entries have become free: the mirror writes that wait are sent in order. -/
def Dev.mirrorDrain (d : Dev) : Dev := d.mirQ.foldl Dev.mirrorSend { d with mirQ := [] }

/-- Sends a write that took effect at HBM offset a to the buddies (R540, R541). -/
def Dev.mirror (d : Dev) (a n : Nat) (back : Back) : Dev × WOut :=
  match d.mirrorsOf a n with
  | [] => (d, .ok)
  | ms =>
    if !d.pageOn .rsl then (d, .err 5) else
    (ms.foldl (fun d m =>
      (d.bump .rsl 0xD0 m.2.2.1).mirrorSend { entry := m.1, back := back, dst := m.2.2.2, data := d.hbm.readBytes m.2.1 m.2.2.1 }) d, .wait)

/-- Mirror writes of an original that have not been acknowledged. -/
def Dev.mirrorLeft (d : Dev) (b : Back) : Bool := (d.mirQ.any fun m => m.back == b) || d.outReqs.any fun r => match r.issuer with
  | .mirror _ b' => b' == b
  | _ => false

/-- An original that has been answered is answered no second time: its other mirror writes end for nothing. -/
def Dev.forgetBack (d : Dev) (b : Back) : Dev :=
  { d with
    mirQ := d.mirQ.map fun m => if m.back = b then { m with back := .none } else m
    outReqs := d.outReqs.map fun r => match r.issuer with
      | .mirror i b' => if b' = b then { r with issuer := .mirror i .none } else r
      | _ => r }

/-- A write to a spot that is not fenced (R427), with its mirror; one that the pool holds is answered later (R432). -/
def Dev.writeSpot (d : Dev) (s : GSpot) (bs : List Byte) (lc : Option Nat) (back : Back) : Dev × WOut :=
  match s with
  | .hbm o => ({ d with hbm := d.hbm.writeBytes o bs }).mirror o bs.length back
  | .pool c o =>
    if d.poolSpanServed c o bs.length then
      (d.poolWriteUnit c o bs back, if d.poolHolds c o bs.length then .wait else .ok)
    else (d, .err 8)
  | .spad t o =>
    match d.landWrite t o bs lc with
    | .ok d' => (d', .ok)
    | .error e => (d, .err e)

/-- A write to bits [47:0] of an address, translated by the map of core m. -/
def Dev.writeBy (d : Dev) (m a : Nat) (bs : List Byte) (lc : Option Nat) (back : Back) : Dev × WOut :=
  match d.spotBy m a bs.length with
  | .error e => (d, .err e)
  | .ok s => d.writeSpot s bs lc back

/-- Words of a byte list. -/
def wordsLE : Nat → List Byte → List Word
  | 0, _ => []
  | n + 1, bs => BitVec.ofNat 32 (ofBytesLE (bs.take 4)) :: wordsLE n (bs.drop 4)

/-- ADD (R427, R433), translated by the map of core m: fn 0 modulo 2^32, fn 1 a W32 add; another fn is reserved and has no target that takes it. -/
def Dev.addBy (d : Dev) (m a fn : Nat) (bs : List Byte) (back : Back) : Dev × WOut :=
  let ws := wordsLE (bs.length / 4) bs
  match d.spotBy m a bs.length with
  | .error e => (d, .err e)
  | .ok (.hbm o) =>
    if 1 < fn then (d, .err 8) else
    let sum (x y : Word) : Word := if fn = 0 then x + y else (wAdd x y).1
    ({ d with hbm := (ws.mapIdx fun i w => (i, w)).foldl (fun (m : Mem) (x : Nat × Word) =>
        m.setWord (o + 4 * x.1) (sum (m.word (o + 4 * x.1)) x.2)) d.hbm }).mirror o bs.length back
  | .ok (.spad t o) =>
    if fn = 0 && lcAddr 0 ≤ o && o + bs.length ≤ lcAddr 64 then
      ((ws.mapIdx fun i w => (i, w)).foldl (fun (d : Dev) (x : Nat × Word) =>
        let n := (o - lcAddr 0) / 4 + x.1
        d.setLanding t n ((d.tile t).lc n + x.2)) d, .ok)
    else (d, .err 8)
  | .ok (.pool _ _) => (d, .err 8)

/-! ### Error replies to tiles (R227, R435) -/

/-- FAB_ERR_INFO1 (R458). -/
def Dev.issuerInfo (d : Dev) (i : Issuer) : Word :=
  match i with
  | .put t bg => packFields 32 [(0, d.logCore t), (5, b2n bg), (7, d.logPos (tileCore t) (tileRow t) (tilePos t)), (11, tileRow t)]
  | .stream c k _ => packFields 32 [(0, d.logOf c), (3, 1), (5, k)]
  | .coll c n => packFields 32 [(0, d.logOf c), (3, 2), (5, n)]
  | _ => packFields 32 [(3, 3)]

/-- The record of the last ERR (R458). -/
def Dev.errRecord (d : Dev) (i : Issuer) (status type pos : Nat) (addr : DWord) : Dev :=
  let d := d.setPreg .fab 0xA4 (packFields 32 [(0, status), (8, type), (16, pos)])
  let d := d.setPreg .fab 0xA8 (d.issuerInfo i)
  (d.setPreg .fab 0xB0 (loWord addr)).setPreg .fab 0xB4 (hiWord addr)

/-- REMOTE_ERROR with its record (R435). -/
def Dev.remoteError (d : Dev) (i : Issuer) (status type pos : Nat) (addr : DWord) : Dev :=
  (d.errRecord i status type pos addr).raise .fab 0

/-- The space-01 form of a scratchpad byte of this package (R425). -/
def Dev.spadAddr (d : Dev) (t a : Nat) : DWord :=
  BitVec.ofNat 64 (d.position * 2 ^ 48 + 2 ^ 46 + 2 ^ 31 + d.logOf (tileCore t) * 2 ^ 27 + tileRow t * 2 ^ 23 +
    d.logPos (tileCore t) (tileRow t) (tilePos t) * 2 ^ 19 + a)

/-! ### Exchange writes (R25, R158 to R161) -/

/-- The package that a PUTG names. -/
def PutItem.package (p : PutItem) : Option Nat := p.glob.map fun g => fld g 48 16

/-- Write p keeps its place before write q: one path from one tile to one tile (R345), or one context to one package (R161). -/
def PutItem.before (p q : PutItem) : Bool :=
  p.src == q.src && ((p.dest.isSome && p.dest == q.dest) || (p.bg == q.bg && p.package.isSome && p.package == q.package))

/-- A write enters the die network: it is numbered, and the destination of one that stays in the package is translated by the map of its
own core (R346), once and for all (R428). -/
def Dev.injectPut (d : Dev) (p : PutItem) : Dev :=
  let p : PutItem := match p.glob with
    | some g =>
      if fld g 48 16 ≠ d.position then p else
      match d.translate (tileCore p.src) (g.toNat / 4 * 4) p.bytes.length with
      | .ok s => { p with spot := some s }
      | .error e => { p with status := e }
    | none => { p with spot := some (.spad (d.tileOf (tileCore p.src) p.lcore p.row p.lpos) p.addr) }
  (({ d with puts := d.puts ++ [{ p with seq := d.netSeq }] }).numbered).injectPkt (tileCore p.src) 0

/-- A PUTG to another package becomes a request (R436). -/
def Dev.requestPut (d : Dev) (p : PutItem) (g : DWord) : Dev :=
  let a := g.toNat / 4 * 4
  d.request (.put p.src p.bg) a (writeParts (if p.lc.isSome then typeWrl else typeWr) (p.lc.getD 0) (p.bytes.length + 1) a p.bytes)

/-- A write leaves its tile: a PUTG to another package becomes a request when there is an entry for it and no earlier one of its
context to that package waits; any other write travels on the die. -/
def Dev.launchPut (d : Dev) (p : PutItem) : Dev :=
  match p.glob with
  | none => d.injectPut p
  | some g =>
    let pos := fld g 48 16
    if pos = d.position || !d.canRequest pos || d.puts.any fun q => q.before p then d.injectPut p else d.requestPut p g

/-- The writes held under R25 enter the network. -/
def Dev.releasePuts (d : Dev) : Dev :=
  d.tiles.cells.foldl (fun d c => c.2.puts.foldl Dev.launchPut (d.modTile c.1 fun x => { x with puts := [] })) d

/-- An exchange write that tile t issues now is held in it: a compute slot is open, or an earlier one is still held (R25). -/
def Dev.putHeld (d : Dev) (t : Nat) : Bool := d.computeOpen || ((d.tile t).puts ≠ [] && d.fc.armed && !d.exchangeOpen)

/-- What PUT and PUTG wait for: the context's pool stores, and the network unless the write is held (R62, R110, R162). -/
def View.putNeeds (v : View) : List Need := .poolStores :: if v.d.putHeld v.t then [] else [.net false]

/-- An exchange write is issued: held while a compute slot is open. -/
def Dev.issuePut (d : Dev) (p : PutItem) : Dev :=
  if d.putHeld p.src then
    d.modTile p.src fun x => { x with puts := x.puts ++ [p] }
  else d.launchPut p

/-- The write stays in the package: decided at its injection (R428). -/
def PutItem.stays (p : PutItem) : Bool := p.spot.isSome || p.status ≠ 0

def PutItem.type (p : PutItem) : Nat := if p.lc.isSome then typeWrl else typeWr

/-- The address that an error record of the write names: a PUTG's own, or the space-01 form of what a PUT names. -/
def Dev.putAddr (d : Dev) (p : PutItem) : DWord :=
  match p.glob, p.spot with
  | some g, _ => g
  | none, some (.spad t a) => d.spadAddr t a
  | none, _ => 0

/-- The outcome of a write that reaches its destination in this package (R227, R435); its mirror write may fail later (R542). -/
def Dev.landPut (d : Dev) (p : PutItem) : Dev × WOut :=
  match p.spot with
  | none => (d, .err p.status)
  | some s =>
    if d.spotFenced p.bytes.length s then (d, .err 3)
    else d.writeSpot s p.bytes p.lc (.put p.src p.bg p.lc.isSome (d.putAddr p) p.seq)

/-- PUT_ARRIVAL: write i reaches its destination; one that is refused draws an error reply (R227, R435). A PUTG that
waits for a free request entry is sent when there is one. -/
def Dev.putArrival (d : Dev) (i : Nat) : Dev :=
  match takeAfter PutItem.before d.puts i with
  | none => d
  | some (p, rest) =>
    if d.msgs.any fun f => d.samePath p f && f.seq < p.seq then d else
    let d' := { d with puts := rest }
    if p.stays then
      match d'.landPut p with
      | (d'', .err e) => d''.remoteError (.put p.src p.bg) e p.type d.position (d.putAddr p)
      | (d'', _) => d''
    else match p.glob with
      | some g => if d.canRequest (fld g 48 16) then d'.requestPut p g else d
      | none => d'

/-! ### Instructions -/

/-- Lanes 0 to len of vA as bytes. -/
def putBytes (l : Lanes) (len : Nat) : List Byte := (l.take (len + 1)).flatMap fun w => bytesLE 4 w.toNat

/-- PUT (R158). Where the tile is bad and the range leaves the scratchpad as well, TRAP_INFO is s(2n+1) (DESIGN CHOICE, log entry 8). -/
def semPut (v : View) (vA n : BitVec 5) (len lc : BitVec 6) (lcEn : Bool) (rsv : BitVec 3) : SlotSem :=
  let a := v.c.rs (2 * n.toNat)
  let w := v.c.rs (2 * n.toNat + 1)
  let addr := a.toNat / 4 * 4
  let bs := putBytes (v.v vA) len.toNat
  let l := fld w 13 3
  let ok := v.d.lcoreBound v.core l && fld w 9 4 < 12
  { slot := 3, srcs := rv vA :: pairRegs n, illegal := illegalIf false (rsv ≠ 0)
    traps := if !ok then [(trapAddr, w)] else if spadSize < addr + bs.length then [(trapAddr, a)] else []
    needs := v.putNeeds
    eff := fun d => (v.flushOwn d).issuePut
      { src := v.t, bg := v.bg, glob := none, lcore := l, row := fld w 9 4, lpos := fld w 5 4, addr := addr
        bytes := bs, lc := if lcEn then some lc.toNat else none, spot := none, status := 0, seq := 0 } }

/-- PUTG (R159, R160). -/
def semPutg (v : View) (vA n : BitVec 5) (len lc : BitVec 6) (lcEn : Bool) (rsv : BitVec 3) : SlotSem :=
  let g := v.pair n
  { slot := 3, srcs := rv vA :: pairRegs n, illegal := illegalIf false (rsv ≠ 0)
    traps := if 2 ≤ fld g 46 2 then [(trapAddr, hiWord g)] else []
    needs := v.putNeeds
    eff := fun d => (v.flushOwn d).issuePut
      { src := v.t, bg := v.bg, glob := some g, lcore := 0, row := 0, lpos := 0, addr := 0, bytes := putBytes (v.v vA) len.toNat
        lc := if lcEn then some lc.toNat else none, spot := none, status := 0, seq := 0 } }

/-- WAITC (R163). -/
def semWaitc (v : View) (lc sTgt : BitVec 6) (cond : BitVec 1) (rsv : BitVec 13) : SlotSem :=
  { slot := 3, srcs := [rs sTgt], illegal := illegalIf false (rsv ≠ 0)
    needs := [.landing lc.toNat (v.s sTgt) (cond = 1)] }

/-- LWATCH (R164, R230): registers, or sends at once. -/
def semLwatch (v : View) (lc sTgt : BitVec 6) (cond : BitVec 1) (qn : BitVec 4) (rsv : BitVec 9) : SlotSem :=
  { slot := 3, srcs := [rs sTgt], illegal := illegalIf false (rsv ≠ 0), traps := replyTrap qn, needs := [.poolStores]
    eff := fun d =>
      let w : LWatch := { target := v.s sTgt, eq := cond = 1, qn := qn.toNat, bg := v.bg }
      ((v.flushOwn d).modTile v.t fun x => { x with lwatch := x.lwatch.set lc.toNat w }).landEval v.t lc.toNat }

/-- LCOP (R165). -/
def semLcop (v : View) (sD lc sVal : BitVec 6) (fn : BitVec 2) (rsv : BitVec 6) : SlotSem :=
  let old := v.tile.lc lc.toNat
  { slot := 3, srcs := [rs sVal], dests := [rs sD], illegal := illegalIf false (rsv ≠ 0 || fn = 3)
    eff := fun d =>
      let d := if fn = 1 then d.setLanding v.t lc.toNat (old - v.s sVal)
        else if fn = 2 then d.setLanding v.t lc.toNat (v.s sVal) else d
      v.ws sD old d }

/-- TPOST (R166): a post travels on VC3 (R505). -/
def semTpost (v : View) (n : BitVec 5) (sId : BitVec 6) (kind : BitVec 1) (rsv : BitVec 14) : SlotSem :=
  { slot := 3, srcs := rs sId :: pairRegs n, illegal := illegalIf false (rsv ≠ 0), needs := [.poolStores]
    eff := fun d =>
      let d := v.flushOwn d
      let p : Post := { tile := v.t, bg := v.bg, kind := kind = 1, id := v.s sId, value := v.pair n, parity := d.stepParity v.core }
      ({ d with posts := d.posts ++ [p] }).injectPkt v.core 3 }

end Sys2Proof.Machine
end

