-- ==== Sys2Proof/Machine/Matrix.lean ====
section
/-! DEFINITION. M slot: accumulation groups, products in panel and block order, stores and closes
(R118 to R144, R167 to R185). -/

namespace Sys2Proof.Machine

/-! ### Groups -/

/-- The group is open for the issuing context (R61). -/
def View.ownsGroup (v : View) (g : BitVec 2) : Bool := (v.group g).isOpen && (v.group g).bg == v.bg

/-- GROUP_OWNER with TRAP_INFO g (R119). -/
def groupTrap (ok : Bool) (g : BitVec 2) : List (Nat × Word) := if ok then [] else [(trapGroup, g.setWidth 32)]

/-- QT1_EXACT admits groups g0 and g1 only (R124, R125). -/
def View.groupMode (v : View) (g : BitVec 2) : Bool := v.exact && 2 ≤ g.toNat

def View.setGroup (v : View) (g : BitVec 2) (f : Group → Group) : Dev → Dev :=
  fun d => d.modTile v.t fun x => { x with groups := x.groups.modify g.toNat Group.reset f }

/-- R128, R167: every item of a group's state; in QT1_EXACT, MZERO leaves P, kpos and PANEL_K (R167). -/
def openGroup (exact bg int32 : Bool) (panel : Nat) (gr : Group) : Group :=
  let gr : Group := { gr with isOpen := true, bg := bg, int32 := int32, f := ⟨[]⟩, sat := false, satCnt := 0 }
  if exact then gr else { gr with p := ⟨[]⟩, kpos := 0, panel := panel }

def openSem (v : View) (g : BitVec 2) (type : BitVec 1) (panel : Nat) (illegal : Option Nat) : SlotSem :=
  { slot := 1, dests := [rg g], illegal := illegal
    traps := groupTrap (!(v.group g).isOpen || (v.group g).bg == v.bg) g
    eff := v.setGroup g (openGroup v.exact v.bg (type = 1) panel) }

/-- MZERO is MOPEN with PANEL_K 64 in NATIVE (R129). -/
def semMzero (v : View) (g : BitVec 2) (type : BitVec 1) (rsv : BitVec 23) : SlotSem :=
  openSem v g type 0 (illegalIf (v.groupMode g) (rsv ≠ 0))

def semMopen (v : View) (g : BitVec 2) (type : BitVec 1) (panel : BitVec 2) (rsv : BitVec 21) : SlotSem :=
  openSem v g type panel.toNat (illegalIf v.exact (rsv ≠ 0))

/-! ### Operands (R120, R130 to R136) -/

/-- The lowest of several bytes outside. -/
def lowestBad (l : List (Option Nat)) : Option Nat := (l.filterMap id).min?

def codeBits (code : Nat) : Nat := [16, 16, 32, 8, 8, 6, 6, 4, 8, 8, 4].getD code 8
def isMxCode (code : Nat) : Bool := 3 ≤ code && code ≤ 8
def isIntCode (code : Nat) : Bool := 9 ≤ code

/-- An operand of `rows` rows or columns at address `a`. -/
structure MatOperand where
  code : Nat
  rows : Nat
  addr : Nat
  k    : Nat

/-- The address of an operand: a word's for a plain or integer one (R120, R133), any byte's for an MX one (R41, R134). -/
def matAddr (code : Nat) (a : Word) : Nat := if isMxCode code then a.toNat else alignDown 4 a.toNat

/-- K rounded up to blocks for an MX operand (R134). -/
def MatOperand.kp (o : MatOperand) : Nat := if isMxCode o.code then (o.k + 31) / 32 * 32 else o.k
/-- Bytes of the element array. -/
def MatOperand.elemBytes (o : MatOperand) : Nat := (o.rows * o.kp * codeBits o.code + 7) / 8
/-- Bytes with the scale array that follows it. -/
def MatOperand.span (o : MatOperand) : Nat := o.elemBytes + (if isMxCode o.code then o.rows * o.kp / 32 else 0)

/-- Bits of element (r, k): plain element or nibble n = rows * k + r (R120, R133), MX element k mod 32 of block
(k / 32, r) (R134). -/
def MatOperand.raw (o : MatOperand) (mem : Nat → Byte) (r k : Nat) : Nat :=
  let b := codeBits o.code
  let bitPos := if isMxCode o.code then ((o.rows * (k / 32) + r) * 32 + k % 32) * b else (o.rows * k + r) * b
  ofBytesLE ((List.range 5).map fun i => mem (o.addr + bitPos / 8 + i)) / 2 ^ (bitPos % 8) % 2 ^ b

/-- The exact value of an element of a floating operand (R47, R135). -/
def MatOperand.value (o : MatOperand) (mem : Nat → Byte) (r k : Nat) : FVal :=
  let x := o.raw mem r k
  match o.code with
  | 0 => fmtBf16.decode x
  | 1 => fmtFp16.decode x
  | 2 => fmtFp32.decode x
  | c => (mxOfCode c).decode (mem (o.addr + o.elemBytes + o.rows * (k / 32) + r)).toNat x

/-- The integer of an element of codes 9 and 10 (R48). -/
def MatOperand.int (o : MatOperand) (mem : Nat → Byte) (r k : Nat) : Int :=
  (BitVec.ofNat (codeBits o.code) (o.raw mem r k)).toInt

/-! ### Accumulation -/

/-- One FP32 accumulation step: a sum of a cell and an exact addend, rounded once with overflow to Inf, with its FPSTAT bits (R70):
iv for a NaN from a cell and operands that are not NaN, uf and ix, never of, which names no accumulation. -/
def accStep (cell : Word) (x : FVal) (ops : List FVal) : Word × BitVec 5 :=
  let y := fp32Arith ((fp32 cell).add x) (fp32 cell :: ops)
  (y.1, y.2 &&& ~~~flagOf)

/-- The value of an accumulation step. -/
def accRound (cell : Word) (x : FVal) : Word := (accStep cell x []).1

/-- R168: the cell (F, P) after products 0 to kl - 1 of operand pairs from position kpos, and its FPSTAT bits. -/
def panelCell (panel kpos kl : Nat) (ab : Nat → FVal × FVal) (f p : Word) : (Word × Word) × BitVec 5 :=
  (List.range kl).foldl (fun c k =>
    let x := accStep c.1.2 ((ab k).1.mul (ab k).2) [(ab k).1, (ab k).2]
    if (kpos + k + 1) % panel = 0 then
      let y := accStep c.1.1 (fp32 x.1) [fp32 x.1]
      ((y.1, 0), c.2 ||| x.2 ||| y.2)
    else ((c.1.1, x.1), c.2 ||| x.2)) ((f, p), 0)

/-- R121, R172: blocks of four products from the instruction's first k, added to F, and the FPSTAT bits. -/
def blockCell (kl : Nat) (ab : Nat → FVal × FVal) (f : Word) : Word × BitVec 5 :=
  (List.range ((kl + 3) / 4)).foldl (fun c m =>
    let ps := (List.range (min 4 (kl - 4 * m))).map fun i => ab (4 * m + i)
    let x := accStep c.1 (ps.foldl (fun s q => s.add (q.1.mul q.2)) (FVal.zero false)) (ps.flatMap fun q => [q.1, q.2])
    (x.1, c.2 ||| x.2)) (f, 0)

/-- R122, R177, R178: saturating adds in ascending k; the cell and the number of saturations. -/
def intCell (kl : Nat) (prod : Nat → Int) (f : Word) : Word × Nat :=
  (List.range kl).foldl (fun a k => let (w, sat) := accAdd a.1 (prod k); (w, a.2 + b2n sat)) (f, 0)

/-- The 2,048 cells 64 i + j of a group. -/
def eachCell {α : Type} (f : Nat → Nat → α) : List α := (List.range 2048).map fun n => f (n / 64) (n % 64)

/-- Cells as a table; a cell of 0 is not listed. -/
def cellTable (ws : List Word) : Tbl Word := ⟨(ws.mapIdx fun n w => (n, w)).filter fun x => x.2 ≠ 0⟩

def Group.panelK (gr : Group) : Nat := 64 * 2 ^ gr.panel

/-- The group after one accumulation of operands a and b over memory, and the FPSTAT bits it sets (R168, R170, R172, R177). -/
def accumulate (exact : Bool) (mem : Nat → Byte) (a b : MatOperand) (gr : Group) : Group × BitVec 5 :=
  let kl := a.kp
  if kl = 0 then (gr, 0) else
  let kpos := gr.kpos + BitVec.ofNat 32 kl
  if isIntCode a.code then
    let cs := eachCell fun i j => intCell kl (fun k => a.int mem i k * b.int mem j k) (gr.f.getD (64 * i + j) 0)
    let n := (cs.map Prod.snd).sum
    ({ gr with f := cellTable (cs.map Prod.fst), sat := gr.sat || 0 < n, satCnt := satAdd gr.satCnt n, kpos := kpos }, 0)
  else
    let ab (i j k : Nat) := (a.value mem i k, b.value mem j k)
    if exact then
      let cs := eachCell fun i j => blockCell kl (ab i j) (gr.f.getD (64 * i + j) 0)
      ({ gr with f := cellTable (cs.map Prod.fst), kpos := kpos }, orFlags (cs.map Prod.snd))
    else
      let cs := eachCell fun i j =>
        panelCell gr.panelK gr.kpos.toNat kl (ab i j) (gr.f.getD (64 * i + j) 0) (gr.p.getD (64 * i + j) 0)
      ({ gr with f := cellTable (cs.map fun c => c.1.1), p := cellTable (cs.map fun c => c.1.2), kpos := kpos },
        orFlags (cs.map Prod.snd))

/-- An accumulating slot (R118, R120, R130, R136). Where both operands leave the scratchpad, TRAP_INFO holds the lower of their first
outside addresses (DESIGN CHOICE, log entry 8). -/
def accSem (v : View) (g : BitVec 2) (aA aB : BitVec 4) (sK : BitVec 6) (fa fb : Nat) (illegal : Option Nat) : SlotSem :=
  let k := fld (v.s sK) 0 16
  let a : MatOperand := { code := fa, rows := 32, addr := matAddr fa (v.a aA), k := k }
  let b : MatOperand := { code := fb, rows := 64, addr := matAddr fb (v.a aB), k := k }
  let bad := lowestBad [spanBad spadSize a.addr a.span, spanBad spadSize b.addr b.span]
  { slot := 1, srcs := [ra aA, ra aB, rs sK, rg g], dests := [rg g], illegal := illegal
    traps := addrTrap bad ++ groupTrap (v.ownsGroup g && (v.group g).int32 == isIntCode fa) g
    needs := [.grant]
    access := [(false, a.addr, a.span), (false, b.addr, b.span)]
    eff := fun d =>
      let x := accumulate v.exact v.tile.byte a b (v.group g)
      v.fp x.2 (v.setGroup g (fun _ => x.1) (d.modTile v.t fun x => (x.flushSpan a.addr a.span).flushSpan b.addr b.span)) }

def semMmaBf16 (v : View) (g : BitVec 2) (aA aB : BitVec 4) (sK : BitVec 6) (rsv : BitVec 10) : SlotSem :=
  accSem v g aA aB sK 0 0 (illegalIf (v.groupMode g) (rsv ≠ 0))

def semMmaI8 (v : View) (g : BitVec 2) (aA aB : BitVec 4) (sK : BitVec 6) (rsv : BitVec 10) : SlotSem :=
  accSem v g aA aB sK 9 9 (illegalIf (v.groupMode g) (rsv ≠ 0))

/-- The legal pairs of R131. -/
def legalPair (fa fb : Nat) : Bool :=
  (fa ≤ 2 && fa == fb) || (isMxCode fa && isMxCode fb) || (9 ≤ fa && fa ≤ 10 && 9 ≤ fb && fb ≤ 10)

def semMmaf (v : View) (g : BitVec 2) (aA aB : BitVec 4) (sK : BitVec 6) (fa fb : BitVec 4) (rsv : BitVec 2) : SlotSem :=
  accSem v g aA aB sK fa.toNat fb.toNat (illegalIf v.exact (rsv ≠ 0 || !legalPair fa.toNat fb.toNat))

/-! ### Stores -/

/-- The value G of an FP32 cell (R169), F alone in QT1_EXACT (R172), and the FPSTAT bits of the rounding that folds an open panel
(R70). -/
def Group.fold (gr : Group) (exact : Bool) (i j : Nat) : Word × BitVec 5 :=
  let f := gr.f.getD (64 * i + j) 0
  let p := fp32 (gr.p.getD (64 * i + j) 0)
  if exact || gr.kpos.toNat % gr.panelK = 0 then (f, 0) else accStep f p [p]

/-- The value G alone. -/
def Group.value (gr : Group) (exact : Bool) (i j : Nat) : Word := (gr.fold exact i j).1

/-- Cell (i, j) of an INT32 group. -/
def Group.intValue (gr : Group) (i j : Nat) : Int := (gr.f.getD (64 * i + j) 0).toInt

/-- MST formats (R123): group type, element bytes, Barometer code of a narrowing one. -/
def mstFmt (fmt : Nat) : Option (Bool × Nat × Option Nat) :=
  match fmt with
  | 0 => some (false, 4, none)
  | 1 => some (false, 2, some 0)
  | 2 => some (true, 4, none)
  | 3 => some (true, 4, some 2)
  | 4 => some (true, 1, some 9)
  | _ => none

/-- One stored element of MST, with the bits of its fold and of its conversion. -/
def mstElem (gr : Group) (exact : Bool) (fmt : Nat) (s : Word) (i j : Nat) : Conv :=
  let plain (w : Word) : Conv := { enc := w.toNat, flags := 0, cls := .plain }
  let g := gr.fold exact i j
  let folded (c : Conv) : Conv := { c with flags := g.2 ||| c.flags }
  match fmt with
  | 0 => folded (plain g.1)
  | 1 => folded (fmtBf16.conv true .rne (fp32 g.1))
  | 2 => plain (gr.f.getD (64 * i + j) 0)
  | 3 => convScaleUp (gr.intValue i j) s
  | _ => convIntSat 8 (gr.intValue i j)

def semMst (v : View) (g : BitVec 2) (aD : BitVec 4) (sP sS : BitVec 6) (fmt : BitVec 3) (rsv : BitVec 5) : SlotSem :=
  let gr := v.group g
  let (int32, w, baro) := (mstFmt fmt.toNat).getD (false, 4, none)
  let pitch := fld (v.s sP) 2 18 * 4
  let base := alignDown w (v.a aD).toNat
  let row (r : Nat) := (base + r * pitch) % 2 ^ 32
  let bad := lowestBad ((List.range 32).map fun r => spanBad spadGeneral (row r) (64 * w))
  let cells (r : Nat) := (List.range 64).map fun j => mstElem gr v.exact fmt.toNat (v.s sS) r j
  { slot := 1, srcs := [ra aD, rs sP, rg g] ++ (if fmt = 3 then [rs sS] else [])
    illegal := illegalIf (v.groupMode g) (rsv ≠ 0 || (mstFmt fmt.toNat).isNone)
    traps := addrTrap bad ++ groupTrap (v.ownsGroup g && gr.int32 == int32) g
    needs := [.port ((List.range 32).flatMap fun r => linesOf (row r) (64 * w)) false]
    access := (List.range 32).map fun r => (true, row r, 64 * w)
    eff := fun d =>
      let d := d.modTile v.t fun x => (List.range 32).foldl (fun x r =>
        x.store (row r) ((cells r).flatMap fun c => bytesLE w c.enc)) x
      let all := (List.range 32).flatMap cells
      let d := v.fp (orFlags (all.map Conv.flags)) d
      match baro with
      | some b => d.baroTile v.t 0 b all
      | none => d }

def semMsat (v : View) (g : BitVec 2) (sD : BitVec 6) (rsv : BitVec 18) : SlotSem :=
  { slot := 1, srcs := [rg g], dests := [rs sD], illegal := illegalIf (v.groupMode g) (rsv ≠ 0)
    traps := groupTrap (v.ownsGroup g) g, eff := v.ws sD (if (v.group g).sat then 1 else 0) }

def semMsatc (v : View) (g : BitVec 2) (sD : BitVec 6) (rsv : BitVec 18) : SlotSem :=
  { slot := 1, srcs := [rg g], dests := [rs sD], illegal := illegalIf (v.groupMode g) (rsv ≠ 0)
    traps := groupTrap (v.ownsGroup g) g, eff := v.ws sD (v.group g).satCnt }

/-! ### Close (R137 to R143, R181) -/

/-- The close descriptor (R137). -/
structure CloseDesc where
  dst    : Nat
  pitch  : Nat
  ofmt   : Nat
  epi    : Nat
  bf16   : Bool
  keep   : Bool
  epiAddr : Nat
  epiPitch : Nat
  tag    : Nat
  scale  : Nat
  stride : Nat
  index  : Nat
  /-- a reserved bit that is not 0 -/
  rsv    : Bool

def closeDesc (bs : List Byte) : CloseDesc :=
  let w (i : Nat) : Word := BitVec.ofNat 32 (ofBytesLE ((bs.drop (4 * i)).take 4))
  { dst := alignDown 4 (w 0).toNat, pitch := fld (w 1) 2 18 * 4, ofmt := fld (w 1) 20 4, epi := fld (w 1) 24 2
    bf16 := bit (w 1) 26, keep := bit (w 1) 27, epiAddr := alignDown 4 (w 2).toNat, epiPitch := 16 * fld (w 3) 0 12
    tag := fld (w 3) 12 10, scale := (w 4).toNat, stride := (w 5).toNat
    index := (w 6).toNat + 2 ^ 32 * fld (w 7) 0 16
    rsv := fld (w 1) 28 4 ≠ 0 || fld (w 3) 22 10 ≠ 0 || fld (w 7) 16 16 ≠ 0 }

/-- Bits of an output element by ofmt (R139). -/
def ofmtBits (ofmt : Nat) : Nat := [32, 16, 16, 8, 8, 6, 6, 4, 8, 8, 4, 32].getD ofmt 32

/-- The Barometer code of an output conversion (R207). -/
def ofmtBaro (ofmt : Nat) : Nat := if ofmt ≤ 2 then ofmt - 1 else ofmt

def CloseDesc.row (c : CloseDesc) (r : Nat) : Nat := (c.dst + r * c.pitch) % 2 ^ 32
def CloseDesc.epiRow (c : CloseDesc) (r : Nat) : Nat := (c.epiAddr + r * c.epiPitch) % 2 ^ 32
def CloseDesc.epiBytes (c : CloseDesc) : Nat := if c.bf16 then 128 else 256

/-- Reserved values, and combinations illegal for the group's type when it is open to the context (R138, R189). -/
def CloseDesc.illegal (c : CloseDesc) (own int32 : Bool) (tag : Tag) : Bool :=
  c.rsv || c.epi = 3 || 12 ≤ c.ofmt || (tag.cls = 2 && 1 ≤ c.ofmt && c.ofmt ≤ 10) ||
  (own && (if int32 then 9 ≤ c.ofmt && c.epi ≠ 0 else c.ofmt = 11))

/-- The lowest byte of destination, scale array and epilogue that leaves its region (R138, R217): where several of them do, the manual
gives no order (DESIGN CHOICE, log entry 8). -/
def CloseDesc.bad (c : CloseDesc) : Option Nat :=
  lowestBad ((List.range 32).map (fun r => spanBad spadGeneral (c.row r) (8 * ofmtBits c.ofmt)) ++
    (if isMxCode c.ofmt then [spanBad spadGeneral c.scale 64] else []) ++
    (if c.epi = 0 then [] else (List.range 32).map fun r => spanBad spadSize (c.epiRow r) c.epiBytes))

/-- Epilogue element j of a row, as FP32 bits. -/
def CloseDesc.epiElem (c : CloseDesc) (row : List Byte) (j : Nat) : Word :=
  if c.bf16 then BitVec.ofNat 32 (ofBytesLE ((row.drop (2 * j)).take 2)) <<< 16
  else BitVec.ofNat 32 (ofBytesLE ((row.drop (4 * j)).take 4))

/-- What one row of MCLOSE writes and counts. -/
structure CloseRow where
  bytes  : List Byte
  scales : List Byte
  convs  : List Conv
  flags  : BitVec 5

/-- The value of a cell before the output conversion (R139, R181 steps 1 and 2), with flags. -/
def closeValue (gr : Group) (c : CloseDesc) (s : Word) (epi : List Byte) (r j : Nat) : Word × BitVec 5 :=
  let v : Word × BitVec 5 :=
    if gr.int32 then let x := convScaleUp (gr.intValue r j) s; (BitVec.ofNat 32 x.enc, x.flags)
    else gr.fold false r j
  match c.epi with
  | 1 => let x := fp32Add v.1 (c.epiElem epi j); (x.1, v.2 ||| x.2)
  | 2 => let x := fp32Mul v.1 (c.epiElem epi j); (x.1, v.2 ||| x.2)
  | _ => v

/-- An INT32 cell saturated into INT8 or INT4 after the scaled-tag multiply (R139, R198). -/
def closeInt (w : Nat) (mode : Rounding) (q off : Int) : Conv :=
  let (i, ix) := roundInt mode ((FVal.ofInt q).scale off)
  let c := convIntSat w i
  { c with flags := c.flags ||| (if ix then flagIx else 0)
           cls := if c.cls = .plain && i = 0 && q ≠ 0 then .vanished else c.cls }

/-- Row r of MCLOSE (R139, R140, R181 step 3). -/
def closeRow (gr : Group) (c : CloseDesc) (s : Word) (off : Int) (mode : Nat → Rounding) (epi : List Byte) (r : Nat) : CloseRow :=
  let vals := (List.range 64).map fun j => closeValue gr c s epi r j
  let vf := orFlags (vals.map Prod.snd)
  let y (j : Nat) : FVal := (fp32 (vals.getD j (0, 0)).1).scale off
  if c.ofmt = 0 then { bytes := vals.flatMap fun x => bytesLE 4 x.1.toNat, scales := [], convs := [], flags := vf }
  else if c.ofmt = 11 then
    { bytes := (List.range 64).flatMap fun j => bytesLE 4 (gr.f.getD (64 * r + j) 0).toNat, scales := [], convs := [], flags := 0 }
  else if isMxCode c.ofmt then
    let k := mxOfCode c.ofmt
    let block (b : Nat) := mxBlock k (fun i => mode (32 * b + i)) ((List.range 32).map fun i => y (32 * b + i))
    let b0 := block 0
    let b1 := block 1
    { bytes := packElems k.bits (b0.2.1.map Conv.enc) ++ packElems k.bits (b1.2.1.map Conv.enc)
      scales := [BitVec.ofNat 8 b0.1, BitVec.ofNat 8 b1.1], convs := b0.2.1 ++ b1.2.1, flags := vf ||| b0.2.2 ||| b1.2.2 }
  else
    let one (j : Nat) : Conv :=
      if gr.int32 && 9 ≤ c.ofmt then closeInt (ofmtBits c.ofmt) (mode j) (gr.intValue r j) off
      else convPlain (ofmtBaro c.ofmt) (mode j) (y j) s
    let cs := (List.range 64).map one
    let vf := if gr.int32 && 9 ≤ c.ofmt then 0 else vf
    { bytes := packElems (ofmtBits c.ofmt) (cs.map Conv.enc), scales := [], convs := cs, flags := vf ||| orFlags (cs.map Conv.flags) }

/-- Rows in ascending order, each reading its epilogue before it writes (R142): the writes, conversions and flags. -/
def closeRows (v : View) (gr : Group) (c : CloseDesc) (s : Word) (tag : Tag) : List (Nat × List Byte) × List Conv × BitVec 5 :=
  let off := if 1 ≤ c.ofmt && c.ofmt ≤ 10 then tag.offset v.tile.layer else 0
  let r := (List.range 32).foldl (fun (acc : Tile × List (Nat × List Byte) × List Conv × BitVec 5) r =>
    let epi := if c.epi = 0 then [] else acc.1.readBytes (c.epiRow r) c.epiBytes
    let out := closeRow gr c s off (fun j => v.d.roundingOf v.core tag (c.index + r * c.stride + j)) epi r
    let ws := (c.row r, out.bytes) :: (if out.scales = [] then [] else [(c.scale + 2 * r, out.scales)])
    (ws.foldl (fun t w => t.store w.1 w.2) acc.1, acc.2.1 ++ ws, acc.2.2.1 ++ out.convs, acc.2.2.2 ||| out.flags))
    (v.tile, [], [], 0)
  (r.2.1, r.2.2.1, r.2.2.2)

/-- Reading the epilogue flushes the entries it touches (R223). -/
def CloseDesc.flushEpi (c : CloseDesc) (x : Tile) : Tile :=
  if c.epi = 0 then x else (List.range 32).foldl (fun x r => x.flushSpan (c.epiRow r) c.epiBytes) x

def semMclose (v : View) (g : BitVec 2) (aC : BitVec 4) (sS : BitVec 6) (rsv : BitVec 14) : SlotSem :=
  let gr := v.group g
  let at_ := alignDown 32 (v.a aC).toNat
  let dbad := spanBad spadSize at_ 32
  let c := closeDesc (v.tile.readBytes at_ 32)
  let tag := v.d.tag v.core c.tag
  let traps := match dbad with
    | some a => [(trapAddr, BitVec.ofNat 32 a)]
    | none =>
      (if c.illegal (v.ownsGroup g) gr.int32 tag then [(trapIllegal, BitVec.ofNat 32 (1 + 16 * 2))] else []) ++
      addrTrap c.bad ++ groupTrap (v.ownsGroup g) g
  { slot := 1, srcs := [ra aC, rs sS, rg g], dests := if c.keep then [] else [rg g]
    illegal := illegalIf v.exact (rsv ≠ 0), traps := traps
    needs := [.port (((List.range 32).flatMap fun r => linesOf (c.row r) (8 * ofmtBits c.ofmt)) ++
      if isMxCode c.ofmt then linesOf c.scale 64 else []) false]
    access := (false, at_, 32) :: ((List.range 32).map fun r => (true, c.row r, 8 * ofmtBits c.ofmt))
      ++ (if isMxCode c.ofmt then [(true, c.scale, 64)] else [])
      ++ (if c.epi = 0 then [] else (List.range 32).map fun r => (false, c.epiRow r, c.epiBytes))
    eff := fun d =>
      let (ws, convs, flags) := closeRows v gr c (v.s sS) tag
      let d := d.modTile v.t fun x => ws.foldl (fun t w => t.store w.1 w.2) (c.flushEpi (x.flushSpan at_ 32))
      let sat := if !c.keep && gr.int32 && gr.sat then flagSat else 0
      let d := v.fp (flags ||| sat) d
      let d := if convs = [] then d else d.baroTile v.t tag.num (ofmtBaro c.ofmt) convs
      if c.keep then d else v.setGroup g (fun gr => { gr with isOpen := false }) d }

end Sys2Proof.Machine
end

