-- ==== Sys2Proof/Machine/Stream.lean ====
section
/-! DEFINITION. Stream engines (09): descriptors, stream programs, SSTART and SSTOP, ring ports and their instructions,
segment grants, segment data with conversion on the way, completion, aborts and the retention table (R241 to R280). -/

namespace Sys2Proof.Machine

/-! ### Descriptors (R244, R245) -/

def ctxAddr (c k : Nat) : Nat := coreBase c + 0x20000 + 64 * k
def Dev.descWord (d : Dev) (c k w : Nat) : Word := d.rd (ctxAddr c k + 4 * w)

structure Desc where
  valid    : Bool
  srcKind  : Nat
  dstKind  : Nat
  gate     : Bool
  res      : Nat
  lc       : Option Nat
  next     : Nat
  sfmt     : Nat
  dfmt     : Nat
  tag      : Nat
  rate     : Nat
  regions  : BitVec 16
  prog     : Nat
  src      : DWord
  dst      : DWord
  ibase    : Nat
  done     : Option Nat
  doneVal  : Word
  scale    : Word
  scaleDst : DWord
  /-- a reserved bit of the fields outside the bases is 1 -/
  rsv      : Bool

def Dev.desc (d : Dev) (c k : Nat) : Desc :=
  let w (i : Nat) : Word := d.descWord c k i
  { valid := bit (w 0) 0, srcKind := fld (w 0) 1 2, dstKind := fld (w 0) 3 3, gate := bit (w 0) 6, res := fld (w 0) 7 2
    lc := if bit (w 0) 9 then some (fld (w 0) 10 6) else none, next := fld (w 0) 16 10
    sfmt := fld (w 1) 0 4, dfmt := fld (w 1) 4 4, tag := fld (w 1) 8 10
    rate := fld (w 2) 0 16, regions := BitVec.ofNat 16 (fld (w 2) 16 16), prog := fld (w 3) 3 21 * 8
    src := joinWords (w 5) (w 4), dst := joinWords (w 7) (w 6), ibase := (w 8).toNat + 2 ^ 32 * fld (w 9) 0 16
    done := if bit (w 9) 31 then some (fld (w 9) 16 13) else none, doneVal := w 10, scale := w 11
    scaleDst := joinWords (w 13) (w 12)
    rsv := fld (w 0) 26 6 ≠ 0 || fld (w 1) 18 14 ≠ 0 || fld (w 3) 24 8 ≠ 0 || fld (w 9) 29 2 ≠ 0 }

def srcMemory (k : Desc) : Bool := k.srcKind ≤ 1
def Desc.ringDst (k : Desc) : Bool := k.dstKind = 2 || k.dstKind = 3
def Desc.converts (k : Desc) : Bool := k.sfmt ≠ k.dfmt
/-- An MX destination into which the stage converts. -/
def Desc.mxOut (k : Desc) : Bool := k.converts && isMxCode k.dfmt
/-- The scale array of a non-ring MX destination is used. -/
def Desc.usesScaleDst (k : Desc) : Bool := k.mxOut && !k.ringDst

/-- Slot size and slot count of a ring base (R245). -/
def tileSlotSize (b : DWord) : Nat := 64 * (fld b 19 8 + 1)
def tileSlots (b : DWord) : Nat := fld b 27 5 + 1
def poolSlotSize (b : DWord) : Nat := 64 * (fld b 24 8 + 1)
def poolSlots (b : DWord) : Nat := fld b 32 5 + 1
/-- The tile, in core c, and the port of a tile-ring base. -/
def Dev.ringTile (d : Dev) (c : Nat) (b : DWord) : Nat := c * 204 + fld b 39 4 * 17 + d.physPos c (fld b 39 4) (fld b 35 4)
def ringPortOf (b : DWord) : Nat := fld b 32 3

/-! ### States of a context (R241, R244) -/

def Dev.ctxState (d : Dev) (c k : Nat) : Nat := fld (d.descWord c k 14) 0 3
def Dev.setCtxState (d : Dev) (c k st code : Nat) : Dev := d.wr (ctxAddr c k + 56) (packFields 32 [(0, st), (8, code)])
def Dev.setProgress (d : Dev) (c k n : Nat) : Dev := d.wr (ctxAddr c k + 60) (BitVec.ofNat 32 n)
def runKey (c k : Nat) : Nat := 1024 * c + k
def Dev.stageRun (d : Dev) (c k : Nat) : Option StageRun := d.stages.get? (runKey c k)
def Dev.setRun (d : Dev) (c k : Nat) (r : StageRun) : Dev := { d with stages := d.stages.set (runKey c k) r }
/-- The running contexts of core c. -/
def Dev.runningCtxs (d : Dev) (c : Nat) : List Nat := (d.stages.cells.filter fun x => x.1 / 1024 = c).map fun x => x.1 % 1024

/-! ### Stream programs (R247 to R249) -/

structure Prog where
  /-- counts of levels 0, 1, ... -/
  counts  : List Nat
  /-- (level, target) to stride -/
  strides : List (Nat × Nat × Int)
  len     : Nat
  gath    : Option (Nat × Nat)
  idxl    : Nat
  pad     : Option (Nat × Nat)

def opOf (w : DWord) : Nat := fld w 60 4

/-- The instructions up to END, at most 16. -/
def progBody : Nat → List DWord → List DWord
  | 0, _ => []
  | _ + 1, [] => []
  | f + 1, w :: r => if opOf w = 0 then [] else w :: progBody f r

/-- An instruction has a reserved opcode or a non-zero reserved bit. -/
def progBad (w : DWord) : Bool :=
  match opOf w with
  | 1 => fld w 32 25 ≠ 0 || 5 < fld w 57 3 || fld w 0 32 = 0
  | 2 => fld w 48 7 ≠ 0 || 5 < fld w 57 3
  | 3 => fld w 17 43 ≠ 0 || fld w 0 17 < 4 || 65536 < fld w 0 17 || fld w 0 2 ≠ 0
  | 4 => fld w 53 7 ≠ 0
  | 5 => fld w 24 36 ≠ 0
  | 6 => fld w 32 25 ≠ 0 || 5 < fld w 57 3
  | _ => true

/-- The program that 16 words hold, if R248 finds it legal. -/
def parseProg (ws : List DWord) : Option Prog :=
  let b := progBody 16 ws
  let of (o : Nat) : List DWord := b.filter fun w => opOf w = o
  let lvl (w : DWord) : Nat := fld w 57 3
  let loops := of 1
  let n := loops.length
  let endOk := match (ws.take 16).find? fun w => opOf w = 0 with
    | some w => w = 0
    | none => true
  let distinct (l : List Nat) : Bool := (List.range 64).all fun i => l.count i ≤ 1
  let ok := endOk && !(b.any progBad) && (of 3).length = 1 && (of 4).length ≤ 1 && (of 5).length = (of 4).length &&
    (of 6).length ≤ 1 && (loops.all fun w => lvl w < n) && distinct (loops.map lvl) &&
    ((of 2 ++ of 6).all fun w => lvl w < n) && distinct ((of 2).map fun w => 4 * lvl w + fld w 55 2)
  if !ok then none else
  let first (l : List DWord) : DWord := l.headD 0
  some { counts := (List.range n).map fun i => match loops.find? fun w => lvl w = i with | some w => fld w 0 32 | none => 1
         strides := (of 2).map fun w => (lvl w, fld w 55 2, (BitVec.ofNat 48 (fld w 0 48)).toInt)
         len := fld (first (of 3)) 0 17
         gath := if of 4 = [] then none else some (fld (first (of 4)) 48 5, fld (first (of 4)) 0 48)
         idxl := fld (first (of 5)) 2 22 * 4
         pad := if of 6 = [] then none else some (lvl (first (of 6)), fld (first (of 6)) 0 32) }

def Prog.total (p : Prog) : Nat := p.counts.foldl (· * ·) 1

/-- Source bytes of a whole stage: padded iterations read nothing (R251). -/
def Prog.srcTotal (p : Prog) : Nat :=
  match p.pad with
  | some (l, valid) => p.total / p.counts.getD l 1 * min valid (p.counts.getD l 1) * p.len
  | none => p.total * p.len

/-- Index of level l in iteration n: level 0 is fastest. -/
def levelIndex : List Nat → Nat → Nat → Nat
  | [], _, _ => 0
  | c :: r, n, l => if l = 0 then n % c else levelIndex r (n / c) (l - 1)

/-- The sum of strides of a target in iteration n. -/
def Prog.sum (p : Prog) (n target : Nat) : Int :=
  (p.strides.filter fun s => s.2.1 = target).foldl (fun a s => a + (levelIndex p.counts n s.1 : Int) * s.2.2) 0

/-- Iteration n writes padding (R251). -/
def Prog.padded (p : Prog) (n : Nat) : Bool :=
  match p.pad with
  | some (l, valid) => valid ≤ levelIndex p.counts n l
  | none => false

/-- Adds an offset to a base of R245. -/
def addBase (kind : Nat) (base : Nat) (k : Int) : Nat :=
  let m := match kind with
    | 0 => 2 ^ 46
    | 1 => 2 ^ 24
    | _ => 2 ^ 19
  base / m * m + (((base % m : Nat) : Int) + k).emod m |>.toNat

/-- Kinds of addressed bases: global 0, pool 1, scratchpad 2. -/
def Desc.srcBaseKind (k : Desc) : Nat := k.srcKind
def Desc.dstBaseKind (k : Desc) : Nat := if k.dstKind = 4 then 2 else k.dstKind

/-- A2 of iteration n. -/
def Desc.a2 (k : Desc) (p : Prog) (n : Nat) : Nat := addBase k.dstBaseKind k.dst.toNat (p.sum n 2)
/-- A0 of iteration n, without gathering. -/
def Desc.a0 (k : Desc) (p : Prog) (n : Nat) : Nat := addBase k.srcBaseKind k.src.toNat (p.sum n 0)
/-- A1 of iteration n. -/
def Desc.a1 (_k : Desc) (p : Prog) (n : Nat) : Nat := addBase 1 p.idxl (p.sum n 1)
/-- X of iteration n, without gathering. -/
def Desc.x (k : Desc) (p : Prog) (n : Nat) : Nat := (((k.ibase : Int) + p.sum n 3).emod (2 ^ 48)).toNat

/-! ### Units of conversion (R252, R253) -/

def srcElemBytes (fmt : Nat) : Nat := if fmt = 2 then 4 else 2
/-- Source elements that are converted together. -/
def Desc.unitElems (k : Desc) : Nat := if !k.converts then 1 else if isMxCode k.dfmt then 32 else if k.dfmt = 10 then 2 else 1
/-- Source bytes of a unit; a copy moves bytes. -/
def Desc.unitSrc (k : Desc) : Nat := if !k.converts then 1 else k.unitElems * srcElemBytes k.sfmt
/-- Destination bytes of a unit, its scale byte apart. -/
def Desc.unitDst (k : Desc) : Nat := if !k.converts then 1 else k.unitElems * codeBits k.dfmt / 8
/-- Destination bytes of a whole stage. -/
def Desc.dstTotal (k : Desc) (p : Prog) : Nat := p.total * p.len / k.unitSrc * (k.unitDst + if k.mxOut then 1 else 0)
/-- Blocks of a ring slot of B bytes (R253). -/
def Desc.slotBlocks (k : Desc) (slotSize : Nat) : Nat := slotSize / (k.unitDst + 1)

/-- The value of source element e of a unit. -/
def srcElem (sfmt : Nat) (bs : List Byte) (e : Nat) : FVal :=
  let n := srcElemBytes sfmt
  let v := ofBytesLE ((bs.drop (n * e)).take n)
  match sfmt with
  | 0 => fmtBf16.decode v
  | 1 => fmtFp16.decode v
  | _ => fmtFp32.decode v

/-- Converts one unit whose first element has logical index x: element bytes, scale byte, conversions to count. -/
def Dev.convUnit (d : Dev) (c : Nat) (k : Desc) (pad : Bool) (x : Nat) (bs : List Byte) : List Byte × List Byte × List Conv :=
  let zero : Conv := { enc := 0, flags := 0, cls := .plain }
  if !k.converts then (bs, [], [])
  else if pad then
    (List.replicate k.unitDst 0, if k.mxOut then [0] else [], if k.dfmt = 2 then [] else List.replicate k.unitElems zero)
  else if k.dfmt = 2 then
    (bytesLE 4 (fmtFp32.conv false .rne (srcElem k.sfmt bs 0)).enc, [], [])
  else
    let tag := d.tag c k.tag
    let layer := (d.tile (c * 204 + d.physPos c 0 0)).layer
    let y (e : Nat) : FVal := (srcElem k.sfmt bs e).scale (tag.offset layer)
    let mode (e : Nat) : Rounding := d.roundingOf c tag ((x + e) % 2 ^ 48)
    if isMxCode k.dfmt then
      let m := mxOfCode k.dfmt
      let b := mxBlock m mode ((List.range 32).map y)
      (packElems m.bits (b.2.1.map Conv.enc), [BitVec.ofNat 8 b.1], b.2.1)
    else
      let cs := (List.range k.unitElems).map fun e => convPlain k.dfmt (mode e) (y e) k.scale
      (packElems (codeBits k.dfmt) (cs.map Conv.enc), [], cs)

/-! ### Regions (R272, R278) -/

/-- An address range lies wholly in one valid region that the descriptor enables, with the permission needed. -/
def Dev.regionOk (d : Dev) (c : Nat) (regions : BitVec 16) (write pool : Bool) (a n : Nat) : Bool :=
  (List.range 16).any fun i =>
    let r (k : Nat) : Word := d.preg (.stream c) (0x100 + 16 * i + k)
    let base := if pool then fld (r 0) 6 18 * 64 else fld (joinWords (r 4) (r 0)) 16 48 * 65536
    let size := (r 8).toNat * (if pool then 64 else 65536)
    bit regions i && bit (r 12) 0 && bit (r 12) (if write then 2 else 1) && bit (r 12) 3 == pool &&
      base ≤ a && a + n ≤ base + size

/-! ### Starting (R243, R254) -/

/-- The chain from head k: its contexts, and whether it breaks R243. -/
def Dev.chainOf (d : Dev) (c : Nat) : Nat → List Nat → Nat → List Nat × Bool
  | 0, seen, _ => (seen, true)
  | f + 1, seen, k =>
    if seen.contains k then (seen, true) else
    let seen' := seen ++ [k]
    let ds := d.desc c k
    let linkBad := (ds.srcKind = 2) ≠ (seen ≠ [])
    let stateBad := seen ≠ [] && (d.ctxState c k = 1 || d.ctxState c k = 5)
    if linkBad || stateBad then (seen', true)
    else if ds.dstKind = 2 then d.chainOf c f seen' ds.next
    else (seen', false)

/-- The 16 words at a stage's program address. -/
def Dev.progWords (d : Dev) (c : Nat) (k : Desc) : List DWord :=
  (List.range 16).map fun i => BitVec.ofNat 64 (ofBytesLE ((d.poolNow c).readBytes ((k.prog + 8 * i) % 2 ^ 24) 8))

/-- A scratchpad base that names a row of 12 to 15 or an unbound logical core, or has a reserved bit. -/
def Dev.spadBaseBad (d : Dev) (c : Nat) (b : DWord) : Bool := 12 ≤ fld b 23 4 || !d.lcoreBound c (fld b 27 3) || fld b 30 34 ≠ 0

/-- A base of an addressed destination or scale array (R245, R242). R242 gives a global destination in space 00 alone, and R254 no code for
another space: the model refuses it with BAD_FIELD (DESIGN CHOICE, log entry 23). -/
def Dev.dstBaseBad (d : Dev) (c kind : Nat) (b : DWord) : Bool :=
  match kind with
  | 0 => fld b 46 2 ≠ 0
  | 1 => fld b 24 40 ≠ 0
  | _ => d.spadBaseBad c b

def tileRingBad (b : DWord) : Bool := fld b 0 6 ≠ 0 || fld b 27 5 = 0 || fld b 43 21 ≠ 0 || 12 ≤ fld b 39 4
def poolRingBad (b : DWord) : Bool := fld b 0 6 ≠ 0 || fld b 32 5 = 0 || fld b 37 27 ≠ 0

/-- Code 3: a reserved bit or value in a stage. -/
def Dev.fieldBad (d : Dev) (c : Nat) (k : Desc) : Bool :=
  k.rsv || 4 < k.dstKind || 1 < k.res || 10 < k.sfmt || 10 < k.dfmt ||
  (match k.srcKind with
   | 1 => fld k.src 24 40 ≠ 0
   | 3 => tileRingBad k.src
   | _ => false) ||
  (match k.dstKind with
   | 2 => poolRingBad k.dst
   | 3 => tileRingBad k.dst
   | _ => d.dstBaseBad c k.dstBaseKind k.dst) ||
  (k.usesScaleDst && d.dstBaseBad c k.dstBaseKind k.scaleDst)

/-- The ring ports that a stage names: tile, port, base, and whether it is an output port of the tile. -/
def Dev.namedPorts (d : Dev) (c : Nat) (k : Desc) : List (Nat × Nat × DWord × Bool) :=
  (if k.srcKind = 3 then [(d.ringTile c k.src, ringPortOf k.src, k.src, true)] else []) ++
  (if k.dstKind = 3 then [(d.ringTile c k.dst, ringPortOf k.dst, k.dst, false)] else [])

/-- Code 7: an input ring outside the landing window, or an output ring outside the general region. -/
def Dev.ringOutside (d : Dev) (t : Nat) (b : DWord) (output : Bool) : Bool :=
  let lo := fld b 0 19
  let n := tileSlotSize b * tileSlots b
  if output then spadGeneral < lo + n else !(d.tile t).inWindow lo n

/-- Code 8: a base or the program lies in no permitted region. -/
def Dev.regionBad (d : Dev) (c : Nat) (k : Desc) (p : Option Prog) : Bool :=
  let ok (write pool : Bool) (a : Nat) : Bool := d.regionOk c k.regions write pool a 1
  let lines := (progBody 16 (d.progWords c k)).length + 1
  !(d.regionOk c k.regions false true k.prog (8 * min 16 lines)) ||
  (k.srcKind ≤ 1 && !ok false (k.srcKind = 1) k.src.toNat) ||
  (k.dstKind ≤ 1 && !ok true (k.dstKind = 1) k.dst.toNat) ||
  (k.dstKind = 2 && !ok true true (fld k.dst 0 24)) ||
  (k.usesScaleDst && k.dstKind ≤ 1 && !ok true (k.dstKind = 1) k.scaleDst.toNat) ||
  (match p with
   | some p => p.gath.isSome && !ok false true p.idxl
   | none => false)

def posOf (a : DWord) : Nat := fld a 48 16
def Dev.remote (d : Dev) (a : DWord) : Bool := posOf a ≠ d.position

/-- The memory port or the fabric port of an address is fenced. -/
def Dev.addrFenced (d : Dev) (c : Nat) (a : DWord) : Bool :=
  if d.remote a then
    -- the port the route decision names, fenced or not
    (match d.overrideDst (posOf a) with
     | some p => p < 12 && d.isFenced (.port p)
     | none => match axisRoute ((List.range 6).map (d.axis d.routeSet)) (posOf a) d.position with
       | some (p, _) => d.overridePort p < 12 && d.isFenced (.port (d.overridePort p))
       | none => false)
  else match d.spotBy c a.toNat 1 with
    | .error e => e = 3
    | .ok _ => false

def Dev.tileGone (d : Dev) (t : Nat) : Bool := d.isFenced (.tile t) || d.isFenced (.core (tileCore t))
/-- The tile of a scratchpad address in the form of R245. -/
def Dev.spadTile (d : Dev) (c a : Nat) : Nat := d.tileOf c (a / 2 ^ 27 % 8) (a / 2 ^ 23 % 16) (a / 2 ^ 19 % 16)

/-- An addressed base of a destination or scale array names a fenced unit. -/
def Dev.baseFenced (d : Dev) (c kind : Nat) (b : DWord) : Bool :=
  (kind = 4 && d.tileGone (d.spadTile c b.toNat)) || (kind = 0 && d.addrFenced c b)

/-- A destination of the stage, its scale array included, lies at a fenced tile, memory port or fabric port (R254). -/
def Dev.destFencedStage (d : Dev) (c : Nat) (k : Desc) : Bool :=
  (k.dstKind = 3 && d.tileGone (d.ringTile c k.dst)) || d.baseFenced c k.dstKind k.dst ||
  (k.usesScaleDst && d.baseFenced c k.dstKind k.scaleDst)

/-- The stage writes a global address at another package's position (R273). -/
def Dev.writesRemote (d : Dev) (k : Desc) : Bool :=
  k.dstKind = 0 && (d.remote k.dst || (k.usesScaleDst && d.remote k.scaleDst))

/-- The refusal codes that one stage meets, its chain apart (R254). -/
def Dev.stageCodes (d : Dev) (c k : Nat) : List Nat :=
  let ds := d.desc c k
  let p := parseProg (d.progWords c ds)
  let tag := d.tag c ds.tag
  let fmtBad := ds.converts && (2 < ds.sfmt ||
    (match p with
     | some p => p.len % ds.unitSrc ≠ 0
     | none => false) ||
    (ds.mxOut && ds.ringDst && ds.slotBlocks (if ds.dstKind = 2 then poolSlotSize ds.dst else tileSlotSize ds.dst) = 0))
  let ports := d.namedPorts c ds
  (if ds.valid then [] else [1]) ++ (if d.fieldBad c ds then [3] else []) ++ (if p.isNone then [4] else []) ++
  (if ports.any fun x => (d.port x.1 x.2.1).bound then [6] else []) ++
  (if ports.any fun x => d.ringOutside x.1 x.2.2.1 x.2.2.2 then [7] else []) ++
  (if d.regionBad c ds p then [8] else []) ++
  (if !ds.gate && (ds.dstKind = 4 || d.writesRemote ds) then [9] else []) ++
  (if ds.converts && tag.cls = 2 && ds.dfmt ≠ 2 then [10] else []) ++ (if fmtBad then [11] else []) ++
  (if ds.res = 1 && !(ds.srcKind = 0 && d.remote ds.src && ds.dstKind = 0 && !d.remote ds.dst) then [12] else []) ++
  (if d.destFencedStage c ds then [13] else [])

/-- A stage's byte total differs from its predecessor's, or two stages of a chain name one port, which R254 gives no code for: the model
refuses it with RING_BUSY, since the second binding would find the port bound (DESIGN CHOICE, log entry 23). -/
def Dev.chainCodes (d : Dev) (c : Nat) (ks : List Nat) : List Nat :=
  let ports := ks.flatMap fun k => (d.namedPorts c (d.desc c k)).map fun x => (x.1, x.2.1)
  let totals := ks.zip (ks.drop 1)
  let differ := totals.any fun ab =>
    match parseProg (d.progWords c (d.desc c ab.1)), parseProg (d.progWords c (d.desc c ab.2)) with
    | some p, some q => (d.desc c ab.1).dstTotal p ≠ q.srcTotal
    | _, _ => false
  (if differ then [5] else []) ++ (if ports.any fun x => 1 < ports.count x then [6] else [])

/-- The lowest refusal code of a start (R254); 0 when every check passes. -/
def Dev.startCode (d : Dev) (c k : Nat) : Nat :=
  let (ks, bad) := d.chainOf c 4 [] k
  let codes := (ks.flatMap fun x => d.stageCodes c x) ++ (if bad then [5] else d.chainCodes c ks) ++
    (if d.ctxState c k = 1 then [2] else []) ++ (if d.pageOn (.stream c) then [] else [14])
  codes.min?.getD 0

/-- Binds the ports of a stage (R257). -/
def Dev.bindPorts (d : Dev) (c k : Nat) : Dev :=
  (d.namedPorts c (d.desc c k)).foldl (fun d x =>
    d.setPort x.1 x.2.1 { RingPort.reset with
      bound := true, output := x.2.2.2, stage := k, base := fld x.2.2.1 0 19, slotSize := tileSlotSize x.2.2.1
      slots := tileSlots x.2.2.1 }) d

/-- A stage becomes RUNNING; `prev` is the stage before it in the chain. -/
def Dev.runStage (d : Dev) (c head k : Nat) (prev : Option Nat) : Dev :=
  let ds := d.desc c k
  let ring := prev.map fun p =>
    let b := (d.desc c p).dst
    { base := fld b 0 24, slotSize := poolSlotSize b, slots := poolSlots b, fill := ⟨[]⟩, full := ⟨[]⟩, prod := 0, cons := 0
      consOff := 0 : PoolRing }
  let r : StageRun :=
    { head := head, iter := 0, off := 0, got := [], gotHole := false, units := 0, spoilt := false, tail := [], blocks := 0, scales := []
      slotHole := false, ringGone := none, ring := ring, prog := d.progWords c ds, taken := 0, age := 0, ending := none }
  (((d.setCtxState c k 1 0).setProgress c k 0).setRun c k r).bindPorts c k

/-- SSTART of the chain whose head is context k (R254): the package and the value of sD. -/
def Dev.startChain (d : Dev) (c k : Nat) : Dev × Nat :=
  let code := d.startCode c k
  if code = 0 then
    let ks := (d.chainOf c 4 [] k).1
    ((ks.zip (none :: ks.map some)).foldl (fun d x => d.runStage c k x.1 x.2) d, 0)
  else
    let d := d.bump (.stream c) 0xA8 1
    (d.setCtxState c k (if d.ctxState c k = 1 then 1 else 5) code, code)

/-! ### Ending (R256, R257, R274) -/

def Dev.hasSegs (d : Dev) (c k : Nat) : Bool := d.segs.any fun s => s.core == c && s.ctx == k

/-- Unbinds the ports that stage k of core c still holds. -/
def Dev.unbindPorts (d : Dev) (c k : Nat) : Dev :=
  (d.namedPorts c (d.desc c k)).foldl (fun d x =>
    let p := d.port x.1 x.2.1
    if p.bound && p.stage == k then d.setPort x.1 x.2.1 RingPort.reset else d) d

/-- The stage that fills the pool ring of stage k is still there (R243). -/
def Dev.hasProducer (d : Dev) (c k : Nat) : Bool :=
  (d.runningCtxs c).any fun j => (d.desc c j).dstKind = 2 && (d.desc c j).next = k && j ≠ k

/-- A stage that issues no further segment and has none outstanding enters STOPPED or ABORTED. A stage whose producer has segments
outstanding keeps its ring for them (R256); it is looked at again when the producer has ended, which a chain of four does at most
three times. -/
def Dev.settle? (d : Dev) (c : Nat) : Nat → Nat → Dev
  | 0, _ => d
  | f + 1, k =>
    match d.stageRun c k with
    | none => d
    | some r =>
      match r.ending with
      | none => d
      | some e =>
        if d.hasSegs c k || d.hasProducer c k then d else
        let (st, code) := match e with
          | .stop => (3, 0)
          | .abort code => (4, code)
        let d := (d.unbindPorts c k).setCtxState c k st code
        Dev.settle? { d with stages := d.stages.erase (runKey c k) } c f (d.desc c k).next

def Dev.settleStage (d : Dev) (c k : Nat) : Dev := d.settle? c 4 k

/-- The running stages of the chain of stage k. -/
def Dev.chainMates (d : Dev) (c k : Nat) : List Nat :=
  match d.stageRun c k with
  | none => []
  | some r => (d.runningCtxs c).filter fun j => match d.stageRun c j with
    | some q => q.head == r.head
    | none => false

/-- A stage is aborting. -/
def StageRun.aborting (r : StageRun) : Bool := match r.ending with
  | some (.abort _) => true
  | _ => false

/-- Every stage of a chain ends; a stage that is aborting already keeps its code, and an SSTOP before its last segments return does not
make it STOPPED (R274; DESIGN CHOICE, log entry 22). -/
def Dev.endChain (d : Dev) (c k : Nat) (e : StageEnd) : Dev :=
  (d.chainMates c k).foldl (fun d j =>
    match d.stageRun c j with
    | some q => (d.setRun c j { q with ending := if q.aborting then q.ending else some e }).settleStage c j
    | none => d) d

/-- SSTOP (R256): the package and the state before. -/
def Dev.stopChain (d : Dev) (c k : Nat) : Dev × Nat :=
  let st := d.ctxState c k
  (if st = 1 then d.endChain c k .stop else d, st)

/-- A run-time fault (R274): every stage of the chain aborts, STREAM_FAULT is raised. A further fault of a stage that is aborting
changes nothing: its segments only return their errors. -/
def Dev.abortChain (d : Dev) (c k code : Nat) : Dev :=
  match d.stageRun c k with
  | some r => if r.aborting then d.settleStage c k else (d.endChain c k (.abort code)).raise (.stream c) 0
  | none => d

/-- BLK_CTRL.en = 0 of the stream page stops every running stage as SSTOP does. -/
def Dev.stopAllStages (d : Dev) (c : Nat) : Dev := (d.runningCtxs c).foldl (fun d k => (d.stopChain c k).1) d

/-- An entry that was reserved for segment `id` and under which nothing is outstanding. -/
def OutReq.idleFor (r : OutReq) (id : Nat) : Bool := r.left = 0 && match r.issuer with
  | .stream _ _ i => i == id
  | _ => false

/-- Entries reserved for a segment under which nothing has been sent become free. -/
def Dev.freeReserved (d : Dev) (id : Nat) : Dev := { d with outReqs := d.outReqs.filter fun r => !r.idleFor id }
def Dev.dropSeg (d : Dev) (id : Nat) : Dev := ({ d with segs := d.segs.filter fun s => s.id != id }).freeReserved id
def Dev.setSeg (d : Dev) (s : Segment) : Dev := { d with segs := d.segs.map fun x => if x.id = s.id then s else x }

/-- A write or read of segment s waits for answers. -/
def Dev.segWaits (d : Dev) (s : Segment) : Bool :=
  d.mirrorLeft (.seg s.id) || (d.outReqs.any fun r => r.issuer == .stream s.core s.ctx s.id) ||
    d.poolOps.cells.any fun x => (heldOf x.2).any fun w => w.back == .seg s.id

/-- The remote read of segment s has not been answered in full. -/
def Dev.segReads (d : Dev) (s : Segment) : Bool :=
  d.outReqs.any fun r => r.type = typeRd && r.issuer == .stream s.core s.ctx s.id

/-- A segment whose data are written leaves when no answer is outstanding. -/
def Dev.segDone (d : Dev) (id : Nat) : Dev :=
  match d.segs.find? fun s => s.id == id with
  | none => d
  | some s => if s.phase == .acking && !d.segWaits s then (d.dropSeg id).settleStage s.core s.ctx else d

/-- Every part of a remote read has come; it was asked for from a word on (R430). -/
def Dev.segData (d : Dev) (id : Nat) (data : List Byte) : Dev :=
  match d.segs.find? fun s => s.id == id with
  | none => d
  | some s =>
    if s.phase == .reading then d.setSeg { s with phase := .here ((data.drop (s.src.getD 0 % 4)).take s.len) } else d

/-! ### Arbitration (R264 to R267, R273) -/

/-- The ring that stage k fills, held by the next stage. -/
def Dev.outRing (d : Dev) (c : Nat) (ds : Desc) : Option PoolRing :=
  match d.stageRun c ds.next with
  | some r => r.ring
  | none => none

def Dev.setOutRing (d : Dev) (c : Nat) (ds : Desc) (p : PoolRing) : Dev :=
  match d.stageRun c ds.next with
  | some r => d.setRun c ds.next { r with ring := some p }
  | none => d

/-- The destination ring has a slot with free space, or the destination is no ring. -/
def Dev.dstFree (d : Dev) (c : Nat) (ds : Desc) : Bool :=
  match ds.dstKind with
  | 2 => match d.outRing c ds with
    | some r => !(r.full.getD r.prod false)
    | none => false
  | 3 => let p := d.port (d.ringTile c ds.dst) (ringPortOf ds.dst); !(p.full.getD p.eng false)
  | _ => true

/-- Bytes of the current slot of a chain or tile-ring source that can be taken, with their address. -/
def Dev.ringAvail (d : Dev) (c : Nat) (ds : Desc) (r : StageRun) : Option (Nat × Nat) :=
  match ds.srcKind with
  | 2 => match r.ring with
    | some q => if q.full.getD q.cons false then some (q.fill.getD q.cons 0 - q.consOff, q.base + q.cons * q.slotSize + q.consOff) else none
    | none => none
  | _ =>
    let p := d.port (d.ringTile c ds.src) (ringPortOf ds.src)
    if p.full.getD p.eng false then some (p.fill.getD p.eng 0 - p.engOff, p.base + p.eng * p.slotSize + p.engOff) else none

/-- A retention entry of core c that holds a whole source range: the local address (R276). -/
def Dev.retained (d : Dev) (c a n : Nat) : Option Nat :=
  (List.range 16).findSome? fun e =>
    match d.retain.get? (16 * c + e) with
    | some r => if r.src.toNat ≤ a && a + n ≤ r.src.toNat + r.len.toNat then some (r.dst.toNat + (a - r.src.toNat)) else none
    | none => none

/-- What a grant would take: length and source of the next segment, whether it is redirected, the index of its MOVE, or
the abort code that its addresses call for. -/
inductive NextSeg where
  | none
  | abort (code : Nat)
  | pad (len x : Nat)
  | ring (len a x : Nat)
  | mem (len a x : Nat) (redirected : Bool)
deriving DecidableEq, Repr

/-- The conversion changes the size of its data, so that bytes leave the place they have in the source (R275). -/
def Desc.resized (k : Desc) : Bool := k.unitSrc ≠ k.unitDst || k.mxOut

/-- The gathered row of iteration n (R250); an abort code when the index entry lies in no region. -/
def Dev.gathered (d : Dev) (c : Nat) (ds : Desc) (p : Prog) (n : Nat) : Except Nat (Nat × Nat) :=
  match p.gath with
  | none => .ok (ds.a0 p n, ds.x p n)
  | some (shift, irow) =>
    let a := ds.a1 p n
    if !d.regionOk c ds.regions false true a 4 then .error 32 else
    let g := ((d.poolNow c).word a).toNat
    .ok (addBase ds.srcBaseKind (ds.a0 p n) (g * 2 ^ shift : Nat), (ds.x p n + g * irow) % 2 ^ 48)

def Dev.nextSeg (d : Dev) (c : Nat) (ds : Desc) (r : StageRun) (p : Prog) : NextSeg :=
  if p.total ≤ r.iter then .none
  else if p.padded r.iter then .pad (min 1024 (p.len - r.off)) (ds.x p r.iter)
  else if 2 ≤ ds.srcKind then
    match d.ringAvail c ds r with
    | none => .none
    | some (n, a) =>
      let len := min (min 1024 (p.len - r.off)) n
      match d.gathered c ds p r.iter with
      | .error e => .abort e
      | .ok (_, x) =>
        if ds.srcKind = 2 && !d.regionOk c ds.regions false true a len then .abort 32 else .ring len a x
  else
    match d.gathered c ds p r.iter with
    | .error e => .abort e
    | .ok (a0, x) =>
      let a := addBase ds.srcBaseKind a0 r.off
      let len := min (min 1024 (p.len - r.off)) (1024 - a % 1024)
      if !d.regionOk c ds.regions false (ds.srcKind = 1) a len then .abort 32
      else if ds.res = 1 && (ds.resized || (ds.a2 p r.iter + 2 ^ 64 - ds.dst.toNat) % 2 ^ 46 ≠ (a0 + 2 ^ 64 - ds.src.toNat) % 2 ^ 46) then
        .abort 35
      else match (if ds.srcKind = 0 then d.retained c a len else none) with
        | some l => .mem len l x true
        | none => .mem len a x false

/-- The memory port of this package that holds a global address. -/
def Dev.ownStack (d : Dev) (a : Nat) : List Nat :=
  if a / 2 ^ 48 % 65536 = d.position && a / 2 ^ 46 % 4 = 0 then [a / 2 ^ 36 % 8] else []

/-- Memory ports that a segment of a stage reads from, and those to which it writes its elements and its scale bytes. -/
def Dev.readPorts (d : Dev) (ds : Desc) (src : Option Nat) : List Nat :=
  if ds.srcKind = 0 then (src.map d.ownStack).getD [] else []
def Dev.writePorts (d : Dev) (ds : Desc) (p : Option Prog) (iter off : Nat) : List Nat :=
  match ds.dstKind, p with
  | 0, some p =>
    let unit := off / ds.unitSrc
    (d.ownStack (addBase 0 (ds.a2 p iter) (unit * ds.unitDst : Nat)) ++
      if ds.usesScaleDst then d.ownStack (addBase 0 ds.scaleDst.toNat (iter * (p.len / ds.unitSrc) + unit : Nat)) else []).eraseDups
  | _, _ => []

/-- Memory ports that a segment of a stage occupies: source and destination stacks of this package. -/
def Dev.memPorts (d : Dev) (ds : Desc) (p : Option Prog) (iter off : Nat) (src : Option Nat) : List Nat :=
  d.readPorts ds src ++ d.writePorts ds p iter off

/-- Outstanding segments of a memory port (R267): a read until its data have returned, a write until it is acknowledged. -/
def Dev.portSegs (d : Dev) (n : Nat) : Nat :=
  (d.segs.filter fun s =>
    let ds := d.desc s.core s.ctx
    let p := match d.stageRun s.core s.ctx with
      | some r => parseProg r.prog
      | none => none
    (s.phase == .reading && (d.readPorts ds s.src).contains n) || (d.writePorts ds p s.iter s.off).contains n).length

/-- Positions of other packages to which a segment of a stage writes. -/
def Dev.writePos (d : Dev) (ds : Desc) : List Nat :=
  if ds.dstKind ≠ 0 then [] else
  (if d.remote ds.dst then [posOf ds.dst] else []) ++ (if ds.usesScaleDst && d.remote ds.scaleDst then [posOf ds.scaleDst] else [])

/-- The first ports of its remote writes, each once (R267). -/
def Dev.writeFirst (d : Dev) (ds : Desc) : List Nat := ((d.writePos ds).map d.firstPort).eraseDups

/-- A unit that the next segment needs has been fenced while the stage ran: its source's or destination's memory port or fabric port (R274;
for a source DESIGN CHOICE, log entry 22). -/
def Dev.segFenced (d : Dev) (c : Nat) (ds : Desc) (src : Option Nat) : Bool :=
  (ds.srcKind = 0 && src.any fun a => d.addrFenced c (BitVec.ofNat 64 a)) ||
  (ds.dstKind = 0 && (d.addrFenced c ds.dst || (ds.usesScaleDst && d.addrFenced c ds.scaleDst)))

/-- R264, and the segment that a grant would issue. -/
def Dev.eligible (d : Dev) (c k : Nat) : Option (StageRun × Desc × Prog × NextSeg) :=
  match d.stageRun c k with
  | none => none
  | some r =>
    let ds := d.desc c k
    match parseProg r.prog with
    | none => none
    | some p =>
      if r.ending.isSome || !d.dstFree c ds || (ds.gate && !d.exchangeOpen) then none else
      match d.nextSeg c ds r p with
      | .none => none
      | n =>
        let src := match n with
          | .mem _ a _ _ => some a
          | _ => none
        if d.segFenced c ds src then some (r, ds, p, .abort 36) else
        let ports := (match src with
            | some a => if ds.srcKind = 0 && a / 2 ^ 48 % 65536 ≠ d.position then [d.firstPort (a / 2 ^ 48 % 65536)] else []
            | none => []) ++ d.writeFirst ds
        if (ports.all fun q => d.outstanding q + ports.count q ≤ 2048) && (d.memPorts ds (some p) r.iter r.off src).all fun m =>
            d.portSegs m < 1024 && d.pageOn (.mem m) && !d.pwr.spent.getD (8 + m) false then
          some (r, ds, p, n)
        else none

/-- Destination bytes full or in flight in the stage's ring, scale bytes included (D of R265). -/
def Dev.ringBytes (d : Dev) (c k : Nat) (ds : Desc) : Nat :=
  let fills := match ds.dstKind with
    | 2 => match d.outRing c ds with
      | some r => (List.range r.slots).foldl (fun a i => a + r.fill.getD i 0) 0
      | none => 0
    | _ => let p := d.port (d.ringTile c ds.dst) (ringPortOf ds.dst)
           (List.range p.slots).foldl (fun a i => a + p.fill.getD i 0) 0
  let unplaced (s : Segment) : Nat := match s.phase with
    | .here rest => rest.length
    | _ => s.len
  let srcBytes := (d.segs.filter fun s => s.core == c && s.ctx == k).foldl (fun a s => a + unplaced s) 0
  let (got, scales) := match d.stageRun c k with
    | some r => (r.got.length, r.scales.length)
    | none => (0, 0)
  fills + scales + (got + srcBytes) * (ds.unitDst + if ds.mxOut then 1 else 0) / ds.unitSrc

/-- The stage has been eligible without a grant for STR_AGE consecutive cycles, and stays aged until its next grant (R266). -/
def Dev.aged (d : Dev) (c : Nat) (r : StageRun) : Bool := max 1 (fld (d.preg (.stream c) 0x84) 0 16) ≤ r.age

/-- Time to dry as a fraction (R265): none is infinite; an aged stage has 0 (R266). -/
def Dev.timeToDry (d : Dev) (c k : Nat) (r : StageRun) (ds : Desc) : Option (Nat × Nat) :=
  if d.aged c r then some (0, 1)
  else if ds.rate = 0 || !ds.ringDst then none
  else some (16 * d.ringBytes c k ds, ds.rate)

def drier (a b : Option (Nat × Nat)) : Bool :=
  match a, b with
  | some (n, m), some (n', m') => n * m' < n' * m
  | some _, none => true
  | _, _ => false

/-- The driest of the eligible stages; ties go to the lower context. -/
def driest : List (Nat × Option (Nat × Nat)) → Option Nat
  | [] => none
  | x :: r => some (r.foldl (fun (b : Nat × Option (Nat × Nat)) y => if drier y.2 b.2 then y else b) x).1

/-- Advances the consumer side of a ring source past n bytes; a slot whose fill has been read returns empty (R261, R271). -/
def Dev.takeRing (d : Dev) (c k : Nat) (ds : Desc) (n : Nat) : Dev :=
  match ds.srcKind with
  | 2 => match d.stageRun c k with
    | some r => match r.ring with
      | some q =>
        let off := q.consOff + n
        let q' := if off = q.fill.getD q.cons 0 then
            { q with fill := q.fill.set q.cons 0, full := q.full.set q.cons false, cons := (q.cons + 1) % q.slots, consOff := 0 }
          else { q with consOff := off }
        d.setRun c k { r with ring := some q' }
      | none => d
    | none => d
  | _ =>
    let t := d.ringTile c ds.src
    let rp := ringPortOf ds.src
    let p := d.port t rp
    let off := p.engOff + n
    d.setPort t rp (if off = p.fill.getD p.eng 0 then
        { p with fill := p.fill.set p.eng 0, full := p.full.set p.eng false, eng := (p.eng + 1) % p.slots, engOff := 0 }
      else { p with engOff := off })

/-- The bytes of a ring source at an address. -/
def Dev.ringBytesAt (d : Dev) (c : Nat) (ds : Desc) (a n : Nat) : List Byte :=
  if ds.srcKind = 2 then (d.poolNow c).readBytes a n else (d.tile (d.ringTile c ds.src)).spad.readBytes a n

/-- A segment from a source of the stage, or to its destination, enters the mesh inside the package: all but those of the own core's pool
and home stack, which stand with its stream engine on the service strip (R344, R714). -/
def Dev.readsMesh (d : Dev) (c : Nat) (ds : Desc) (src : Option Nat) (spot : Option GSpot) : Bool :=
  match ds.srcKind with
  | 0 => src.isSome && match spot with
    | some (.hbm a) => a / 2 ^ 36 ≠ c
    | some (.pool k _) => k ≠ c
    | some (.spad _ _) => true
    | none => false
  | 3 => src.isSome
  | _ => false
def Dev.writesMesh (d : Dev) (c : Nat) (ds : Desc) (p : Prog) (iter off : Nat) : Bool :=
  match ds.dstKind with
  | 0 => (d.writePorts ds (some p) iter off).any fun n => n ≠ c
  | 3 => true
  | 4 => true
  | _ => false

/-- The source lies in this package, so that its translation holds for the segment (R346). -/
def Dev.ownSpot (d : Dev) (c : Nat) (ds : Desc) (src : Option Nat) (len : Nat) : Option GSpot :=
  match src with
  | some a => if ds.srcKind = 0 && a / 2 ^ 48 % 65536 = d.position then (d.translate c (a % 2 ^ 48) len).toOption else none
  | none => none

/-- Grants stage k its next segment. -/
def Dev.grantOne (d : Dev) (c k : Nat) : Dev :=
  match d.eligible c k with
  | none => d
  | some (r, ds, p, n) =>
    let d := if d.aged c r then d.bump (.stream c) 0xA0 1 else d
    let id := d.segId
    let mk (len x : Nat) (src : Option Nat) (red : Bool) (ph : SegPhase) : Segment :=
      let spot := d.ownSpot c ds src len
      let local_ := d.readsMesh c ds src spot || d.writesMesh c ds p r.iter r.off
      { id := id, core := c, ctx := k, iter := r.iter, off := r.off, len := len, src := src, x := x, redirected := red, spot := spot
        wtids := [], mesh := local_ || (ds.srcKind = 0 && src.isSome && spot.isNone) || d.writePos ds ≠ [], phase := ph }
    let go (d : Dev) (s : Segment) (taken : Nat) : Dev :=
      let whole := r.off + s.len = p.len
      let d := if d.readsMesh c ds s.src s.spot || d.writesMesh c ds p s.iter s.off then d.injectBulk c 0 else d
      -- entries for its remote writes, one per first port (R267)
      let (d, tids) := (d.writePos ds).foldl (fun (x : Dev × List Nat) pos =>
        if x.2.any fun t => t / 2048 = x.1.firstPort pos then x else
        match x.1.reserveReq (.stream c k id) typeWr (if pos = posOf ds.dst then ds.dst.toNat else ds.scaleDst.toNat) with
        | (d, some t) => (d, x.2 ++ [t])
        | (d, none) => (d, x.2)) (d, [])
      let d := ({ d with segs := d.segs ++ [{ s with wtids := tids }], segId := id + 1 }).bump (.stream c) 0x90 1
      -- R691: the memory ports count the segments that they read and write
      let d := (d.readPorts ds s.src).foldl (fun d n => d.bump (.mem n) 0x90 1) d
      let d := (d.writePorts ds (some p) s.iter s.off).foldl (fun d n => d.bump (.mem n) 0x98 1) d
      match d.stageRun c k with
      | some r' => d.setRun c k { r' with iter := if whole then r.iter + 1 else r.iter, off := if whole then 0 else r.off + s.len
                                          taken := r.taken + taken, age := 0 }
      | none => d
    match n with
    | .none => d
    | .abort code => d.abortChain c k code
    | .pad len x => go d (mk len x none false (.here (List.replicate len 0))) 0
    | .ring len a x => go (d.takeRing c k ds len) (mk len x (some a) false (.here (d.ringBytesAt c ds a len))) len
    | .mem len a x red =>
      let d := if red then d.bump (.stream c) 0xB0 1 else d
      let d := go d (mk len x (some a) red .reading) 0
      if ds.srcKind = 0 && a / 2 ^ 48 % 65536 ≠ d.position then
        d.request (.stream c k id) a [{ type := typeRd, addr := a / 4 * 4, lc := 0, bytes := (a % 4 + len + 3) / 4 * 4, fn := 0, data := [] }]
      else d

/-- The output port of a stage unbinds when its byte total has been consumed (R257). -/
def Dev.releaseSource (d : Dev) (c k : Nat) : Dev :=
  match d.stageRun c k with
  | some r =>
    let ds := d.desc c k
    match parseProg r.prog with
    | some p =>
      if ds.srcKind = 3 && p.srcTotal ≤ r.taken then
        let q := d.port (d.ringTile c ds.src) (ringPortOf ds.src)
        if q.bound && q.stage == k && q.output then d.setPort (d.ringTile c ds.src) (ringPortOf ds.src) RingPort.reset else d
      else d
    | none => d
  | none => d

/-- SEGMENT_GRANT: one cycle of the arbiter of core c grants up to two segments (R265). -/
def Dev.segmentGrant (d : Dev) (c : Nat) : Dev :=
  if d.isFenced (.core c) then d else
  let cands := (d.runningCtxs c).filterMap fun k => (d.eligible c k).map fun e => (k, d.timeToDry c k e.1 e.2.1)
  let first := driest cands
  let second := driest (cands.filter fun x => some x.1 ≠ first)
  let picked := first.toList ++ second.toList
  let d1 := picked.foldl (fun d k => (d.grantOne c k).releaseSource c k) d
  (d.runningCtxs c).foldl (fun d1 k =>
    if picked.contains k then d1 else
    match d1.stageRun c k with
    | some r => d1.setRun c k { r with age := if cands.any fun x => x.1 == k then r.age + 1 else if d.aged c r then r.age else 0 }
    | none => d1) d1

/-! ### Data of a segment (R253, R260, R269) -/

/-- A destination that no ring is: writes bytes at address a, the first `again` of them once more (R245, R272). A packet carries whole words
(R430): the bytes of its last word that the stage does not have are a free value. The bytes of one call are one write for the checks of
R227 and R272, elements and scale bytes apart (DESIGN CHOICE, log entry 22). -/
def Dev.stageWrite (d : Dev) (c : Nat) (ds : Desc) (s : Segment) (a again : Nat) (bs : List Byte) : Dev × Option Nat :=
  if bs.length ≤ again then (d, none) else
  let d' := d.bump (.stream c) 0x98 (bs.length - again)
  match ds.dstKind with
  | 0 =>
    if !d.regionOk c ds.regions true false a bs.length then (d, some 32)
    else if a / 2 ^ 48 % 65536 ≠ d.position then
      let padded := bs ++ (List.range ((4 - bs.length % 4) % 4)).map fun i => Config.padByte s.id (a + bs.length + i)
      let tid := (s.wtids.find? fun t => t / 2048 = d.firstPort (a / 2 ^ 48 % 65536)).getD (s.wtids.headD 0)
      (d'.requestOn (.stream c s.ctx s.id) tid a (writeParts typeWr 0 (padded.length + 1) a padded), none)
    else match d'.writeBy c (a % 2 ^ 48) bs none (.seg s.id) with
      | (d'', .err e) => (d'', some (if e = 3 then 36 else 33))
      | (d'', _) => (d'', none)
  | 1 =>
    if !d.regionOk c ds.regions true true a bs.length then (d, some 32) else (d'.poolWriteUnit c a bs (.seg s.id), none)
  | _ =>
    let t := d.spadTile c a
    if d.tileGone t then (d, some 36) else
    match d'.landWrite t (a % 2 ^ 19 / 4 * 4 + a % 4) bs none with
    | .ok d'' => (d'', none)
    | .error _ => (d, some 33)

/-- Destination address o bytes past a2. -/
def Desc.at2 (k : Desc) (a o : Nat) : Nat := addBase k.dstBaseKind a (o : Int)

/-- Writes bytes at offset q past a base. Toward another package address bits [1:0] are ignored (R430), and the word begun before, `tail`,
is sent again. -/
def Dev.stagePut (d : Dev) (c : Nat) (ds : Desc) (s : Segment) (base q : Nat) (tail bs : List Byte) : Dev × Option Nat :=
  if ds.dstKind = 0 && base / 2 ^ 48 % 65536 ≠ d.position then
    d.stageWrite c ds s (ds.at2 (base / 4 * 4) (q - tail.length)) tail.length (tail ++ bs)
  else d.stageWrite c ds s (ds.at2 base q) 0 bs

/-- The bytes of the last word that is not whole. -/
def wordTail (bs : List Byte) : List Byte := bs.drop (bs.length / 4 * 4)

/-- Converts whole units in a row: element bytes, scale bytes, conversions. -/
def Dev.convUnits (d : Dev) (c : Nat) (ds : Desc) (pad : Bool) (x e0 : Nat) : Nat → List Byte → List Byte × List Byte × List Conv
  | 0, _ => ([], [], [])
  | n + 1, bs =>
    let u := d.convUnit c ds pad (x + e0) (bs.take ds.unitSrc)
    let r := d.convUnits c ds pad x (e0 + ds.unitElems) n (bs.drop ds.unitSrc)
    (u.1 ++ r.1, u.2.1 ++ r.2.1, u.2.2 ++ r.2.2)

/-- n units of a segment in a row, from unit `first` of its iteration; a copy moves its bytes as they are, and those of units that are
lost are free values. -/
def Dev.convMany (d : Dev) (c : Nat) (ds : Desc) (s : Segment) (lost : Bool) (first n : Nat) (bs : List Byte) :
    List Byte × List Byte × List Conv :=
  if lost then
    ((List.range (n * ds.unitDst)).map (Config.padByte s.id), if ds.mxOut then (List.range n).map (Config.padByte s.id) else [], [])
  else if !ds.converts then (bs.take n, [], [])
  else d.convUnits c ds s.src.isNone s.x (first * ds.unitElems) n bs

/-- The base of a scratchpad destination: its byte address bits [1:0] are ignored. -/
def Desc.a2Word (k : Desc) (p : Prog) (n : Nat) : Nat :=
  if k.dstKind = 4 then addBase 2 (k.dst.toNat / 4 * 4) (p.sum n 2) else k.a2 p n
def Desc.scaleBase (k : Desc) : Nat := if k.dstKind = 4 then k.scaleDst.toNat / 4 * 4 else k.scaleDst.toNat

/-- Writes the whole units of some bytes to an addressed destination: the package, its stage and an abort code. Units that are lost, or
whose write is refused, are passed over. -/
def Dev.flowAddr (d : Dev) (c : Nat) (ds : Desc) (p : Prog) (s : Segment) (r : StageRun) (lost : Bool) (bs : List Byte) :
    Dev × StageRun × Option Nat :=
  let n := bs.length / ds.unitSrc
  let left := bs.drop (n * ds.unitSrc)
  let (el, sc, cs) := d.convMany c ds s lost r.units n bs
  let d := if ds.converts then d.baroUnit c 0 ds.tag ds.dfmt cs else d
  let (d, e1) := if lost then (d, none) else d.stagePut c ds s (ds.a2Word p s.iter) (r.units * ds.unitDst) r.tail el
  let (d, e2) := if lost || e1.isSome || !ds.usesScaleDst then (d, e1) else d.stagePut c ds s ds.scaleBase r.blocks r.scales sc
  (d, { r with got := left, gotHole := lost && left ≠ [], units := r.units + n, spoilt := r.spoilt || lost || e2.isSome
               tail := wordTail (r.tail ++ el), blocks := r.blocks + sc.length, scales := wordTail (r.scales ++ sc) }, e2)

/-- A unit that began with bytes that did not come is lost with them. -/
def Dev.flowOn (d : Dev) (c : Nat) (ds : Desc) (p : Prog) (s : Segment) (r : StageRun) (lost : Bool) (bs : List Byte) :
    Dev × StageRun × Option Nat :=
  if lost || !r.gotHole then d.flowAddr c ds p s r lost bs
  else if bs.length < ds.unitSrc then (d, { r with got := bs }, none)
  else
    let (d, r, _) := d.flowAddr c ds p s r true (bs.take ds.unitSrc)
    d.flowAddr c ds p s r false (bs.drop ds.unitSrc)

/-- A ring slot that is being filled: where its first byte lies, its size, how many bytes it holds. -/
structure OpenRing where
  base : Nat
  size : Nat
  fill : Nat

def Dev.openRing (d : Dev) (c : Nat) (ds : Desc) : Option OpenRing :=
  if ds.dstKind = 2 then
    match d.outRing c ds with
    | some q => if q.full.getD q.prod false then none else
        some { base := q.base + q.prod * q.slotSize, size := q.slotSize, fill := q.fill.getD q.prod 0 }
    | none => none
  else
    let q := d.port (d.ringTile c ds.dst) (ringPortOf ds.dst)
    if q.full.getD q.eng false then none else
      some { base := q.base + q.eng * q.slotSize, size := q.slotSize, fill := q.fill.getD q.eng 0 }

/-- Sets the fill of the slot being filled; `move` goes on to the next slot, `full` makes it full (R260); `last` is the stage's final byte. -/
def Dev.setOpenRing (d : Dev) (c : Nat) (ds : Desc) (fill : Nat) (move full last : Bool) : Dev :=
  if ds.dstKind = 2 then
    match d.outRing c ds with
    | some q => d.setOutRing c ds { q with fill := q.fill.set q.prod fill, full := q.full.set q.prod full
                                           prod := if move then (q.prod + 1) % q.slots else q.prod }
    | none => d
  else
    let t := d.ringTile c ds.dst
    let rp := ringPortOf ds.dst
    let q := d.port t rp
    d.setPort t rp { q with fill := q.fill.set q.eng fill, full := q.full.set q.eng full
                            eng := if move then (q.eng + 1) % q.slots else q.eng, ended := q.ended || last }

/-- Slots of the ring that a stage fills. -/
def Dev.ringSlots (d : Dev) (c : Nat) (ds : Desc) : Nat :=
  if ds.dstKind = 2 then ((d.outRing c ds).map fun q => q.slots).getD 0 else (d.port (d.ringTile c ds.dst) (ringPortOf ds.dst)).slots

/-- Stores bytes of a ring slot. -/
def Dev.ringStore (d : Dev) (c : Nat) (ds : Desc) (a : Nat) (bs : List Byte) : Dev :=
  let d := d.bump (.stream c) 0x98 bs.length
  if ds.dstKind = 2 then d.poolWriteUnit c a bs
  else d.modTile (d.ringTile c ds.dst) fun x => { x with spad := x.spad.writeBytes a bs }

/-- A write into a ring slot is refused: outside the regions (R272), or an input ring that has left its tile's landing window (R227). -/
def Dev.slotRefused (d : Dev) (c : Nat) (ds : Desc) (w : Nat × List Byte) : Option Nat :=
  if ds.dstKind = 2 then if d.regionOk c ds.regions true true w.1 w.2.length then none else some 32
  else if (d.tile (d.ringTile c ds.dst)).inWindow w.1 w.2.length then none else some 33

/-- Places units in ring slots while there is room (R253, R260): the package, its stage, the bytes left, an abort code. Units that are
lost keep their place; a slot that lacks them gets no scale bytes and never becomes full, and what would follow once the ring has come
round to it is discarded (DESIGN CHOICE, log entry 22). -/
def Dev.flowRing (c : Nat) (ds : Desc) (p : Prog) (s : Segment) (lost : Bool) :
    Nat → Dev → StageRun → List Byte → Dev × StageRun × List Byte × Option Nat
  | 0, d, r, bs => (d, r, bs, none)
  | f + 1, d, r, bs =>
    if bs.length < ds.unitSrc then (d, { r with got := bs, gotHole := bs ≠ [] && (lost || r.gotHole) }, [], none)
    else if r.ringGone.any fun n => d.ringSlots c ds ≤ n then (d, { r with spoilt := true }, [], none) else
    match d.openRing c ds with
    | none => (d, r, bs, none)
    | some o =>
      let miss := lost || r.gotHole
      let hole := r.slotHole || miss
      let k := r.scales.length
      let room := if ds.mxOut then ds.slotBlocks o.size - k else (o.size - o.fill) / ds.unitDst
      let n := if r.gotHole && !lost then 1 else min (bs.length / ds.unitSrc) room
      let (el, sc, cs) := d.convMany c ds s miss r.units n bs
      let d := if ds.converts then d.baroUnit c 0 ds.tag ds.dfmt cs else d
      let last := s.iter + 1 = p.total && r.units + n = p.len / ds.unitSrc
      let move := last || (if ds.mxOut then k + n = ds.slotBlocks o.size else o.fill + n * ds.unitDst = o.size)
      let scales := if ds.mxOut then r.scales ++ sc else []
      let writes := (if miss then [] else [(o.base + if ds.mxOut then k * ds.unitDst else o.fill, el)]) ++
        if ds.mxOut && move && !hole then [(o.base + (k + n) * ds.unitDst, scales)] else []
      match writes.findSome? (d.slotRefused c ds) with
      | some code => (d, r, bs, some code)
      | none =>
        let fill := if !ds.mxOut then o.fill + n * ds.unitDst else (k + n) * (ds.unitDst + b2n move)
        let d := (writes.foldl (fun d w => d.ringStore c ds w.1 w.2) d).setOpenRing c ds fill move (move && !hole) last
        let gone := if hole then some (r.ringGone.getD 0) else r.ringGone
        let r := { r with
          units := r.units + n, blocks := r.blocks + sc.length, scales := if move then [] else scales, gotHole := false
          spoilt := r.spoilt || miss, slotHole := hole && !move, ringGone := gone.map fun x => x + b2n move }
        Dev.flowRing c ds p s lost f d r (bs.drop (n * ds.unitSrc))

/-- The data of a segment whose source lies in the package; an error of the source is an error reply (R274). -/
def Dev.segSource (d : Dev) (s : Segment) (ds : Desc) : Except Nat (List Byte) :=
  match s.src with
  | none => .ok (List.replicate s.len 0)
  | some a =>
    if ds.srcKind = 1 then .ok ((d.poolNow s.core).readBytes a s.len)
    else match s.spot with
      | some p => if d.spotFenced s.len p then .error 36 else match d.readSpot p s.len with
        | .ok bs => .ok bs
        | .error _ => .error 33
      | none => .error 33

/-- The last byte of a segment has been placed, or passed over: at the end of its iteration the iteration is counted as completed, and
landed (R244, R269), if all of it was written; the segment then waits for the answers to its writes. -/
def Dev.placed (d : Dev) (ds : Desc) (p : Prog) (s : Segment) (r : StageRun) : Dev :=
  let (c, k) := (s.core, s.ctx)
  let endIter := s.off + s.len = p.len
  let whole := endIter && !r.spoilt
  let d := d.setRun c k (if endIter then { r with units := 0, tail := [], spoilt := false } else r)
  let d := match ds.lc with
    | some lc =>
      let a2 := ds.a2Word p s.iter
      let units := p.len / ds.unitSrc
      let same := ds.usesScaleDst && d.spadTile c ds.scaleBase = d.spadTile c a2
      if whole && ds.dstKind = 4 then d.landed (d.spadTile c a2) lc (units * ds.unitDst + if same then units else 0) else d
    | none => d
  let d := if whole then d.setProgress c k ((d.descWord c k 15).toNat + 1) else d
  ((d.setSeg { s with phase := .acking }).freeReserved s.id).segDone s.id

/-- Data of segment s, or as many bytes that are lost, take their place in the destination as far as there is room. A write that meets a
fault aborts the chain, and the rest of the segment is lost (R274). -/
def Dev.advance (d : Dev) (s : Segment) (lost : Bool) (data : List Byte) : Dev :=
  match d.stageRun s.core s.ctx with
  | none => d
  | some r =>
    let ds := d.desc s.core s.ctx
    match parseProg r.prog with
    | none => d
    | some p =>
      let bs := r.got ++ data
      let (d, r, rest, e) :=
        if ds.ringDst then Dev.flowRing s.core ds p s lost (bs.length + 1) d { r with got := [] } bs
        else let (d, r, e) := d.flowOn s.core ds p s r lost bs; (d, r, [], e)
      match e with
      | some code => ((d.setRun s.core s.ctx r).setSeg { s with phase := .lost rest.length }).abortChain s.core s.ctx code
      | none =>
        if rest = [] then d.placed ds p s r
        -- a producer that is ending has no consumer: what finds no room in its pool ring is discarded (DESIGN CHOICE, log entry 22)
        else if ds.dstKind = 2 && r.ending.isSome then d.placed ds p s { r with spoilt := true }
        else (d.setRun s.core s.ctx r).setSeg { s with phase := if lost then .lost rest.length else .here rest }

def SegPhase.isLost : SegPhase → Bool
  | .lost _ => true
  | _ => false

/-- Segments of a stage that have not been placed, oldest first. -/
def Dev.unplaced (d : Dev) (c k : Nat) : List Segment := d.segs.filter fun s => s.core == c && s.ctx == k && s.phase != .acking

/-- Lost segments whose turn it is are passed over, so that those after them keep their place; with none after them they end. -/
def Dev.dropLost (c k : Nat) : Nat → Dev → Dev
  | 0, d => d
  | f + 1, d =>
    let l := d.unplaced c k
    if l.all fun s => s.phase.isLost then
      l.foldl (fun d s => ((d.setSeg { s with phase := .acking }).freeReserved s.id).segDone s.id) d
    else match l with
      | s :: _ => match s.phase with
        | .lost n =>
          let d' := d.advance s true (List.replicate n 0)
          if (d'.unplaced c k).any fun x => x.id == s.id then d' else Dev.dropLost c k f d'
        | _ => d
      | [] => d

def Dev.passLost (d : Dev) (c k : Nat) : Dev := Dev.dropLost c k ((d.unplaced c k).length + 1) d

/-- A segment fails: it writes nothing further, its place is passed over in its turn, and its chain aborts (R274). -/
def Dev.loseSeg (d : Dev) (s : Segment) (code : Nat) : Dev :=
  let left := match s.phase with
    | .here bs => bs.length
    | .lost n => n
    | _ => s.len
  ((d.setSeg { s with phase := .lost left }).abortChain s.core s.ctx code).passLost s.core s.ctx

/-- An answer ended with an error. -/
def Dev.segFail (d : Dev) (id code : Nat) : Dev :=
  match d.segs.find? fun s => s.id == id with
  | none => d
  | some s => if s.phase == .acking then (d.dropSeg id).abortChain s.core s.ctx code else d.loseSeg s code

/-- SEGMENT_COMPLETE: the data of segment i reach its destination as far as there is room. -/
def Dev.segmentComplete (d : Dev) (i : Nat) (bad : Bool) : Dev :=
  match d.segs[i]? with
  | none => d
  | some s =>
    if s.phase == .acking || ((d.unplaced s.core s.ctx).head?.map Segment.id) ≠ some s.id then d else
    match d.stageRun s.core s.ctx with
    | none => d
    | some r =>
      let ds := d.desc s.core s.ctx
      let gathers := (parseProg r.prog).any fun p => p.gath.isSome
      if s.phase.isLost then d.passLost s.core s.ctx
      else if s.phase == .reading && d.segReads s then d
      else if bad && (ds.srcKind = 1 || ds.srcKind = 2 || gathers) then (d.raise (.pool s.core) 1).loseSeg s 34
      else if ds.dstKind = 3 && d.tileGone (d.ringTile s.core ds.dst) then d.loseSeg s 36
      else match (match s.phase with
          | .here bs => Except.ok bs
          | _ => d.segSource s ds) with
        | .error e => d.loseSeg s e
        | .ok data => (d.advance s false data).passLost s.core s.ctx

/-! ### Completion (R270, R275) -/

/-- Records a completed retaining stage in the lowest free entry: from its source base on, as many bytes as it read. R275 does not say which
range a program records whose strides leave gaps or run backwards (DESIGN CHOICE, log entry 22). -/
def Dev.retainStage (d : Dev) (c : Nat) (ds : Desc) (p : Prog) : Dev :=
  match (List.range 16).find? fun e => (d.retain.get? (16 * c + e)).isNone with
  | some e =>
    let x : Retention := { src := ds.src, dst := ds.dst, len := BitVec.ofNat 64 p.srcTotal }
    { d with retain := d.retain.set (16 * c + e) x }
  | none => d

/-- STAGE_COMPLETE: a stage all of whose iterations are issued and acknowledged, after those before it in its chain. -/
def Dev.stageComplete (d : Dev) (c k : Nat) : Dev :=
  match d.stageRun c k with
  | none => d
  | some r =>
    let ds := d.desc c k
    match parseProg r.prog with
    | none => d
    | some p =>
      if r.iter < p.total || r.ending.isSome || d.hasSegs c k || d.hasProducer c k then d else
      let d := if ds.res = 1 then d.retainStage c ds p else d
      let d := { d with stages := d.stages.erase (runKey c k) }.setCtxState c k 2 0
      match ds.done with
      | some obj => d.sendItem c { chan := .stream c, core := c, what := .add obj ds.doneVal none }
      | none => d

/-- STR_RET_CLEAR, or a commit that takes effect (R276). -/
def Dev.retClear (d : Dev) (c : Nat) : Dev := { d with retain := d.retain.keep fun k _ => k / 16 ≠ c }

/-! ### Instructions -/

/-- SSTART (R254, R255). -/
def semSstart (v : View) (sD sCtx : BitVec 6) (rsv : BitVec 14) : SlotSem :=
  { slot := 3, srcs := [rs sCtx], dests := [rs sD], illegal := illegalIf false (rsv ≠ 0), needs := [.poolStores]
    eff := fun d =>
      let (d, code) := (v.flushOwn d).startChain v.core (fld (v.s sCtx) 0 10)
      v.ws sD (BitVec.ofNat 32 code) d }

/-- SSTOP (R255, R256). -/
def semSstop (v : View) (sD sCtx : BitVec 6) (rsv : BitVec 14) : SlotSem :=
  { slot := 3, srcs := [rs sCtx], dests := [rs sD], illegal := illegalIf false (rsv ≠ 0), needs := [.poolStores]
    eff := fun d =>
      let (d, st) := (v.flushOwn d).stopChain v.core (fld (v.s sCtx) 0 10)
      v.ws sD (BitVec.ofNat 32 st) d }

def View.port (v : View) (rp : BitVec 3) : RingPort := v.d.port v.t rp.toNat

/-- RSTAT (R258). The fill of a current read slot that is not full reads 0: R260 speaks of published slots alone (DESIGN CHOICE, log entry
22). -/
def semRstat (v : View) (sD : BitVec 6) (rp : BitVec 3) (rsv : BitVec 17) : SlotSem :=
  let p := v.port rp
  let full := p.full.getD p.cur false
  { slot := 3, dests := [rs sD], illegal := illegalIf false (rsv ≠ 0)
    eff := v.ws sD (if !p.bound then 0 else packFields 32
      [(0, 1), (1, b2n p.output), (2, b2n (!p.output && full)), (3, b2n (p.output && !full)), (4, p.cur),
       (16, if !p.output && full then p.fill.getD p.cur 0 / 4 else 0)]) }

/-- An access of 256 bytes at word offset off extends beyond the slot: its TRAP_INFO is the slot's end. -/
def slotTrap (p : RingPort) (off : BitVec 12) : List (Nat × Word) :=
  if p.bound && p.slotSize < 4 * off.toNat + 256 then
    [(trapAddr, BitVec.ofNat 32 (p.base + p.cur * p.slotSize + max p.slotSize (4 * off.toNat)))] else []

/-- RLDV (R259). -/
def semRldv (v : View) (vD : BitVec 5) (rp p : BitVec 3) (off : BitVec 12) (rsv : BitVec 3) : SlotSem :=
  let q := v.port rp
  let a := q.base + q.cur * q.slotSize + 4 * off.toNat
  { slot := 3, srcs := rp_ p :: (if p = 0 then [] else [rv vD]), dests := [rv vD], illegal := illegalIf false (rsv ≠ 0)
    traps := if q.output then [] else slotTrap q off
    needs := [.ring rp.toNat false]
    access := [(false, a, 256)]
    eff := fun d =>
      let new := mkLanes fun i => BitVec.ofNat 32 (ofBytesLE (v.tile.readBytes (a + 4 * i) 4))
      v.wv vD (selectLanes (v.p p) new (v.v vD)) (d.modTile v.t fun x => x.flushSpan a 256) }
where rp_ (n : BitVec 3) : Reg := .p n.toNat

/-- RREL (R257, R259): the input port unbinds with the last slot that its stage published. -/
def semRrel (v : View) (rp : BitVec 3) (rsv : BitVec 23) : SlotSem :=
  let q := v.port rp
  { slot := 3, illegal := illegalIf false (rsv ≠ 0)
    needs := [.ring rp.toNat false]
    eff := fun d =>
      let q' := { q with full := q.full.set q.cur false, fill := q.fill.set q.cur 0, cur := (q.cur + 1) % q.slots }
      let none_ := (List.range q.slots).all fun i => !(q'.full.getD i false)
      d.setPort v.t rp.toNat (if q.ended && none_ then RingPort.reset else q') }

/-- RSTV (R261). -/
def semRstv (v : View) (vA : BitVec 5) (rp p : BitVec 3) (off : BitVec 12) (rsv : BitVec 3) : SlotSem :=
  let q := v.port rp
  let a := q.base + q.cur * q.slotSize + 4 * off.toNat
  let els := ((List.range 64).filter fun i => (v.p p).getLsbD i).map fun i => (a + 4 * i, bytesLE 4 (lane (v.v vA) i).toNat)
  { slot := 3, srcs := [rv vA, .p p.toNat], illegal := illegalIf false (rsv ≠ 0)
    traps := if q.output then slotTrap q off else []
    needs := [.ring rp.toNat true, .port (linesOf a 256) false]
    access := els.map fun e => (true, e.1, 4)
    eff := fun d => v.storeElems els (d.modTile v.t fun x => x.flushSpan a 256) }

/-- RPUB (R261). -/
def semRpub (v : View) (rp : BitVec 3) (sLen : BitVec 6) (rsv : BitVec 17) : SlotSem :=
  let q := v.port rp
  let w := v.s sLen
  let n := if w = 0 then q.slotSize else (w.toNat + 3) / 4 * 4
  { slot := 3, srcs := [rs sLen], illegal := illegalIf false (rsv ≠ 0)
    traps := if q.bound && q.output && q.slotSize < w.toNat then [(trapAddr, w)] else []
    needs := [.ring rp.toNat true, .poolStores]
    eff := fun d => (v.flushOwn d).setPort v.t rp.toNat
      { q with full := q.full.set q.cur true, fill := q.fill.set q.cur n, cur := (q.cur + 1) % q.slots } }

/-- STREAM_UNDERRUN (R262, R277): a ring instruction of the selected context has waited STR_STALL_LIMIT consecutive cycles, at least
256. -/
def Dev.streamUnderrun (d : Dev) (t : Nat) (rp : Nat) (out : Bool) : Dev :=
  match (d.tile t).sel with
  | none => d
  | some bg =>
    let p := d.port t rp
    let c := d.ctx t bg
    if !c.run || !c.waits.contains (.ring rp out) || c.ringWait < max 256 (d.preg (.stream (tileCore t)) 0x80).toNat then d else
    d.takeTrap t bg trapUnderrun
      (packFields 32 [(0, rp), (3, b2n out), (4, if p.bound then p.stage else 0x3FF)]) c.pc

end Sys2Proof.Machine
end

