-- ==== Sys2Proof/Machine/TileEvents.lean ====
section
/-! DEFINITION. Events of the tile and of its core pool that no instruction brings about: write-combining timeout (R223),
the sequencer's switches (R59), run bits (R79, R82), tile counters (R84) and management multicast (R237). -/

namespace Sys2Proof.Machine

/-- WCB_IDLE_FLUSH: entry n, oldest first, has received no store for 64 cycles (R223). -/
def Dev.wcbIdle (d : Dev) (t n : Nat) : Dev :=
  match (d.tile t).wcb[n]? with
  | none => d
  | some e => d.modTile t fun x => { x with spad := flushEntry x.spad e, wcb := x.wcb.take n ++ x.wcb.drop (n + 1) }

/-- R59 rule 2: the foreground can issue while the background is selected and fg_preempt is 1. -/
def Dev.preempt (d : Dev) (t : Nat) : Dev :=
  if d.tileLive t && (d.tile t).sel = some true && (d.tile t).switching = 0 && d.canIssue t false && bit (d.preg (.tile t) 0x88) 8 then d.switchTo t false
  else d

/-- R59 rule 4: switch_mode is 1, the selected context has stalled for stall_thresh cycles, the other can issue. -/
def Dev.stallYield (d : Dev) (t : Nat) : Dev :=
  let w := d.preg (.tile t) 0x88
  match (d.tile t).sel with
  | none => d
  | some bg =>
    if d.tileLive t && bit w 9 && max 1 (fld w 16 8) ≤ (d.ctx t bg).stall && (d.tile t).switching = 0 && d.canIssue t (!bg) then
      d.switchTo t (!bg)
    else d

/-- An operation or load that will still write register r of the context is in flight. -/
def Dev.stillComes (d : Dev) (t : Nat) (bg : Bool) (r : Reg) : Bool :=
  (d.ctx t bg).loads.any (fun l => l.dest == r) ||
  (d.syncs ++ d.syncHeld).any fun f =>
    let hit (reply : Option (Nat × Bool × Nat)) : Bool :=
      match reply with
      | some (t', bg', n) => t' == t && bg' == bg && Reg.s n == r
      | none => false
    match f.what with
    | .add _ _ r => hit r
    | .set _ _ r => hit r
    | .cas _ _ _ r => hit r
    | _ => false

/-- A run bit is written 1: a halted context starts, unless its TRAP record is valid (R79). -/
def Dev.startRun (d : Dev) (t : Nat) (bg : Bool) : Dev :=
  if (d.ctx t bg).run || bit (d.ctx t bg).trap 31 then d
  else d.modCtx t bg fun c => { c with run := true, stall := 0, ringWait := 0, waits := [] }

/-- A run bit is written 0: a running context halts at its bundle boundary; a register whose operation a fenced core has discarded
keeps its contents (R316). -/
def Dev.clearRun (d : Dev) (t : Nat) (bg : Bool) : Dev :=
  if (d.ctx t bg).run then (d.endRun t bg).modCtx t bg fun c => { c with pend := c.pend.filter (d.stillComes t bg) } else d

/-- One run bit is written. -/
def Dev.writeRun (d : Dev) (t : Nat) (bg run : Bool) : Dev := if run then d.startRun t bg else d.clearRun t bg

/-- A tile with a running context and none selected selects one, the foreground first. -/
def Dev.pickCtx (d : Dev) (t : Nat) : Dev :=
  let x := d.tile t
  if x.sel.isSome then d
  else if x.fg.run then d.setTile t { x with sel := some false }
  else if x.bg.run then d.setTile t { x with sel := some true }
  else d

/-- A write of CTX_CTRL (R59, R79, R81, R82): mode fields and both run bits, then the selection that follows from them. A spare position has no run bits (R687), and a fenced
tile stays halted (R567). -/
def Dev.writeCtxCtrl (d : Dev) (t : Nat) (w : Word) : Dev :=
  if !d.pageAnswers (.tile t) then d else
  let d := d.setPreg (.tile t) 0x88 (w &&& 0x00FF0300#32)
  if d.isSpare t || d.pageFenced (.tile t) then d else
  (((d.writeRun t false (bit w 0)).writeRun t true (bit w 1)).reselect t).pickCtx t

/-- CNT_CLEAR: a write of CNT_CTRL (R84). -/
def Dev.cntWrite (d : Dev) (t : Nat) (w : Word) : Dev := if d.pageAnswers (.tile t) then d.writeCntCtrl t w else d

/-! ### Management multicast (R231, R237) -/

/-- What byte i of a ring table entry holds of a byte written: the reserved bits and those that are always zero read 0 (R281). -/
def ringKeep (i : Nat) (b : Byte) : Byte :=
  b &&& (([0xC0, 0xFF, 0x07, 0, 0xFF, 0x7F, 0, 0, 0xFF, 0x3F, 0xFF, 0x3F] : List Byte).getD i 0xFF)

/-- What the queue ring area and the landing area hold of a byte written at address a: their reserved bits and words read 0 (R15, R226,
R281). -/
def landKeep (a : Nat) (b : Byte) : Byte :=
  if a < 0x48000 then b
  else if a < 0x48100 then ringKeep (a % 16) b
  else if a < 0x4FD08 then b
  else if 0x4FD10 ≤ a then 0
  else match a % 4 with
    | 0 => b &&& 0xFC
    | 1 => b
    | 2 => b &&& 0x07
    | _ => 0

/-- One tile takes a management write. Counters of the landing area that change are compared with their watches. -/
def Dev.mcastOne (d : Dev) (dest : McastTo) (data : List Byte) (t : Nat) : Dev :=
  if !d.coreEnabled (tileCore t) then d
  else if (d.tile t).fg.run || (d.tile t).bg.run then (d.bump (.pool (tileCore t)) 0xA0 1).raise (.pool (tileCore t)) 2
  else match dest with
    | .spad a =>
      let d := d.modTile t fun x => { x with spad := x.spad.writeBytes a ((data.take (spadSize - a)).mapIdx fun i b => landKeep (a + i) b) }
      (List.range 64).foldl (fun d n =>
        if a < lcAddr n + 4 && lcAddr n < a + data.length then d.landEval t n else d) (d.retryBoth t)
    | .imem i => d.modTile t fun x => { x with imem := x.imem.set i (BitVec.ofNat 128 (ofBytesLE (data.take 16))) }
    | .layer e => d.modTile t fun x => { x with layer := x.layer.set e (data.getD 0 0) }

/-- MCAST_WRITE: the MC or the loader writes every named tile; the mesh carries it from SRAM_INIT on. The MC
is a unit of no core (DESIGN CHOICE, log entry 27). -/
def Dev.mcast (d : Dev) (ts : List (Fin 1632)) (dest : McastTo) (data : List Byte) : Dev :=
  if d.mc.stage.full || d.mc.stage == .tileFw then
    ts.foldl (fun d t => d.mcastOne dest data t.val) (d.injectBulk (edgeCore 0) 3)
  else d

end Sys2Proof.Machine
end

