-- ==== Sys2Proof/Machine/Power.lean ====
section
/-! DEFINITION. Power, thermal and cooling profiles (22 R599 to R625): the tile clock, the Gust budget, the emergency
throttle, the temperature sensors, Calm, and the refresh of the memory ports (13 R379). -/

namespace Sys2Proof.Machine

/-! ### Profile and clock (R599 to R605) -/

/-- Profile clock in MHz, power limit in W, Gust budget in tokens (R600). -/
def profileClock (p : Nat) : Nat := [1150, 1450, 1600].getD p 1150
def profileLimit (p : Nat) : Nat := [750, 1050, 1300].getD p 750
def profileBudget (p : Nat) : Nat := 2 * profileLimit p

/-- A multiple of 25 MHz between 575 MHz and the profile clock (R602). -/
def Dev.legalClk (d : Dev) (mhz : Nat) : Nat := min (profileClock d.mc.profile) (max 575 (mhz / 25 * 25))

/-- PWR_CLK_CAP as it behaves (R623). -/
def Dev.clkCap (d : Dev) : Nat := d.legalClk (fld (d.preg .pwr 0x88) 0 12)

/-- The tile clock before halving is set; a change counts (R604). -/
def Dev.setClk (d : Dev) (mhz : Nat) : Dev :=
  if mhz = d.pwr.clk then d else ({ d with pwr := { d.pwr with clk := mhz } }).bumpAlways .pwr 0xC0 1

/-- The clock while the forecast is disarmed (R605). -/
def Dev.idleClk (d : Dev) : Dev := d.setClk (min (profileClock d.mc.profile) d.clkCap)

/-- The clock of a superstep origin (R603). -/
def Dev.originClk (d : Dev) : Dev :=
  let fc := fld (d.preg .tmb 0x220) 0 12
  let prof := profileClock d.mc.profile
  d.setClk (if prof < fc then prof
    else if bit (d.preg .pwr 0x84) 0 then d.legalClk fc
    else max (d.legalClk fc) (min d.pwr.level (min prof d.clkCap)))

/-- Moves the Gust level by n steps down or one step up (R604). -/
def Dev.lowerLevel (d : Dev) (n : Nat) : Dev := { d with pwr := { d.pwr with level := max 575 (d.pwr.level - 25 * n) } }
def Dev.raiseLevel (d : Dev) : Dev := { d with pwr := { d.pwr with level := d.legalClk (d.pwr.level + 25) } }

/-- Some TEMP_HIGH reading holds (R616). -/
def Dev.tempHigh (d : Dev) : Bool := d.pwr.hot.cells.any fun c => c.2

/-- Gust's level at an origin (R604, R616): a temperature that is high lowers it in place of raising it. -/
def Dev.originLevel (d : Dev) : Dev :=
  let cores := (List.range 8).filter d.coreEnabled
  let frac (c : Nat) : Nat := d.pwr.gated.getD c 0
  if d.tempHigh || cores.any (fun c => 200 < frac c) then d.lowerLevel 1
  else if cores.all fun c => frac c < 50 then d.raiseLevel
  else d

/-! ### Emergency throttle (R611 to R614) -/

/-- Some cause is active. -/
def Pwr.caused (p : Pwr) : Bool := p.ext || p.temp || p.power

/-- THROTTLE_N is driven low by the package (R612), which releases it while the main domain is in reset (R666). -/
def Dev.drivesThrottle (d : Dev) : Bool := d.pwr.temp && !d.mainInReset

/-- A cause has become active: the clock is halved, the entry counted, THROTTLE recorded against the open slot. In Calm
there is no tile clock and the throttle waits for the wake (R614). -/
def Dev.throttle (d : Dev) : Dev :=
  if d.pwr.calm = .calm || d.pwr.calm = .waking then d else
  let d := { d with pwr := { d.pwr with releaseDue := false } }
  if d.pwr.throttled then d
  else (({ d with pwr := { d.pwr with throttled := true } }).bumpAlways .pwr 0xB0 1).slotEvent 3

/-- The throttle ends (R613): the clock is set by R603, its level one step lower for each POWER entry. -/
def Dev.unthrottle (d : Dev) : Dev :=
  let d := (d.lowerLevel d.pwr.powerEntries)
  { d with pwr := { d.pwr with throttled := false, releaseDue := false, powerEntries := 0 } }

/-- THROTTLE_EXT: THROTTLE_N is sampled low; a low level counts only while the package does not drive it (R612). -/
def Dev.throttleExt (d : Dev) : Dev :=
  let d := { d with pins := { d.pins with throttleLow := true } }
  if d.drivesThrottle || d.pwr.ext || d.mc.stage = .off || d.mc.thermtrip then d else ({ d with pwr := { d.pwr with ext := true } }).throttle

/-- THROTTLE_N_HIGH: the line has been high for 10 us (R613). -/
def Dev.throttleHigh (d : Dev) : Dev :=
  if d.drivesThrottle then d else
  { d with pins := { d.pins with throttleLow := false }, pwr := { d.pwr with ext := false } }

/-- THROTTLE_RELEASE: no cause for 100 us; released at the next origin, or at once while disarmed (R613). -/
def Dev.throttleRelease (d : Dev) : Dev :=
  if !d.pwr.throttled || d.pwr.caused then d
  else if d.fc.armed then { d with pwr := { d.pwr with releaseDue := true } }
  else d.unthrottle.idleClk

/-- What an origin does to the clock: level, release of a throttle that is due, clock (R603, R604, R613). -/
def Dev.powerOrigin (d : Dev) : Dev :=
  let d := d.originLevel
  let d := if d.pwr.releaseDue && !d.pwr.caused then d.unthrottle else { d with pwr := { d.pwr with powerEntries := 0 } }
  d.originClk

/-! ### Sensors (R615 to R617) -/

def isStack (s : Nat) : Bool := 38 ≤ s
/-- A failed sensor is treated as reading 105.0 or 95.0 degrees. -/
def Dev.sensor (d : Dev) (s : Nat) : Nat :=
  if d.pwr.failed.getD s false then (if isStack s then 950 else 1050) else d.pwr.temps.getD s 0

def sensors : List Nat := List.range 46

/-- TEMP_HIGH once per crossing. -/
def Dev.checkHigh (d : Dev) (s : Nat) : Dev :=
  let high := (if isStack s then 850 else 1000) ≤ d.sensor s
  let was := d.pwr.hot.getD s false
  let d := { d with pwr := { d.pwr with hot := if high then d.pwr.hot.set s true else d.pwr.hot.erase s } }
  if high && !was then d.raise .pwr 1 else d

/-- Cause TEMP arises or clears; a board request that stood while the package drove the line then counts (R612). -/
def Dev.checkTemp (d : Dev) : Dev :=
  let hot := sensors.any fun s => (if isStack s then 950 else 1050) ≤ d.sensor s
  let cool := sensors.all fun s => d.sensor s ≤ (if isStack s then 920 else 1020)
  if hot && !d.pwr.temp then (({ d with pwr := { d.pwr with temp := true } }).raise .pwr 2).throttle
  else if cool && d.pwr.temp then
    let d := { d with pwr := { d.pwr with temp := false } }
    if d.pins.throttleLow then ({ d with pwr := { d.pwr with ext := true } }).throttle else d
  else d

/-- The hottest junction reading. -/
def Dev.hottest (d : Dev) : Nat := (sensors.filter fun s => !isStack s).foldl (fun m s => max m (d.sensor s)) 0

/-- THERMTRIP (R617): clocks stop, the pin is driven until PWR_OK falls, the record is queued and the source raised. -/
def Dev.thermtrip (d : Dev) : Dev :=
  if d.mc.thermtrip then d else
  let d := { d with mc := { d.mc with thermtrip := true } }
  let (d, lost) := d.pushEvent (d.event 0x30 (Page.index .pwr) 0 0 false (bytesLE 2 d.hottest) true)
  Dev.raiseList 8 ((if lost then [(Page.evr, 1)] else []) ++ [(.pwr, 5)]) d

/-- A die sensor at 120.0 degrees on two consecutive reads. -/
def Dev.checkTrip (d : Dev) (reported : List Nat) : Dev :=
  let hot (s : Nat) : Bool := !isStack s && reported.contains s && 1200 ≤ d.pwr.temps.getD s 0
  let trip := sensors.any fun s => hot s && d.pwr.tripOnce.getD s false
  let once := sensors.foldl (fun (t : Tbl Bool) s =>
    if !reported.contains s then t else if hot s then t.set s true else t.erase s) d.pwr.tripOnce
  let d := { d with pwr := { d.pwr with tripOnce := once } }
  if trip then d.thermtrip else d

def Dev.thresholds (d : Dev) (reported : List Nat) : Dev :=
  ((sensors.foldl Dev.checkHigh d).checkTemp).checkTrip reported

/-- SENSOR_READ: the sensors that report, each with its value in 0.1 degrees. -/
def Dev.sensorRead (d : Dev) (rs : List (Nat × Nat)) : Dev :=
  if d.mc.stage = .off then d else
  let rs := rs.filter fun r => r.1 < 46
  let d := rs.foldl (fun d r => { d with pwr := { d.pwr with
    temps := d.pwr.temps.set r.1 (r.2 % 4096), failed := d.pwr.failed.erase r.1 } }) d
  d.thresholds (rs.map fun r => r.1)

/-- SENSOR_FAIL: sensor s has reported nothing for 100 us. -/
def Dev.sensorFail (d : Dev) (s : Nat) : Dev :=
  if d.mc.stage = .off || 46 ≤ s || d.pwr.failed.getD s false then d else
  let d := { d with pwr := { d.pwr with failed := d.pwr.failed.set s true } }
  (d.raise .pwr 4).thresholds []

/-! ### Gust (R606 to R610) -/

/-- Sum of min (demand, l). -/
def filled (l : Nat) (ds : List Nat) : Nat := ds.foldl (fun s x => s + min x l) 0

/-- The common level of R607: the largest integer for which the grants fit. -/
def fillLevel (avail : Nat) (ds : List Nat) : Nat :=
  let top := ds.foldl max 0
  ((List.range (top + 1)).filter fun l => filled l ds ≤ avail).foldl max 0

/-- Water-filling (R607): the left-over tokens go one each to unsatisfied consumers in ascending order. -/
def waterFill (avail : Nat) (ds : List Nat) : List Nat :=
  let l := fillLevel avail ds
  let left := avail - filled l ds
  (ds.foldl (fun (acc : List Nat × Nat) x =>
    if l < x && 0 < acc.2 then (acc.1 ++ [l + 1], acc.2 - 1) else (acc.1 ++ [min x l], acc.2)) ([], left)).1

/-- GUST_PERIOD: energies measured in the period that ends (cores 0 to 7, ports 8 to 15, link dies 16 and 17, rest 18),
estimates of queued work (cores, then ports), gated fractions of the trailing 1 ms, and its average power. -/
def Dev.gustPeriod (d : Dev) (energy estimate gated : List Nat) (avgW : Nat) : Dev :=
  if d.mc.stage = .off then d else
  let e (i : Nat) : Nat := energy.getD i 0
  let total := (List.range 19).foldl (fun s i => s + e i) 0
  let budget := profileBudget d.mc.profile
  let d := d.bumpAlways .pwr 0xA0 total
  let d := (List.range 18).foldl (fun d i => d.bumpAlways .pwr (0x100 + 8 * i) (e i)) d
  let avail := budget - 40 - e 16 - e 17
  let ports := (List.range 8).map fun n => e (8 + n) + estimate.getD (8 + n) 0
  let portG := waterFill avail ports
  let cores := (List.range 8).map fun c => if d.coreEnabled c then e c + estimate.getD c 0 else 0
  let coreG := waterFill (avail - portG.foldl (· + ·) 0) cores
  let excess := if budget < total then d.pwr.overBudget + 1 else 0
  let newPower := 4 ≤ excess && !d.pwr.power
  let pw := { d.pwr with
    lastEnergy := (⟨[]⟩ : Tbl Nat).setMany 0 ((List.range 18).map e), grants := (⟨[]⟩ : Tbl Nat).setMany 0 (coreG ++ portG)
    spent := ⟨[]⟩, overBudget := excess, avgW := avgW % 65536, gated := (⟨[]⟩ : Tbl Nat).setMany 0 gated
    power := if avgW * 10 < profileLimit d.mc.profile * 9 then newPower else d.pwr.power || newPower
    powerEntries := d.pwr.powerEntries + b2n newPower }
  let d := { d with pwr := pw }
  if newPower then (d.raise .pwr 3).throttle else d

/-- GRANT_SPENT: core i, or memory port i - 8, has spent its grant; a core is held for `cycles` of the period (R609). -/
def Dev.grantSpent (d : Dev) (i cycles : Nat) : Dev :=
  if 16 ≤ i then d else
  let d := { d with pwr := { d.pwr with spent := d.pwr.spent.set i true } }
  if i < 8 then d.bumpAlways .pwr 0xA8 cycles else d

/-! ### Calm (R619 to R621) -/

/-- The conditions of R620. -/
def Dev.calmOk (d : Dev) : Bool :=
  d.allHalted && d.stages.cells = [] && (d.colls.cells.all fun c => c.2.state != .running) && !d.fc.armed &&
  !bit (d.preg .tmb 0x80) 0 && (List.range 12).all fun p => !bit (d.preg (.fport p) 0x80) 0

/-- PWR_CMD (R620, R621, R623). -/
def Dev.pwrCmd (d : Dev) (w : Word) : Dev :=
  if !d.pageAnswers .pwr || !d.pageOn .pwr then d else
  let d := { d with pwr := { d.pwr with refused := false } }
  let d := if bit w 0 then
      if d.pwr.calm = .run && d.calmOk then { d with pwr := { d.pwr with calm := .entering } }
      else { d with pwr := { d.pwr with refused := true } }
    else d
  if bit w 1 && d.pwr.calm = .calm then { d with pwr := { d.pwr with calm := .waking } } else d

def Dev.calmCmd (d : Dev) : Dev := d.pwrCmd 1
def Dev.wakeCmd (d : Dev) : Dev := d.pwrCmd 2

/-- CALM_ENTERED: clocks stop, the ports lose their saved coefficients, a throttle ends with the clocks. -/
def Dev.calmEntered (d : Dev) : Dev :=
  if d.pwr.calm != .entering then d else
  { d with pwr := { d.pwr with calm := .calm, throttled := false, releaseDue := false }
           ports := d.ports.mapVals fun _ x => { x with fast := false } }

/-- WAKE_DONE: the clocks run and the causes are sampled afresh; a line that the board holds low counts as EXT, unless the package drives
it itself (R612, R614). -/
def Dev.wakeDone (d : Dev) : Dev :=
  if d.pwr.calm != .waking then d else
  let hot := sensors.any fun s => (if isStack s then 950 else 1050) ≤ d.sensor s
  let pw := { d.pwr with calm := .run, temp := hot, power := false, ext := d.pins.throttleLow && (d.pwr.ext || !hot) }
  let d := { d with pwr := pw }
  let d := if hot then d.raise .pwr 2 else d
  if d.pwr.caused then d.throttle else d

/-- CLK_CAP_WRITE (R605, R624). -/
def Dev.clkCapWrite (d : Dev) (w : Word) : Dev :=
  if !d.pageAnswers .pwr then d else
  let d := d.setPreg .pwr 0x88 (w &&& 0xFFF#32)
  if d.fc.armed then d else d.idleClk

/-! ### Refresh (R379) -/

/-- The stack's memory port is in service for refresh: not in self-refresh. -/
def Dev.refreshing (d : Dev) : Bool := d.mc.stage.full && d.pwr.calm = .run && !d.mc.thermtrip

/-- The refresh window that is open names port n. -/
def Dev.windowOf (d : Dev) (n : Nat) : Bool :=
  match d.fc.slots.getLast? with
  | some s => d.fc.armed && (d.slotRec s.slot).kind = 3 && bit (d.slotRec s.slot).ports n
  | none => false

/-- A window that opens performs the whole debt of port n. -/
def Dev.windowRefresh (d : Dev) (n : Nat) : Dev :=
  let debt := d.fc.debt.getD n 0
  if debt = 0 then d
  else ({ d with fc := { d.fc with debt := d.fc.debt.erase n } }).bump (.mem n) 0xA0 debt

/-- HBM_REFRESH_DUE at port n: performed in an open window, deferred as debt, or at once when the debt is 8. -/
def Dev.refreshDue (d : Dev) (n : Nat) : Dev :=
  if !d.refreshing || 8 ≤ n then d
  else if d.windowOf n then d.bump (.mem n) 0xA0 1
  else if d.fc.debt.getD n 0 < 8 then { d with fc := { d.fc with debt := d.fc.debt.modify n 0 (· + 1) } }
  else (d.bump (.mem n) 0xA8 1).slotEvent 2

end Sys2Proof.Machine
end

