-- ==== Sys2Proof/Machine/Time.lean ====
section
/-! DEFINITION. Fabric time (13 R362 to R369): the time base, its states, the TSYNC exchange, the correction, EPOCH and
the TIMEBASE reference. Times are in 1/8 ft. -/

namespace Sys2Proof.Machine

/-- Whole ticks of fabric time. -/
def Dev.now (d : Dev) : Nat := d.tmb.time8 / 8

/-- MASTER, LOCKED or HOLDOVER. -/
def TimeState.good : TimeState → Bool
  | .master => true
  | .locked => true
  | .holdover => true
  | _ => false

/-- Code of TMB_STAT.state. -/
def TimeState.code : TimeState → Nat
  | .free => 0 | .acquire => 1 | .locked => 2 | .holdover => 3 | .lost => 4 | .master => 5

/-- The states in which corrections are applied; in the others fabric time runs free (R368). -/
def TimeState.steered : TimeState → Bool
  | .acquire => true
  | .locked => true
  | _ => false

/-- How far past the last sideband sample edge fabric time is: edges lie at the phase modulo 20 (R363, R364). -/
def Dev.pastEdge (d : Dev) : Nat := (d.tmb.time8 + 160 - 8 * (d.tmb.phase % 20)) % 160

/-- The last tick of the clock crossed a sideband sample edge, or ended at one. -/
def Dev.atEdge (d : Dev) : Bool := d.pastEdge < d.tmb.moved

/-- Fabric time of that edge, in ft. -/
def Dev.edgeTime (d : Dev) : Nat := (d.tmb.time8 - d.pastEdge) / 8

/-- Enters a state: TIME_LOST at the entry to LOST, TIME against the open slot outside the good states (R368, R379). -/
def Dev.setTime (d : Dev) (s : TimeState) : Dev :=
  if s = d.tmb.state then d else
  let d' := { d with tmb := { d.tmb with state := s, good := 0, wild := 0, bad := 0, since := d.ns
                                         slew := if s.steered then d.tmb.slew else 0 } }
  let d' := if s = .lost then d'.raise .tmb 1 else d'
  if s.good || !d.fc.armed then d' else d'.slotEvent 6

/-- The parent port of TMB_CTRL; 12 to 15 leave no parent. -/
def Dev.timeParent (d : Dev) : Option Nat :=
  let p := fld (d.preg .tmb 0x80) 3 4
  if p < 12 then some p else none

def Dev.discOn (d : Dev) : Bool := bit (d.preg .tmb 0x80) 0
def Dev.isMaster (d : Dev) : Bool := bit (d.preg .tmb 0x80) 1

/-- One ft passes with nothing commanded: fabric time advances, and a slew moves it by at most 1 part in 2,000 (R367). -/
def Dev.tick (d : Dev) : Dev :=
  let m := d.tmb
  let due := 249 ≤ m.slewTick && m.slew ≠ 0
  let step : Int := if !due then 0 else if 0 < m.slew then 1 else -1
  { d with ns := d.ns + 1, tmb := { m with
      time8 := ((m.time8 : Int) + 8 + step).toNat % 2 ^ 67, moved := (8 + step).toNat
      adj := m.adj + step, slew := m.slew - step, slewTick := if m.slew = 0 || due then 0 else m.slewTick + 1 } }

/-! ### TMB_CTRL (R368, R391) -/

/-- DISC_ENABLE, and every other write of TMB_CTRL: master and parent change only while en_disc is 0. -/
def Dev.tmbCtrl (d : Dev) (path : Path) (w : Word) : Dev :=
  let old := d.preg .tmb 0x80
  let w := w &&& 0x7F#32
  d.guarded path .tmb 0x80 (!bit old 0 || (w ^^^ old) &&& 0x7A#32 == 0) fun d =>
    let d := d.setPreg .tmb 0x80 w
    if bit w 0 && !bit old 0 then
      let m := { d.tmb with samples := [], reqs := [], slew := 0, lastT2 := none, lastReq := none }
      ({ d with tmb := m }).setTime (if bit w 1 then .master else .acquire)
    else if !bit w 0 && bit old 0 then ({ d with tmb := { d.tmb with slew := 0, reqs := [] } }).setTime .free
    else d

/-! ### TSYNC (R365, R366) -/

/-- Layout of TSYNC packets: fields [15:0] number and, in a reply, [18:16] state; a reply's body holds t2 and t3. -/
def tsyncReqFields (seq : Nat) : Nat := seq % 65536
def tsyncRplFields (seq state : Nat) : Nat := seq % 65536 + 65536 * state

def Dev.tsyncPkt (d : Dev) (dst sub fields : Nat) (body : List Byte) : Pkt :=
  { type := typeJet, vc := 2, dst := dst, src := d.position, rs := d.routeSet, ttl := d.ttl, epoch := d.epoch
    w1 := sub + 256 * fields, body := body }

/-- Position of the package at the other end of a port. -/
def Dev.peerPos (d : Dev) (p : Nat) : Nat :=
  match (d.fport p).peer with
  | some (pos, _) => pos
  | none => 0

/-- The next TSYNC_REQ is due: TMB_INTERVAL ft, at least 1,000, after the last one. -/
def Dev.tsyncDue (d : Dev) : Bool :=
  match d.tmb.lastReq with
  | none => true
  | some t => t + max 1000 (fld (d.preg .tmb 0xA0) 0 16) ≤ d.ns

/-- TSYNC_REQ_SEND: a disciplined child asks its parent; a request that the parent port cannot take is dropped and counted (R435). -/
def Dev.tsyncSend (d : Dev) : Dev :=
  match d.timeParent with
  | none => d
  | some p =>
    if !d.discOn || d.isMaster || !d.mainUp || !d.tsyncDue then d else
    let n := d.tmb.nextSeq
    let q : TsyncReq := { seq := n, t1 := none, hit := false }
    let d := { d with tmb := { d.tmb with nextSeq := (n + 1) % 65536, reqs := d.tmb.reqs ++ [q], lastReq := some d.ns } }
    if d.portUsable p then d.sendOut (portCore p) p false (d.tsyncPkt (d.peerPos p) 3 (tsyncReqFields n) []) else d.routeDrop

/-- The oldest packet of VC2 on a port, when it is a JET of the subtype for this package, and whether its epoch is the current one
(R448): one of another epoch is counted. -/
def Dev.jetHead (d : Dev) (p sub : Nat) : Option (Pkt × RxPkt × Dev × Bool) :=
  match d.arrived (.port p) 2 with
  | some (k, r, d') =>
    if k.type = typeJet && k.sub = sub && k.vc = 2 && k.dst = d.position then some (k, r, d'.epochCheck (.port p) k) else none
  | none => none

/-- TSYNC_REQ: the parent answers on the port of the request, whatever its own state; a request from a replayed frame is
discarded (R365, R419), and a reply that the port cannot take is dropped and counted (R435). t3 is stamped when the reply's first symbol leaves. -/
def Dev.tsyncReq (d : Dev) (p : Nat) : Dev :=
  match d.jetHead p 3 with
  | none => d
  | some (k, r, d, ok) =>
    if r.rp || !ok then d else
    if !d.portUsable p then d.routeDrop else
    d.sendOut (portCore p) p false (d.tsyncPkt k.src 4 (tsyncRplFields (fld k.jetFields 0 16) d.tmb.state.code)
      (bytesLE 16 r.stamp ++ bytesLE 16 0))

/-- A request is lost or rejected: 64 in a row end LOCKED (R368). -/
def Dev.badRequest (d : Dev) : Dev :=
  let n := d.tmb.bad + 1
  let d := { d with tmb := { d.tmb with bad := n } }
  if d.tmb.state = .locked && 64 ≤ n then d.setTime .holdover else d

/-- 32-bit counters of the time-base page. -/
def Dev.bumpTmb (d : Dev) (off : Nat) : Dev := d.setPreg .tmb off (satAdd (d.preg .tmb off) 1)

/-- The smallest-delay sample of the last eight. -/
def bestSample : List Sample → Option Sample
  | [] => none
  | x :: r => match bestSample r with
    | some y => if y.delay < x.delay then some y else some x
    | none => some x

/-- The correction after an accepted sample: a step in ACQUIRE beyond 64 ft, otherwise a slew (R367); in LOST, where
TIMEBASE is absent, fabric time runs free (R368). -/
def Dev.correct (d : Dev) : Dev × Int :=
  let m := d.tmb
  match bestSample m.samples with
  | none => (d, 0)
  | some b =>
    let c := b.offset - (m.adj - b.adj)
    if m.state = .acquire && (512 < c || c < -512) then
      ({ d with tmb := { m with time8 := ((m.time8 : Int) + c).toNat % 2 ^ 67, adj := m.adj + c, slew := 0, moved := 8 } }, c)
    else if m.state = .lost then (d, c)
    else ({ d with tmb := { m with slew := c } }, c)

/-- An accepted sample (R366 to R368). -/
def Dev.acceptSample (d : Dev) (delay offset : Int) (t2 : Nat) : Dev :=
  let d := d.bumpTmb 0xA8
  let d := if d.tmb.state = .lost && d.tmb.present then d.setTime .acquire else d
  let m := d.tmb
  let samples := (m.samples ++ [({ delay := delay, offset := offset, adj := m.adj } : Sample)])
  let d := { d with tmb := { m with
    samples := samples.drop (samples.length - 8), lastT2 := some t2, offset := BitVec.ofInt 32 offset
    delay := BitVec.ofInt 32 delay, bad := 0 } }
  let (d, c) := d.correct
  let good := if -16 ≤ c ∧ c ≤ 16 then d.tmb.good + 1 else 0
  let wild := if offset < -64 ∨ 64 < offset then d.tmb.wild + 1 else 0
  let d := { d with tmb := { d.tmb with good := good, wild := wild } }
  match d.tmb.state with
  | .acquire => if 8 ≤ good then d.setTime .locked else d
  | .locked => if 4 ≤ wild then d.setTime .lost else d
  | .holdover => d.setTime .locked
  | _ => d

/-- A reply passes every test of R366 but that of its number. -/
def Dev.rplOk (d : Dev) (k : Pkt) (r : RxPkt) (t1 t2 t3 t4 : Nat) (delay offset : Int) : Bool :=
  let st := fld k.jetFields 16 3
  !r.rp && k.epoch == d.epoch && t1 ≤ t4 && t2 ≤ t3 && 0 ≤ delay && delay ≤ 4800 &&
  (match d.tmb.lastT2 with | some x => x ≤ t2 | none => true) &&
  ((-512 ≤ offset && offset ≤ 512) || !(d.tmb.state = .locked || d.tmb.state = .holdover)) &&
  (st = 2 || st = 3 || st = 5)

/-- TSYNC_RPL at port p: accepted, or rejected and counted (R366). -/
def Dev.tsyncRpl (d : Dev) (p : Nat) : Dev :=
  match d.jetHead p 4 with
  | none => d
  | some (k, r, d, _) =>
    let seq := fld k.jetFields 0 16
    let reject (d : Dev) : Dev :=
      let d := d.bumpTmb 0xB0
      if d.tmb.reqs.any fun q => q.seq == seq && !q.hit then
        let mark (q : TsyncReq) : TsyncReq := if q.seq = seq then { q with hit := true } else q
        ({ d with tmb := { d.tmb with reqs := d.tmb.reqs.map mark } }).badRequest
      else d
    match d.tmb.reqs.find? fun q => q.seq == seq with
    | some { t1 := some t1, .. } =>
      let t2 := ofBytesLE (k.body.take 16)
      let t3 := ofBytesLE ((k.body.drop 16).take 16)
      let t4 := r.stamp
      let asym := (BitVec.ofNat 16 (fld (d.preg .tmb (0xC0 + 4 * p)) 0 16)).toInt
      let delay := Int.tdiv (((t4 : Int) - t1) - ((t3 : Int) - t2)) 2
      let offset := Int.tdiv (((t2 : Int) - t1) - ((t4 : Int) - t3)) 2 - asym
      if d.timeParent = some p && d.discOn && d.rplOk k r t1 t2 t3 t4 delay offset then
        ({ d with tmb := { d.tmb with reqs := d.tmb.reqs.filter fun q => q.seq ≠ seq } }).acceptSample delay offset t2
      else reject d
    | _ => reject d

/-- TSYNC_LOST: 50 us have passed without an accepted reply to the request. -/
def Dev.tsyncLost (d : Dev) (seq : Nat) : Dev :=
  match d.tmb.reqs.find? fun q => q.seq == seq with
  | none => d
  | some q =>
    let d := ({ d with tmb := { d.tmb with reqs := d.tmb.reqs.filter fun x => x.seq ≠ seq } }).bumpTmb 0xAC
    if q.hit then d else d.badRequest

/-- The parent port has gone down (R368). -/
def Dev.parentDown (d : Dev) (p : Nat) : Dev :=
  if d.tmb.state = .locked && d.timeParent = some p then d.setTime .holdover else d

/-! ### References (R363, R364, R368, R710) -/

/-- TIMEBASE_LOST: no edge for 1 us. -/
def Dev.timebaseLost (d : Dev) : Dev :=
  if d.tmb.absent || !d.mainUp then d
  else ((({ d with tmb := { d.tmb with present := false, absent := true } }).raise .tmb 0)).setTime .lost

/-- TIMEBASE_RETURN: edges arrive, for the first time after a reset or again. -/
def Dev.timebaseReturn (d : Dev) : Dev := { d with tmb := { d.tmb with present := true, absent := false } }

/-- HOLDOVER_EXPIRE: HOLDOVER has lasted TMB_HOLDOVER_MAX ft. -/
def Dev.holdoverExpire (d : Dev) : Dev :=
  if d.tmb.state = .holdover && d.tmb.since + (d.preg .tmb 0xA4).toNat ≤ d.ns then d.setTime .lost else d

/-- EPOCH_EDGE at a sideband sample edge: an armed unit loads fabric time and takes its phase from the value, unless TIMEBASE is absent
in LOST (R364, R710). -/
def Dev.epochEdge (d : Dev) : Dev :=
  let w := d.preg .tmb 0x80
  if !d.mainUp || !bit w 2 || !d.atEdge || (d.tmb.state = .lost && !d.tmb.present) then d else
  let v := (joinWords (d.preg .tmb 0x94) (d.preg .tmb 0x90)).toNat
  { (d.setPreg .tmb 0x80 (setBit w 2 false)) with tmb := { d.tmb with time8 := 8 * v, phase := v % 20, moved := 8 } }

end Sys2Proof.Machine
end

