-- ==== Sys2Proof/Machine/Forecast.lean ====
section
/-! DEFINITION. The forecast (13 R370 to R389): arming, superstep origins, slots opening and finishing, slips and the
step deadline. -/

namespace Sys2Proof.Machine

/-! ### Record checks (R371) -/

/-- Follows a superstep from slot j: its last slot, or the offending slot. `off` is the offset that j must have; a
compute slot, and one of another kind, has been seen. -/
def Dev.walkStep (d : Dev) (count : Nat) : Nat → Nat → Nat → Bool → Bool → Except Nat Nat
  | 0, j, _, _, _ => .error j
  | f + 1, j, off, comp, other =>
    if count ≤ j then .error (j - 1) else
    let r := d.slotRec j
    let isC := r.kind == 0
    if r.bad || r.offset ≠ off || r.len < 128 || (isC && other) || (!isC && !comp) then .error j
    else if r.last then (if isC then .error j else .ok j)
    else d.walkStep count f (j + 1) (off + r.len) true (other || !isC)

/-- Checks every superstep reachable from slot j: the first offending slot, if any. -/
def Dev.checkSteps (d : Dev) (count : Nat) : Nat → Nat → List Nat → Option Nat
  | 0, _, _ => none
  | f + 1, j, seen =>
    if seen.contains j then none else
    match d.walkStep count 4097 j 0 false false with
    | .error e => some e
    | .ok k =>
      let r := d.slotRec k
      if r.stop then none else
      let n := if r.wrap then r.next else k + 1
      if count ≤ n || !(n = 0 || (d.slotRec (n - 1)).last) then some k else d.checkSteps count f n (j :: seen)

/-! ### The superstep -/

def Dev.fcCount (d : Dev) : Nat := min 4096 (fld (d.preg .tmb 0x208) 0 13)
def Dev.fcStart (d : Dev) : Nat := (joinWords (d.preg .tmb 0x214) (d.preg .tmb 0x210)).toNat
/-- FC_COREl: object, landing counter, tiles. -/
def Dev.fcObj (d : Dev) (l : Nat) : Nat := fld (d.preg .tmb (0x240 + 4 * l)) 0 13
def Dev.fcLc (d : Dev) (l : Nat) : Nat := fld (d.preg .tmb (0x240 + 4 * l)) 13 6
def Dev.fcTiles (d : Dev) (l : Nat) : Nat := fld (d.preg .tmb (0x240 + 4 * l)) 19 8

/-- Last slot of the superstep that has slot j. -/
def Dev.lastFrom (d : Dev) : Nat → Nat → Nat
  | 0, j => j
  | f + 1, j => if (d.slotRec j).last then j else d.lastFrom f (j + 1)

def Dev.lastSlot (d : Dev) : Nat := d.lastFrom 4096 d.fc.first
/-- The superstep length L. -/
def Dev.stepLen (d : Dev) : Nat := let r := d.slotRec d.lastSlot; r.offset + r.len

/-- The slot opened last in the current superstep. -/
def Dev.curSlot (d : Dev) : Option OpenSlot :=
  match d.fc.slots.getLast? with
  | some s => if s.sstep = d.fc.sstep then some s else none
  | none => none

/-- The slot to open next. -/
def Dev.nextSlot (d : Dev) : Option Nat :=
  if !d.fc.armed || !d.fc.begun then none else
  match d.curSlot with
  | none => some d.fc.first
  | some s => if (d.slotRec s.slot).last then none else some (s.slot + 1)

/-- The last slot of the superstep has opened, and has been finished. -/
def Dev.allOpened (d : Dev) : Bool := d.fc.begun && d.curSlot.isSome && d.nextSlot.isNone
def Dev.allDone (d : Dev) : Bool :=
  d.allOpened && d.fc.slots.all fun s => s.sstep ≠ d.fc.sstep || s.done

/-- Deadline of an opened slot (R371, R386): a slot of the previous superstep ended at the current origin at the latest. -/
def Dev.deadline (d : Dev) (s : OpenSlot) : Nat :=
  if s.sstep = d.fc.sstep then let r := d.slotRec s.slot; d.fc.origin + r.offset + r.len else d.fc.origin

/-- The superstep of an opened slot is in slip mode. -/
def Dev.slotSlips (d : Dev) (s : OpenSlot) : Bool := if s.sstep = d.fc.sstep then d.fc.slip else d.fc.slipPrev

/-! ### Disarming (R25, R373, R605, R613) -/

def Dev.disarm (d : Dev) : Dev :=
  let f := { d.fc with armed := false, stopping := false, begun := false, slots := [], rel := none, slip := false
                       slipPrev := false, arrived := false, arrivedPrev := false, lullOut := false, lullPrev := false
                       heldSlip := false }
  let d := { d.releasePuts with fc := f }
  if !d.mc.stage.full then d
  else if d.pwr.releaseDue && !d.pwr.caused then d.unthrottle.idleClk else d.idleClk

/-! ### Finishing slots (R376, R384 to R388) -/

/-- Every bound core is done with the slot, the refreshes are performed, the realign applied (R376). -/
def Dev.slotFinished (d : Dev) (s : OpenSlot) : Bool :=
  let r := d.slotRec s.slot
  (s.want.all fun w => 0 ≤ (d.objVal (d.corePhys w.1) (d.fcObj w.1) - w.2).toInt) &&
  (r.kind ≠ 3 || (onesOf r.ports).all fun n => d.fc.debt.getD n 0 = 0) && (r.kind ≠ 4 || !d.realign)

/-- The margin of a slot finished outside slip mode (R388): the smallest since FC_MIN_MARGIN was last cleared. -/
def Fc.margin (f : Fc) (slot : Nat) (m : Int) : Fc :=
  if f.minFresh || m < f.minMargin.toInt then { f with minMargin := BitVec.ofInt 32 m, minFresh := false, minSlot := slot }
  else f

/-- Marks the opened slots that the package has finished. -/
def Dev.markDone (d : Dev) : Dev :=
  d.fc.slots.foldl (fun d s =>
    if s.done || !d.slotFinished s then d else
    let done (x : OpenSlot) : OpenSlot := if x.slot = s.slot && x.sstep = s.sstep then { x with done := true } else x
    let f := { d.fc with slots := d.fc.slots.map done }
    { d with fc := if d.slotSlips s then f else f.margin s.slot ((d.deadline s : Int) - d.now) }) d

/-- The arrival at barrier 255 (R385), with the generation bit toggled. -/
def Dev.arriveSlip (d : Dev) : Dev :=
  let g := d.fc.gen255
  ({ d with fc := { d.fc with gen255 := !g } }).fabDie 255 g

/-- Both supersteps' arrivals, once each, when the slots of the superstep in slip mode are done. -/
def Dev.slipArrivals (d : Dev) : Dev :=
  let prevDone := d.fc.slots.all fun s => s.sstep = d.fc.sstep || s.done
  let d := if d.fc.slipPrev && !d.fc.arrivedPrev && prevDone then
      ({ d with fc := { d.fc with arrivedPrev := true } }).arriveSlip else d
  if d.fc.slip && !d.fc.arrived && d.allDone then ({ d with fc := { d.fc with arrived := true } }).arriveSlip else d

/-- The superstep ends the forecast (R373). -/
def Dev.ends (d : Dev) : Bool := d.fc.stopping || (d.slotRec d.lastSlot).stop

/-- What follows in the forecast unit from a change of objects, debts, realign or barrier 255. -/
def Dev.fcSettle (d : Dev) : Dev :=
  if !d.fc.armed || !d.fc.begun then d else
  let d := d.markDone.slipArrivals
  if d.fc.rel.isSome && d.ends then d.disarm else d

/-! ### Arming (R372, R373) -/

/-- FC_CTRL.arm = 1. The expected counts start from the objects' values at arming. -/
def Dev.fcArm (d : Dev) : Dev :=
  if !d.pageAnswers .tmb || !d.pageOn .tmb || d.fc.armed then d else
  let fail (e slot : Nat) : Dev := { d with fc := { d.fc with err := e, errSlot := slot % 4096 } }
  match d.checkSteps d.fcCount 4097 0 [] with
  | some j => fail 1 j
  | none =>
    if !d.tmb.state.good then fail 2 0
    else if d.fcStart < d.now + 10000 then fail 3 0
    else
      let expected := (⟨[]⟩ : Tbl Word).setMany 0 (d.boundCores.map fun l => d.objVal (d.corePhys l) (d.fcObj l))
      let f := { d.fc with
        armed := true, stopping := false, err := 0, errSlot := 0, sstep := d.preg .tmb 0x218, origin := d.fcStart
        begun := false, first := 0, slots := [], expected := expected, rel := none, lastRel := none, slip := false
        slipPrev := false, arrived := false, arrivedPrev := false, heldSlip := false, known := []
        route := fld (d.preg .fab 0x8C) 4 4 }
      { d with fc := f, rsl := { d.rsl with closed := none } }

/-- FC_CTRL.arm = 0: at the end of the current superstep, at once before the first origin. -/
def Dev.fcDisarm (d : Dev) : Dev :=
  if !d.pageAnswers .tmb || !d.fc.armed then d
  else if d.fc.begun then ({ d with fc := { d.fc with stopping := true } }).fcSettle
  else d.disarm

/-- FC_CTRL.clr (R388, R390). -/
def Dev.fcClr (d : Dev) : Dev :=
  if !d.pageAnswers .tmb then d else
  let d := (List.range 8).foldl (fun d c => d.setPreg .tmb (0x280 + 4 * c) 0) d
  { d with fc := { d.fc with minMargin := 0, minFresh := true } }

/-- A write of FC_CTRL. -/
def Dev.fcCtrl (d : Dev) (w : Word) : Dev :=
  let d := if bit w 1 then d.fcClr else d
  if bit w 0 then d.fcArm else d.fcDisarm

/-! ### Slip mode (R379 to R387) -/

/-- Whose journal counts a slip of superstep n (R500): none when the record of its step has been made, else whether it is the step after
the committing one. -/
def Dev.slipStep (d : Dev) (n : Word) : Option Bool :=
  let gone : Bool := match d.rsl.closed with
    | some m => decide ((n - m).toInt ≤ 0)
    | none => false
  if gone then none
  else if d.rsl.phase = .drain || d.commitDue then some (decide (0 < (n - d.rsl.placedIn).toInt))
  else some false

/-- Counts a superstep spent in slip mode for the journal of its step. -/
def Dev.countSlip (d : Dev) (n : Word) (cause : Nat) : Dev :=
  let r := d.rsl
  match d.slipStep n with
  | none => d
  | some false => { d with rsl := { r with slips := satAdd r.slips 1, slipCause := r.slipCause.modify cause 0 (· + 1) } }
  | some true => { d with rsl := { r with nextSlips := satAdd r.nextSlips 1, nextCause := r.nextCause.modify cause 0 (· + 1) } }

/-- Enters slip mode for the current or the previous superstep: FC_SLIP_CNTc, source SLIP, the journal's count. -/
def Dev.enterSlip (d : Dev) (prev : Bool) (cause : Nat) : Dev :=
  let d := d.countSlip (if prev then d.fc.sstep - 1 else d.fc.sstep) cause
  let f := if prev then { d.fc with slipPrev := true, arrivedPrev := false } else { d.fc with slip := true, arrived := false }
  let d := { d with fc := f }
  let o := 0x280 + 4 * cause
  (d.setPreg .tmb o (satAdd (d.preg .tmb o) 1)).raise .tmb 2

/-- Sends a SLIP to every neighbour in the barrier tree but the one it came from (R383). -/
def Dev.slipTo (d : Dev) (from_ : Option Nat) (fields : Nat) (body : List Byte) : Dev :=
  let up := if d.fabRoot then [] else [d.fabParent]
  let (d, kids) := d.otherKids (from_.toList.filter fun x => !up.contains x)
  ((up ++ kids).filter fun x => some x != from_).foldl (fun d x => d.jet none x 2 fields body) d

/-- SLIP (R381): fields superstep, body slot, cause, position. -/
def slipBody (slot cause pos : Nat) : List Byte :=
  bytesLE 2 slot ++ bytesLE 1 cause ++ bytesLE 1 0 ++ bytesLE 2 pos ++ List.replicate 10 0

/-- The sample edge is the first one at or after a deadline. A step of fabric time in ACQUIRE may pass it (R367). -/
def Dev.edgeOf (d : Dev) (deadline : Nat) : Bool :=
  d.atEdge && deadline ≤ d.edgeTime && (d.edgeTime < deadline + 20 || d.tmb.state = .acquire)

/-- A first slot that has not opened, as while a commit holds it back (R530): its deadline does not move. -/
def Dev.unopened (d : Dev) : Option OpenSlot :=
  if d.curSlot.isSome then none else
  some { slot := d.fc.first, sstep := d.fc.sstep, want := [], done := false, events := if d.tmb.state.good then [] else [6] }

/-- The first slot that is undone at the edge of its deadline, opened or held back, or the first slot under R380; with its cause. -/
def Dev.missed (d : Dev) : Option (OpenSlot × Nat) :=
  let late := (d.fc.slots ++ d.unopened.toList).find? fun s => !s.done && !d.slotSlips s && d.edgeOf (d.deadline s)
  match late with
  | some s => some (s, s.events.foldl max 0)
  | none =>
    match d.fc.slots.find? fun s => s.sstep = d.fc.sstep && s.slot = d.fc.first with
    | some s => if !d.tmb.state.good && !d.fc.slip && d.edgeOf (d.deadline s) then some (s, 6) else none
    | none => none

/-- The package holds LULL_N low. -/
def Fc.lulls (f : Fc) : Bool := f.lullOut || f.lullPrev

/-- SLIP_DECLARE, at a sideband sample edge (R381, R387). -/
def Dev.slipDeclare (d : Dev) : Dev :=
  if !d.fc.armed || !d.fc.begun then d else
  match d.missed with
  | none => d
  | some (s, cause) =>
    let prev : Bool := s.sstep ≠ d.fc.sstep
    let d := d.enterSlip prev cause
    let d := { d with fc := { d.fc with lullOut := d.fc.lullOut || !prev, lullPrev := d.fc.lullPrev || prev } }
    (d.slipTo none s.sstep.toNat (slipBody s.slot cause d.position)).fcSettle

/-- Slip mode by LULL_N or SLIP for the previous superstep: not when its barrier has been released already. -/
def Dev.joinPrev (d : Dev) : Dev :=
  if d.fc.slipPrev || d.fc.lastRel = some (d.fc.sstep - 1) then d else (d.enterSlip true 7).fcSettle
def Dev.joinNow (d : Dev) : Dev := if d.fc.slip then d else (d.enterSlip false 7).fcSettle

/-- LULL_SAMPLE: the level of LULL_N, which the package's own drive also holds low, at a sample edge (R382). -/
def Dev.lullSample (d : Dev) (low : Bool) : Dev :=
  if !d.atEdge then d else
  let low := low || d.fc.lulls
  let fell := low && d.fc.lullIn
  let d := { d with fc := { d.fc with lullIn := !low } }
  if !fell || !d.fc.armed || !d.fc.begun || d.fc.lulls then d
  else if d.edgeTime < d.fc.origin + 64 then d.joinPrev
  else d.joinNow

/-- SLIP (R383): only the first one received for a superstep of this arming counts. -/
def Dev.slipJet (d : Dev) (src : PktSrc) : Dev :=
  d.onPacket src 2 (fun k => k.type = typeJet && k.sub = 2) fun d k _ =>
    let n : Word := BitVec.ofNat 32 (k.jetFields.toNat % 2 ^ 32)
    if d.fc.known.contains n then d else
    let d := { d with fc := { d.fc with known := n :: d.fc.known } }
    let d := d.slipTo (some k.src) k.jetFields.toNat k.body
    if !d.fc.armed then d else
    let base := if d.fc.begun then d.fc.sstep else d.fc.sstep - 1
    let df := (n - base).toInt
    if df = 1 then { d with fc := { d.fc with heldSlip := true } }
    else if df = 0 && d.fc.begun then d.joinNow
    else if df = -1 && d.fc.begun then d.joinPrev
    else if df = 0 || df = -1 then d
    else (d.raise .tmb 3).disarm

/-- STEP_DEADLINE (R389): the superstep has not ended FC_STEP_LIMIT after its forecast end. -/
def Dev.stepDeadline (d : Dev) : Dev :=
  let limit := (joinWords (d.preg .tmb 0x234) (d.preg .tmb 0x230)).toNat
  if !d.fc.armed || !d.fc.begun || limit = 0 || d.fc.rel.isSome || d.now < d.fc.origin + d.stepLen + limit then d
  else (d.raise .tmb 4).disarm

/-! ### Origins (R23, R28, R209, R372, R386, R443) -/

/-- DZ_STEP of every enabled core advances (R209). -/
def Dev.advanceStep (d : Dev) : Dev :=
  ((List.range 8).filter d.coreEnabled).foldl (fun d c => d.setPreg (.num c) 0x88 (d.preg (.num c) 0x88 + 1)) d

/-- An origin passes the step commit: DZ_STEP advances if the commit has taken effect, or waits for it. -/
def Dev.stepOrigin (d : Dev) : Dev :=
  if d.rsl.phase ≠ .idle then { d with rsl := { d.rsl with originSeen := true } }
  else if d.rsl.stepDue then { d.advanceStep with rsl := { d.rsl with stepDue := false, started := true } }
  else { d with rsl := { d.rsl with started := true } }

/-- First slot of the superstep after the one that has begun; of the first one, slot 0. -/
def Dev.firstNext (d : Dev) : Nat :=
  if !d.fc.begun then 0 else
  let k := d.lastSlot
  let r := d.slotRec k
  if r.wrap then r.next else k + 1

/-- A superstep begins at `origin`: route set, clock, step advance; slots that the package has not finished stay open. -/
def Dev.beginStep (d : Dev) (origin : Nat) : Dev :=
  let f := d.fc
  let n := d.firstNext
  let ss := if f.begun then f.sstep + 1 else f.sstep
  let keep := f.slots.filter fun s => s.sstep = f.sstep && (!s.done || (d.slotRec s.slot).last)
  let f := { f with sstep := ss, origin := origin, begun := true, first := n, slots := keep, rel := none, slip := false
                    slipPrev := false, arrived := false, heldSlip := false
                    route := (d.slotRec n).route }
  let d' := ({ d with fc := f }).powerOrigin.stepOrigin
  if d.fc.heldSlip then d'.enterSlip false 7 else d'

/-- SUPERSTEP_ORIGIN: at FC_START, at T0 + L by clock when the package is done with the superstep (R26), or at the release of barrier
255 plus 2,000 ft. -/
def Dev.superstepOrigin (d : Dev) : Dev :=
  let f := d.fc
  if !f.armed then d
  else if !f.begun then if d.now < f.origin then d else d.beginStep f.origin
  else if f.slip then
    match f.rel with
    | some o => if d.now < o then d else d.beginStep o
    | none => d
  else if f.slipPrev || !d.allDone || d.now < f.origin + d.stepLen then d
  else if d.ends then d.disarm
  else d.beginStep (f.origin + d.stepLen)

/-! ### Slots open (R374, R378, R384) -/

/-- The announcement of a slot in one core. -/
def Dev.announce (d : Dev) (l : Nat) : Dev :=
  let lc := d.fcLc l
  let d := (d.boundTiles l).foldl (fun d t => d.setLanding t lc ((d.tile t).lc lc + 1)) d
  { d with fc := { d.fc with expected := d.fc.expected.modify l 0 fun x => x + BitVec.ofNat 32 (d.fcTiles l) } }

/-- The first slot of a superstep is held back by a commit or its checkruns (R530, R580). -/
def Dev.commitHolds (d : Dev) : Bool := d.rsl.phase ≠ .idle || d.commitDue || d.flt.chkDue ≠ []

/-- SLOT_OPEN: the next slot opens when its open time has come and the slot before it is finished (R374, R384): a slot ends only when it
is done (R26), and one that is undone at its deadline puts the package in slip mode at the next sample edge. The first slot of a
superstep waits for a commit and its checkruns. -/
def Dev.slotOpen (d : Dev) : Dev :=
  match d.nextSlot with
  | none => d
  | some j =>
    let r := d.slotRec j
    let prevDone := match d.curSlot with
      | some s => s.done
      | none => true
    if d.now < d.fc.origin + r.offset || !prevDone || (d.curSlot.isNone && d.commitHolds) then d else
    let d := d.boundCores.foldl Dev.announce d
    let want := d.boundCores.map fun l => (l, d.fc.expected.getD l 0)
    let s : OpenSlot := { slot := j, sstep := d.fc.sstep, want := want, done := false, events := if d.tmb.state.good then [] else [6] }
    let d := { d with fc := { d.fc with slots := d.fc.slots ++ [s] } }
    match r.kind with
    | 1 => d.releasePuts
    | 2 => d.releasePuts
    | 3 => (onesOf r.ports).foldl Dev.windowRefresh d
    | 4 => d.realignOpen
    | _ => d

end Sys2Proof.Machine
end

