-- ==== Sys2Proof/Machine/Link.lean ====
section
/-! DEFINITION. Fabric links (14 R393 to R422): frames and their checks, acknowledges and go-back-N replay, credit, training,
EXCHANGE, silence and outages, and the port registers that act. -/

namespace Sys2Proof.Machine

/-! ### Frames (R398, R399) -/

/-- CRC-32C of a byte string. -/
def crc32cBit (c : Word) : Word := if bit c 0 then (c >>> 1) ^^^ 0x82F63B78#32 else c >>> 1
def crc32cByte (c : Word) (b : Byte) : Word :=
  (List.range 8).foldl (fun c _ => crc32cBit c) (c ^^^ b.setWidth 32)
def crc32c (bs : List Byte) : Word := bs.foldl crc32cByte 0xFFFFFFFF#32 ^^^ 0xFFFFFFFF#32

/-- Fields of a frame. -/
structure Frame where
  type    : Nat
  vc      : Nat
  units   : Nat
  start   : Nat
  cvc     : Nat
  ccount  : Nat
  rp      : Bool
  payload : List Byte
  seq     : Nat
  ack     : Nat
  crcOk   : Bool

def parseFrame (raw : BitVec 2048) : Frame :=
  let h : DWord := raw.setWidth 64
  let t : DWord := (raw >>> 1984).setWidth 64
  let bs := bytesLE 252 raw.toNat
  { type := fld h 0 4, vc := fld h 4 2, units := fld h 6 4, start := fld h 10 15, cvc := fld h 25 2, ccount := fld h 27 16
    rp := bit h 43, payload := bs.drop 8 |>.take 240, seq := fld t 0 12, ack := fld t 12 12
    crcOk := crc32c bs == hiWord t }

/-- A frame as it is sent: reserved bits 0, the trailer's CRC over bytes 0 to 251. -/
def buildFrame (f : Frame) : BitVec 2048 :=
  let h : DWord := packFields 64 [(0, f.type), (4, f.vc), (6, f.units), (10, f.start), (25, f.cvc), (27, f.ccount), (43, b2n f.rp)]
  let pay := f.payload ++ List.replicate (240 - f.payload.length) 0
  let bs := bytesLE 8 h.toNat ++ pay ++ bytesLE 4 (f.seq + 4096 * f.ack)
  BitVec.ofNat 2048 (ofBytesLE (bs ++ bytesLE 4 (crc32c bs).toNat))

/-! ### Ports -/

def Dev.modPort (d : Dev) (p : Nat) (f : Fport → Fport) : Dev := d.setFport p (f (d.fport p))

/-- Code of FP_STAT.state. -/
def LinkState.code : LinkState → Nat
  | .disabled => 0 | .detect => 1 | .equalize => 2 | .align => 3 | .exchange => 4 | .active => 5 | .down => 6

/-- 32-bit counters of a port page. -/
def Dev.bump32 (d : Dev) (p : Page) (off n : Nat) : Dev := if d.pageOn p then d.setPreg p off (satAdd (d.preg p off) n) else d

/-- Receive buffer of a VC in units (R410). -/
def vcBuffer (v : Nat) : Nat := if v < 2 then 32768 else if v = 2 then 2048 else 1024

/-- Units held on the receive side of a VC. -/
def PortVc.held (y : PortVc) : Nat :=
  (match y.part with | some r => r.bytes.length / 16 | none => 0) + (y.rx.map fun r => r.bytes.length / 16).foldl (· + ·) 0

def PortVc.free (v : Nat) (y : PortVc) : Nat := vcBuffer v - y.held

/-- Drops the packet that is being reassembled; its units are freed. -/
def PortVc.dropPart (y : PortVc) : PortVc :=
  match y.part with
  | some r => { y with part := none, freed := y.freed + BitVec.ofNat 16 (r.bytes.length / 16) }
  | none => y

def Fport.dropParts (x : Fport) : Fport := { x with vcs := x.vcs.mapVals fun _ y => y.dropPart }

/-- Oldest unacknowledged number. -/
def Fport.oldest (x : Fport) : BitVec 12 :=
  match x.retry with
  | [] => x.nextSeq
  | f :: _ => BitVec.ofNat 12 f.seq

/-- The clocks of the main domain run and Calm has not stopped them. -/
def Dev.clocked (d : Dev) : Bool :=
  d.mainUp && d.pwr.calm != .calm && d.pwr.calm != .waking

/-! ### Going down and replay (R407 to R409, R413) -/

/-- Enters DOWN. -/
def Dev.linkDown (d : Dev) (p : Nat) : Dev :=
  let d := d.modPort p fun x => { x with state := .down, rxHold := false, replay := none, nakDue := false, nakOut := false, nakCond := false }
  (((d.bump (.fport p) 0x158 1).raise (.fport p) 4).slotEvent 4).parentDown p

def Dev.retryMax (d : Dev) (p : Nat) : Nat := max 1 (fld (d.preg (.fport p) 0x80) 8 8)

/-- A replay of the frames held, from the oldest (R407, R409). -/
def Dev.replayAll (d : Dev) (p : Nat) : Dev :=
  if (d.fport p).retry = [] then d
  else ((d.modPort p fun x => { x with replay := some 0 }).bump (.fport p) 0x140 1).slotEvent 1

/-- A replay starts or restarts; a frame that has had retry_max replays since the link was last trained takes it down (R408). -/
def Dev.startReplay (d : Dev) (p : Nat) : Dev :=
  match (d.fport p).retry with
  | [] => d
  | f :: _ => if d.retryMax p ≤ f.replays then (d.raise (.fport p) 3).linkDown p else d.replayAll p

/-- Releases the first n frames; the round trip is measured at the last of them when it was sent once (R397). -/
def Dev.releaseFrames (d : Dev) (p n : Nat) : Dev :=
  let x := d.fport p
  let rtt := match x.retry[n - 1]? with
    | some f => if !f.resent && 0 < n then min 65535 (d.ns - f.sent) else x.rtt
    | none => x.rtt
  let left := x.retry.drop n
  let replay := match x.replay with
    | some k => if left = [] then none else some (k - n)
    | none => none
  d.setFport p { x with retry := left, replay := replay, rtt := rtt }

/-- An ack field (R405): answers whether it lay in the window. -/
def Dev.useAck (d : Dev) (p ack : Nat) : Dev × Bool :=
  let x := d.fport p
  let n := (ack + 1 + 4096 - x.oldest.toNat) % 4096
  if n ≤ x.retry.length then (d.releaseFrames p n, true)
  else ((d.bump (.fport p) 0x130 1).raise (.fport p) 2, false)

/-- A cumulative credit count of one VC (R410). -/
def PortVc.credit (y : PortVc) (count : Nat) : PortVc :=
  { y with avail := y.avail + (BitVec.ofNat 16 count - y.peerCnt).toNat, peerCnt := BitVec.ofNat 16 count }

def Dev.useCredit (d : Dev) (p v count : Nat) : Dev := d.modPort p fun x => x.setVc v ((x.vc v).credit count)

/-- R404 calls for a NAK (R406). -/
def Dev.callNak (d : Dev) (p : Nat) : Dev := d.modPort p fun x => { x with nakCond := true, nakDue := x.nakDue || !x.nakOut }

/-! ### Receiving (R404) -/

/-- The FEC counters and sources; a decoded codeword on every lane ends a silence (R416, R421). -/
def Dev.fec (d : Dev) (p : Nat) (n : FecNote) : Dev :=
  let d := n.fixed.foldl (fun d x =>
    ((d.bump (.fport p) (0x200 + 16 * x.1.val) 1).bump32 (.fport p) (0x208 + 16 * x.1.val) x.2).raise (.fport p) 0) d
  n.lost.foldl (fun d l => (d.bump32 (.fport p) (0x20C + 16 * l.val) 1).raise (.fport p) 1) d

/-- A frame whose codewords have decoded on every lane ends a silence: rx_hold falls (R416), and each lane has its signal and lock. -/
def Dev.heard (d : Dev) (p : Nat) (n : FecNote) : Dev :=
  if n.lost ≠ [] then d else d.modPort p fun x => { x with rxHold := false, lock := 0xFF, signal := 0xFF }

/-- A frame in an uncorrectable codeword or with a bad CRC. -/
def Dev.crcError (d : Dev) (p : Nat) : Dev := (d.bump (.fport p) 0x110 1).callNak p

/-- One unit enters reassembly (R401): a start bit begins a packet, the packet's own length ends it. -/
def PortVc.unit (y : PortVc) (unit : List Byte) (start : Bool) (stamp : Nat) (rp : Bool) : PortVc :=
  let part : Option RxPkt := if start then some { bytes := unit, stamp := stamp, rp := rp } else
    match y.part with
    | some r => some { r with bytes := r.bytes ++ unit }
    | none => none
  let y := if start then y.dropPart else y
  match part with
  | none => { y with freed := y.freed + 1 }
  | some r =>
    if max 1 (headerUnits r.bytes) * 16 ≤ r.bytes.length then { y with part := none, rx := y.rx ++ [r] }
    else { y with part := some r }

/-- Delivers the units of an accepted DATA frame. -/
def Dev.deliver (d : Dev) (p : Nat) (f : Frame) : Dev :=
  d.modPort p fun x =>
    let y := (List.range f.units).foldl (fun (y : PortVc) i =>
      y.unit ((f.payload.drop (16 * i)).take 16) (f.start / 2 ^ i % 2 = 1) d.tmb.time8 f.rp) (x.vc f.vc)
    { (x.setVc f.vc y) with expect := x.expect + 1, nakDue := false, nakOut := false, nakCond := false }

/-- What every frame that passes the CRC does with its ack and credit fields; answers whether the ack was good. -/
def Dev.useFields (d : Dev) (p : Nat) (f : Frame) : Dev × Bool :=
  let (d, ok) := d.useAck p f.ack
  (d.useCredit p f.cvc f.ccount, ok)

/-- The receive side takes frames. -/
def Dev.receives (d : Dev) (p : Nat) : Bool := d.clocked && (d.fport p).state = .active

/-- DATA_FRAME, and frames of no known type. -/
def Dev.dataFrame (d : Dev) (p : Nat) (raw : BitVec 2048) (n : FecNote) : Dev :=
  if !d.receives p then d else
  let f := parseFrame raw
  let d := (d.heard p n).fec p n
  if n.lost ≠ [] || !f.crcOk then d.crcError p
  else if 1 ≠ f.type && f.type < 4 then d
  else
    let d := (d.useFields p f).1
    let e := (d.fport p).expect.toNat
    if 4 ≤ f.type || f.units = 0 then (d.bump (.fport p) 0x118 1).raise (.fport p) 2
    else if f.seq = e then (d.deliver p f).bump (.fport p) 0x108 1
    else if (e + 4096 - f.seq) % 4096 ≤ 2048 then d.bump (.fport p) 0x120 1
    else (d.bump (.fport p) 0x128 1).callNak p

/-- NULL_FRAME: a next number that differs from E shows a loss. -/
def Dev.nullFrame (d : Dev) (p : Nat) (raw : BitVec 2048) (n : FecNote) : Dev :=
  if !d.receives p then d else
  let f := parseFrame raw
  let d := (d.heard p n).fec p n
  if n.lost ≠ [] || !f.crcOk then d.crcError p
  else if f.type ≠ 0 then d
  else
    let d := (d.useFields p f).1
    if f.seq ≠ (d.fport p).expect.toNat then d.callNak p else d.modPort p fun x => { x with nakCond := false }

/-- NAK: a replay starts or restarts from ack + 1 (R407). -/
def Dev.nakFrame (d : Dev) (p : Nat) (raw : BitVec 2048) (n : FecNote) : Dev :=
  if !d.receives p then d else
  let f := parseFrame raw
  let d := (d.heard p n).fec p n
  if n.lost ≠ [] || !f.crcOk then d.crcError p
  else if f.type ≠ 2 then d
  else
    let (d, ok) := d.useFields p f
    if ok then d.startReplay p else d

/-- NAK_REPEAT: 2 us have passed with a NAK outstanding (R406). -/
def Dev.nakRepeat (d : Dev) (p : Nat) : Dev :=
  d.modPort p fun x => if x.nakOut then { x with nakOut := false, nakDue := x.nakCond } else x

/-- ACK_TIMEOUT (R407). -/
def Dev.ackTimeout (d : Dev) (p : Nat) : Dev := if d.receives p then d.startReplay p else d

/-! ### EXCHANGE (R415) -/

/-- An EXCH record. -/
structure ExchRec where
  pos      : Nat
  port     : Nat
  restart  : Bool
  inc      : Word
  expected : Nat
  free     : List Nat
  count    : List Nat

def parseExch (bs : List Byte) : ExchRec :=
  let n (a len : Nat) : Nat := ofBytesLE ((bs.drop a).take len)
  { pos := n 0 2, port := n 2 1 % 16, restart := n 3 1 % 2 = 1, inc := BitVec.ofNat 32 (n 4 4), expected := n 8 2 % 4096
    free := (List.range 4).map fun v => n (10 + 2 * v) 2, count := (List.range 4).map fun v => n (18 + 2 * v) 2 }

/-- Own numbering restarts at the next EXCHANGE. -/
def Fport.restarts (x : Fport) : Bool := x.peerInc.isNone || x.flushed

def Dev.exchPayload (d : Dev) (p : Nat) : List Byte :=
  let x := d.fport p
  bytesLE 2 d.position ++ bytesLE 1 p ++ bytesLE 1 (b2n x.restarts) ++ bytesLE 4 d.inc.toNat ++ bytesLE 2 x.expect.toNat ++
    (List.range 4).flatMap (fun v => bytesLE 2 ((x.vc v).free v)) ++
    (List.range 4).flatMap fun v => bytesLE 2 (x.vc v).freed.toNat

/-- Available credit is the peer's free space; its counts are the baseline. -/
def Fport.freshCredit (x : Fport) (r : ExchRec) : Fport :=
  (List.range 4).foldl (fun (x : Fport) v =>
    x.setVc v { x.vc v with avail := r.free.getD v 0, peerCnt := BitVec.ofNat 16 (r.count.getD v 0) }) x

/-- Credit state is kept; what the peer has freed since its last count comes back. -/
def Fport.keepCredit (x : Fport) (r : ExchRec) : Fport :=
  (List.range 4).foldl (fun (x : Fport) v => x.setVc v ((x.vc v).credit (r.count.getD v 0))) x

/-- Both directions have accepted an EXCH: ACTIVE, coefficients saved, frames still held are replayed whatever their replays before the
link went down, which count no more (R412, R414, R417). -/
def Dev.enterActive (d : Dev) (p : Nat) : Dev :=
  (d.modPort p fun x => { x with
    state := .active, fast := true, fails := 0, flushed := false, exchOk := false, reached := true
    retry := x.retry.map fun f => { f with replays := 0 } }).replayAll p

/-- The table of R415. -/
def Dev.exchAccept (d : Dev) (p : Nat) (r : ExchRec) : Dev :=
  let x := d.fport p
  let learn (x : Fport) : Fport := { x with peer := some (r.pos, r.port), peerInc := some r.inc, exchOk := true }
  let restart (x : Fport) : Fport := if r.restart then { x.dropParts with expect := 0 } else x
  let done (d : Dev) : Dev := if (d.fport p).exchSent then d.enterActive p else d
  let changed : Bool := match x.peerInc with
    | some i => i ≠ r.inc
    | none => false
  if changed then
    done ((d.setFport p (learn (({ x.dropParts with retry := [], expect := 0, nextSeq := 0 }).freshCredit r))).raise (.fport p) 6)
  else if x.restarts then
    done (d.setFport p { learn (restart (({ x with retry := [], nextSeq := 0 }).freshCredit r)) with flushed := true })
  else
    let n := (r.expected + 4096 - x.oldest.toNat) % 4096
    if n ≤ x.retry.length then
      done (d.setFport p (learn (restart (({ x with retry := x.retry.drop n }).keepCredit r))))
    else (d.setFport p (restart x)).raise (.fport p) 7

/-- EXCH: its ack and credit fields are used, as those of every frame; in EXCHANGE its record counts too (R404, R405, R415). -/
def Dev.exchFrame (d : Dev) (p : Nat) (raw : BitVec 2048) (n : FecNote) : Dev :=
  let x := d.fport p
  if !d.clocked || (x.state ≠ .exchange && x.state ≠ .active) then d else
  let f := parseFrame raw
  let d := (d.heard p n).fec p n
  if n.lost ≠ [] || !f.crcOk then (if x.state = .active then d.crcError p else d.bump (.fport p) 0x110 1)
  else if f.type ≠ 3 then d
  else
    let d := (d.useFields p f).1
    if x.state = .active then d else d.exchAccept p (parseExch f.payload)

/-! ### Sending (R402, R410, R411) -/

/-- A frame leaves the port: ack and the credit count of one VC, in turn. -/
def Dev.emitFrame (d : Dev) (p type vc units start : Nat) (rp : Bool) (payload : List Byte) (seq : Nat) : Dev :=
  let x := d.fport p
  let f : Frame :=
    { type := type, vc := vc, units := units, start := start, cvc := x.cvc, ccount := (x.vc x.cvc).freed.toNat, rp := rp
      payload := payload, seq := seq, ack := (x.expect - 1).toNat, crcOk := true }
  (d.setFport p { x with cvc := (x.cvc + 1) % 4 }).emit (.frame p (buildFrame f))

/-- A TSYNC packet's first symbol leaves (R365, R419): t1 is noted, t3 is written into the packet. -/
def Dev.stampTx (d : Dev) (bytes : List Byte) : Dev × List Byte :=
  let k := parsePkt bytes
  if k.type ≠ typeJet then (d, bytes)
  else if k.sub = 3 then
    let mark (q : TsyncReq) : TsyncReq := if q.seq = fld k.jetFields 0 16 then { q with t1 := some d.tmb.time8 } else q
    ({ d with tmb := { d.tmb with reqs := d.tmb.reqs.map mark } }, bytes)
  else if k.sub = 4 then (d, bytes.take 32 ++ bytesLE 16 d.tmb.time8 ++ bytes.drop 48)
  else (d, bytes)

/-- Fills a DATA frame of one VC, unit by unit: a packet begins only with credit for its length, and 36 units more where
it enters a wrap axis (R441). Answers the VC, the payload, the start bits and the units. -/
def Dev.fillFrame (y : PortVc) : Nat → Nat → Dev → List Byte → Nat → Dev × PortVc × List Byte × Nat × Nat
  | 0, n, d, pay, st => (d, y, pay, st, n)
  | f + 1, n, d, pay, st =>
    match y.tx with
    | [] => (d, y, pay, st, n)
    | (bubble, bytes) :: rest =>
      let need := if y.txOff = 0 then bytes.length / 16 + (if bubble then 36 else 0) else 1
      if y.avail < need then (d, y, pay, st, n) else
      let (d, bytes) := if y.txOff = 0 then d.stampTx bytes else (d, bytes)
      let unit := (bytes.drop (16 * y.txOff)).take 16
      let st := if y.txOff = 0 then st + 2 ^ n else st
      let y' := { y with avail := y.avail - 1 }
      let y' := if bytes.length ≤ 16 * (y.txOff + 1) then { y' with tx := rest, txOff := 0 }
        else { y' with tx := (bubble, bytes) :: rest, txOff := y.txOff + 1 }
      Dev.fillFrame y' f (n + 1) d (pay ++ unit) st

/-- A VC can send: bytes wait and there is credit. -/
def PortVc.ready (y : PortVc) : Bool :=
  match y.tx with
  | [] => false
  | (bubble, bytes) :: _ =>
    (if y.txOff = 0 then bytes.length / 16 + (if bubble then 36 else 0) else 1) ≤ y.avail

/-- The VC whose new DATA frame is sent: VC2, VC1, VC0; VC3 when none of these can be, or after 49 frames without it. -/
def Fport.pickVc (x : Fport) : Option Nat :=
  if (x.vc 3).ready && 49 ≤ x.sinceVc3 then some 3
  else [2, 1, 0, 3].find? fun v => (x.vc v).ready

/-- A new DATA frame of VC v. -/
def Dev.sendData (d : Dev) (p v : Nat) : Dev :=
  let x := d.fport p
  let (d, y, pay, st, n) := Dev.fillFrame (x.vc v) 15 0 d [] 0
  let seq := x.nextSeq
  let r : RetryFrame := { seq := seq.toNat, vc := v, units := n, start := st, payload := pay, replays := 0, sent := d.ns, resent := false }
  let d := d.setFport p { (x.setVc v y) with nextSeq := seq + 1, retry := x.retry ++ [r] }
  (d.emitFrame p 1 v n st false pay seq.toNat).bump (.fport p) 0x100 1

/-- Frame k of the retry buffer is sent again. -/
def Dev.sendReplay (d : Dev) (p k : Nat) : Dev :=
  let x := d.fport p
  match x.retry[k]? with
  | none => d.setFport p { x with replay := none }
  | some f =>
    let retry := setNth x.retry k { f with replays := f.replays + 1, resent := true }
    let d := d.setFport p { x with retry := retry, replay := if k + 1 < retry.length then some (k + 1) else none }
    ((d.emitFrame p 1 f.vc f.units f.start true f.payload f.seq).bump (.fport p) 0x100 1).bump (.fport p) 0x148 1

/-- FRAME_SEND: NAK, replay, new DATA, NULL (R411). -/
def Dev.frameSend (d : Dev) (p : Nat) : Dev :=
  if !d.receives p then d else
  let x := d.fport p
  let waits := (x.vc 3).ready
  let isVc3 : Bool := !x.nakDue && (match x.replay with
    | some k => (x.retry[k]?).any fun f => f.vc == 3
    | none => x.pickVc = some 3 && x.retry.length < 2048)
  let since := if waits && !isVc3 then x.sinceVc3 + 1 else 0
  let d := d.setFport p { x with sinceVc3 := since }
  if x.nakDue then
    let d := d.modPort p fun x => { x with nakDue := false, nakOut := true }
    (d.emitFrame p 2 0 0 0 false [] x.nextSeq.toNat).bump (.fport p) 0x138 1
  else match x.replay, x.pickVc with
    | some k, _ => d.sendReplay p k
    | none, some v => if x.retry.length < 2048 then d.sendData p v else d.emitFrame p 0 0 0 0 false [] x.nextSeq.toNat
    | none, none => d.emitFrame p 0 0 0 0 false [] x.nextSeq.toNat

/-- EXCH_SEND; an end that has accepted the peer's record and sent its own is ACTIVE. -/
def Dev.exchSend (d : Dev) (p : Nat) : Dev :=
  let x := d.fport p
  if !d.clocked || x.state ≠ .exchange then d else
  let d := (d.emitFrame p 3 0 0 0 false (d.exchPayload p) x.nextSeq.toNat).modPort p fun x => { x with exchSent := true }
  if x.exchOk then d.enterActive p else d

/-! ### Silence (R416) -/

/-- RX_SILENCE: at least one lane decodes nothing; `held`: it began inside a frame. Outside ACTIVE, and where every lane is in lock, it
is no silence, and FP_STAT alone follows the lanes. -/
def Dev.rxSilence (d : Dev) (p : Nat) (held : Bool) (signal lock : Byte) : Dev :=
  match (d.fport p).state with
  | .disabled => d
  | .active => if lock = 0xFF then d.modPort p fun x => { x with signal := signal } else d.modPort p fun x => { x with rxHold := held, signal := signal, lock := lock }
  | _ => d.modPort p fun x => { x with signal := signal, lock := lock }

/-- The receive side is silent. -/
def Fport.silent (x : Fport) : Bool := x.state = .active && x.lock ≠ 0xFF

/-- RX_HOLD_EXPIRE: 2 us of silence that began inside a frame. -/
def Dev.rxHoldExpire (d : Dev) (p : Nat) : Dev :=
  let x := d.fport p
  if x.silent && x.rxHold then ((d.setFport p { x with rxHold := false }).bump (.fport p) 0x150 1).callNak p else d

/-- SILENCE_DOWN: 50 us of silence. -/
def Dev.silenceDown (d : Dev) (p : Nat) : Dev := if (d.fport p).silent then d.linkDown p else d

/-- TRAINING_PATTERN_RX (R413): the lanes decode no codewords. -/
def Dev.trainingPattern (d : Dev) (p : Nat) : Dev :=
  if d.receives p then (d.modPort p fun x => { x with lock := 0 }).linkDown p else d

/-! ### Training (R412, R414) -/

def Dev.trainStep (d : Dev) (p : Nat) (at_ : LinkState) (f : Fport → Fport) : Dev :=
  if d.clocked && (d.fport p).state = at_ then d.modPort p f else d

/-- The reference clock of the link die of port p runs (R702). -/
def Dev.refClock (d : Dev) (p : Nat) : Bool := bit d.pins.fref (p / 6)

/-- The reference clock of the link die of port p runs, or has stopped (R702). -/
def Dev.setRef (d : Dev) (p : Nat) (runs : Bool) : Dev :=
  let f := d.pins.fref
  { d with pins := { d.pins with fref := if p / 6 = 0 then (f &&& 2#2) ||| (if runs then 1#2 else 0#2) else (f &&& 1#2) ||| (if runs then 2#2 else 0#2) } }

/-- SIGNAL_DETECT: signal on all lanes at both ends; a link die without its reference keeps its ports in DETECT (R702). -/
def Dev.signalDetect (d : Dev) (p : Nat) : Dev :=
  if !d.refClock p then d else d.trainStep p .detect fun x => { x with state := if x.fast then .align else .equalize, signal := 0xFF }

/-- EQUALIZE_DONE. -/
def Dev.equalizeDone (d : Dev) (p : Nat) : Dev := d.trainStep p .equalize fun x => { x with state := .align }

/-- ALIGN_DONE. -/
def Dev.alignDone (d : Dev) (p : Nat) : Dev :=
  d.trainStep p .align fun x => { x with state := .exchange, lock := 0xFF, exchSent := false, exchOk := false }

/-- TRAIN_TIMEOUT: every eighth in a row without reaching ACTIVE raises LINK_TRAIN_FAIL. -/
def Dev.trainTimeout (d : Dev) (p : Nat) : Dev :=
  let x := d.fport p
  let go (nst : LinkState) (fast : Bool) : Dev :=
    let n := x.fails + 1
    let d := (d.setFport p { x with state := nst, fast := fast, fails := n % 8, lock := 0 }).bump (.fport p) 0x160 1
    if n = 8 then d.raise (.fport p) 5 else d
  if !d.clocked then d else
  match x.state with
  | .equalize => go .detect x.fast
  | .align => if x.fast then go .equalize false else go .detect false
  | .exchange => go .detect x.fast
  | _ => d

/-- DOWN_EXPIRE: 2 us in DOWN. -/
def Dev.downExpire (d : Dev) (p : Nat) : Dev := d.trainStep p .down fun x => { x with state := .detect, lock := 0 }

/-- DISABLED from any state: the coefficients are discarded. -/
def Dev.portOff (d : Dev) (p : Nat) : Dev :=
  d.modPort p fun x => { x with state := .disabled, fast := false, rxHold := false, replay := none, nakDue := false, nakOut := false
                                nakCond := false, signal := 0, lock := 0 }

/-- The port is told to train: it leaves DISABLED unless it is fenced, or Calm keeps it there (R619). -/
def Dev.portOn (d : Dev) (p : Nat) : Dev :=
  if d.pwr.calm = .run && (d.fport p).state = .disabled && d.pageOn (.fport p) && !d.isFenced (.port p) then d.modPort p fun x => { x with state := .detect }
  else d

/-- TRAIN_EN_WRITE: a write of FP_CTRL (R412, R421). -/
def Dev.trainEn (d : Dev) (p : Nat) (w : Word) : Dev :=
  if !d.pageAnswers (.fport p) then d else
  let d := d.setPreg (.fport p) 0x80 (w &&& 0xFF01#32)
  if bit w 0 then d.portOn p else d.portOff p

/-- FP_CMD.retrain (R413). -/
def Dev.retrain (d : Dev) (p : Nat) : Dev :=
  if d.pageAnswers (.fport p) && (d.fport p).state = .active then d.linkDown p else d

/-- FP_CMD.flush (R418). -/
def Dev.flushPort (d : Dev) (p : Nat) : Dev :=
  let x := d.fport p
  if d.pageAnswers (.fport p) && (x.state = .disabled || x.state = .down || x.state = .detect) then
    d.setFport p { x with retry := [], flushed := true }
  else d

/-- A fence takes the port out of service (R420); the coefficients stay saved (R414). -/
def Dev.fencePort (d : Dev) (p : Nat) : Dev :=
  let fast := (d.fport p).fast
  ((d.modPort p fun x => { x.dropParts with retry := [] }).portOff p).modPort p fun x => { x with fast := fast }

/-! ### Nanoseconds (R403, R421) -/

/-- A VC has bytes waiting and too little credit. -/
def PortVc.starved (y : PortVc) : Bool := y.tx ≠ [] && !y.ready

/-- One ns of a port: its full retry buffer, its lack of credit, and its time out of ACTIVE count. -/
def Dev.portNs (d : Dev) (p : Nat) : Dev :=
  match d.ports.get? p with
  | none => d
  | some x =>
    let d := if x.state = .active && 2048 ≤ x.retry.length then d.bump (.fport p) 0x168 1 else d
    let d := if (List.range 4).any fun v => (x.vc v).starved then d.bump (.fport p) 0x170 1 else d
    if x.reached && x.state ≠ .active then d.bump (.fport p) 0x178 1 else d

end Sys2Proof.Machine
end

