-- ==== Sys2Proof/Machine/CollDesc.lean ====
section
/-! DEFINITION. Collective descriptors (16 R461 to R472): their fields, groups, ordinals and masks, the work area, the COLL
packets a unit sends, and aborting. -/

namespace Sys2Proof.Machine

/-! ### Descriptors (R464) -/

def collAddr (c n : Nat) : Nat := coreBase c + 0xB000 + 64 * n
def Dev.collWord (d : Dev) (c n w : Nat) : Word := d.rd (collAddr c n + 4 * w)

structure CDesc where
  valid       : Bool
  op          : Nat
  etype       : Nat
  rs          : Nat
  axes        : BitVec 6
  tag         : Nat
  count       : Nat
  src         : DWord
  dst         : DWord
  work        : DWord
  ibase       : Nat
  doneObj     : Nat
  doneEn      : Bool
  doneVal     : Word
  readyObj    : Nat
  readyTarget : Word
  live        : Nat
  root        : Nat
  /-- a reserved bit is 1 -/
  rsv         : Bool

def Dev.cdesc (d : Dev) (c n : Nat) : CDesc :=
  let w (k : Nat) : Word := d.collWord c n k
  { valid := bit (w 0) 0, op := fld (w 0) 1 3, etype := fld (w 0) 4 2, rs := fld (w 0) 6 4, axes := BitVec.ofNat 6 (fld (w 0) 10 6)
    tag := fld (w 0) 16 10, count := fld (w 1) 0 27, src := joinWords (w 3) (w 2), dst := joinWords (w 5) (w 4)
    work := joinWords (w 7) (w 6), ibase := (w 8).toNat + 2 ^ 32 * fld (w 9) 0 16, doneObj := fld (w 9) 16 13
    doneEn := bit (w 9) 31, doneVal := w 10, readyObj := fld (w 11) 0 13, readyTarget := w 12, live := fld (w 13) 0 21
    root := fld (w 14) 0 20
    rsv := fld (w 0) 26 6 ≠ 0 || fld (w 1) 27 5 ≠ 0 || fld (w 9) 29 2 ≠ 0 || fld (w 11) 13 19 ≠ 0 || fld (w 13) 21 11 ≠ 0 ||
      fld (w 14) 20 12 ≠ 0 || w 15 ≠ 0 }

def opIsobar : Nat := 0
def opMax : Nat := 1
def opIsum : Nat := 2
def opScatter : Nat := 3
def opGather : Nat := 4
def opBcast : Nat := 5
def opPerm : Nat := 6

/-- Bytes of an element. -/
def CDesc.eb (k : CDesc) : Nat := if (k.op = 2 || k.op = 3) && k.etype = 2 then 8 else 4
def CDesc.nblk (k : CDesc) : Nat := (k.count + 255) / 256
/-- Bytes of one contributor's data. -/
def CDesc.bytes (k : CDesc) : Nat := k.eb * k.count

def collKey (c n : Nat) : Nat := 64 * c + n
def Dev.collRun (d : Dev) (c n : Nat) : CollRun := d.colls.getD (collKey c n) CollRun.reset
def Dev.setColl (d : Dev) (c n : Nat) (r : CollRun) : Dev := { d with colls := d.colls.set (collKey c n) r }
def Dev.modColl (d : Dev) (c n : Nat) (f : CollRun → CollRun) : Dev := d.setColl c n (f (d.collRun c n))

/-- The arrival counts of a descriptor are cleared. -/
def CollRun.cleared (r : CollRun) : CollRun :=
  { r with count := ⟨[]⟩, emax := ⟨[]⟩, sums := ⟨[]⟩, wrote := ⟨[]⟩, copied := false, issued := false, ports := [] }

/-- n bytes at an offset have been written. -/
def CollRun.write (r : CollRun) (off n : Nat) : CollRun :=
  { r with wrote := (List.range ((n + 3) / 4)).foldl (fun t i => t.modify (off / 4 + i) 0 (· + 1)) r.wrote }
/-- Every one of n bytes at an offset has been written. -/
def CollRun.covers (r : CollRun) (off n : Nat) : Bool :=
  (List.range ((n + 3) / 4)).all fun i => r.wrote.getD (off / 4 + i) 0 ≠ 0
/-- One whole result has been used; what came early stays counted for the next run (R469). -/
def CollRun.used (r : CollRun) : CollRun :=
  { r with wrote := (r.wrote.mapVals fun _ x => x - 1).keep fun _ x => x ≠ 0 }

/-! ### Groups (R462, R463, R470) -/

def Dev.groupAxes (d : Dev) (k : CDesc) : List Axis := (onesOf k.axes).map (d.axis k.rs)

/-- The contributor count N. -/
def Dev.groupN (d : Dev) (k : CDesc) : Nat := (d.groupAxes k).foldl (fun n x => n * x.extent) 1

/-- The ordinal of a position. -/
def Dev.ordinal (d : Dev) (k : CDesc) (pos : Nat) : Nat :=
  ((d.groupAxes k).foldl (fun (a : Nat × Nat) x => (a.1 + a.2 * x.coord pos, a.2 * x.extent)) (0, 1)).1

/-- The position of an ordinal. -/
def Dev.memberPos (d : Dev) (k : CDesc) (ord : Nat) : Nat :=
  ((d.groupAxes k).foldl (fun (a : Nat × Nat) x =>
    (a.1 - x.coord a.1 * 2 ^ x.lo + a.2 % x.extent * 2 ^ x.lo, a.2 / x.extent)) (d.position, ord)).1

/-- The position is a member of the group. -/
def Dev.inGroup (d : Dev) (k : CDesc) (pos : Nat) : Bool :=
  let free := fixedMask (d.groupAxes k)
  (BitVec.ofNat 16 pos &&& free) == (BitVec.ofNat 16 d.position &&& free) &&
    (d.groupAxes k).all fun x => x.coord pos < x.extent

/-- HBM offset of a descriptor's address. -/
def hbmOff (a : DWord) : Nat := fld a 0 46

def round1k (n : Nat) : Nat := (n + 1023) / 1024 * 1024

/-- Bit of an ordinal in the contributor mask. -/
def Dev.isLive (d : Dev) (k : CDesc) (ord : Nat) : Bool := bit (d.hbm.get (hbmOff k.work + ord / 8)) (ord % 8)

/-- Ordinals of the live contributors, ascending. -/
def Dev.liveOrds (d : Dev) (k : CDesc) : List Nat := (List.range (d.groupN k)).filter (d.isLive k)

/-- The owner of a block: the live contributor of live rank b mod n. -/
def Dev.ownerOf (d : Dev) (k : CDesc) (b : Nat) : Nat := let l := d.liveOrds k; l.getD (b % l.length) 0

def Dev.ownOrd (d : Dev) (k : CDesc) : Nat := d.ordinal k d.position

/-! ### The work area (R465) -/

/-- The first item after the mask. -/
def Dev.workItem (d : Dev) (k : CDesc) : Nat := hbmOff k.work + round1k ((d.groupN k + 7) / 8)
/-- ISOBAR: agreed exponent of block b, and its W array. -/
def Dev.emaxAddr (d : Dev) (k : CDesc) (b : Nat) : Nat := d.workItem k + 2 * b
def CDesc.wb (k : CDesc) : Nat := if k.etype = 0 then 4 else 8
def Dev.wAddr (d : Dev) (k : CDesc) (b part : Nat) : Nat :=
  d.workItem k + round1k (2 * k.nblk) + 256 * k.wb * b + 256 * part
/-- MAX, ISUM and REDUCE_SCATTER: the accumulation array. -/
def Dev.accAddr (d : Dev) (k : CDesc) (b part : Nat) : Nat := d.workItem k + 256 * k.eb * b + 256 * part
/-- PERMUTE: the target of ordinal o, and the staging array. -/
def Dev.permTarget (d : Dev) (k : CDesc) (o : Nat) : Nat := fld (d.hbm.word (d.workItem k + 4 * o)) 0 20
def Dev.stagingAddr (d : Dev) (k : CDesc) : Nat := d.workItem k + round1k (4 * d.groupN k)

/-- Bytes of the work area. -/
def Dev.workSize (d : Dev) (k : CDesc) : Nat :=
  round1k ((d.groupN k + 7) / 8) +
  match k.op with
  | 0 => round1k (2 * k.nblk) + round1k (256 * k.wb * k.nblk)
  | 1 => round1k (256 * k.eb * k.nblk)
  | 2 => round1k (256 * k.eb * k.nblk)
  | 3 => round1k (256 * k.eb * k.nblk)
  | 6 => round1k (4 * d.groupN k) + round1k k.bytes
  | _ => 0

/-- Bytes of dst. -/
def Dev.dstSize (d : Dev) (k : CDesc) : Nat := if k.op = opGather then d.groupN k * k.bytes else k.bytes

/-! ### Aborting (R472) -/

def Dev.collAbort (d : Dev) (c n code : Nat) : Dev :=
  let r := d.collRun c n
  if r.state ≠ .running then d else
  let d := d.setColl c n { r.cleared with state := .aborted, code := code }
  let d := { d with collQ := d.collQ.filter fun m => !(m.core == c && m.d == n) }
  let d := d.setPreg (.coll c) 0x88 (packFields 32 [(0, n), (8, code)])
  if code = 33 then d else d.raise (.coll c) 0

/-- Every running descriptor that satisfies p aborts. -/
def Dev.collAbortAll (d : Dev) (code : Nat) (p : Nat → Nat → Bool) : Dev :=
  d.colls.cells.foldl (fun d x => if p (x.1 / 64) (x.1 % 64) then d.collAbort (x.1 / 64) (x.1 % 64) code else d) d

/-- Ranges of HBM offsets share a byte. -/
def overlaps (a m b n : Nat) : Bool := a < b + n && b < a + m

/-- A descriptor uses memory port n of this package: a byte of its src, dst or work area lies in stack n (R472 code 35). -/
def Dev.collUsesPort (d : Dev) (c i n : Nat) : Bool :=
  let k := d.cdesc c i
  [(k.src, k.bytes), (k.dst, d.dstSize k), (k.work, d.workSize k)].any fun a => overlaps (hbmOff a.1) a.2 (n * 2 ^ 36) (2 ^ 36)

/-- An aborted descriptor does nothing further (R472). -/
def Dev.collDead (d : Dev) (c n : Nat) : Bool := (d.collRun c n).state = .aborted
/-- Changes a descriptor's counts unless it has aborted, which cleared them. -/
def Dev.modLive (d : Dev) (c n : Nat) (f : CollRun → CollRun) : Dev := if d.collDead c n then d else d.modColl c n f

/-! ### Writing and sending (R468, R471) -/

/-- A write of the unit to its own HBM, mirrored where a mirror entry covers it (R540). -/
def Dev.collWrite (d : Dev) (c n a : Nat) (bs : List Byte) : Dev :=
  if d.collDead c n then d else
  match ({ d with hbm := d.hbm.writeBytes a bs }).mirror a bs.length (.coll c n) with
  | (d', .err _) => d'.collAbort c n 32
  | (d', _) => d'

def CollMsg.body (m : CollMsg) (tid : Nat) : List Byte :=
  bytesLE 16 (packFields 128 [(0, tid), (16, m.ord), (36, m.block), (54, m.part), (57, m.nval)] : BitVec 128).toNat ++ pad16 m.data

/-- Sends a COLL packet if an outstanding-request entry is free; answers whether it was. -/
def Dev.collTry (d : Dev) (m : CollMsg) : Dev × Bool :=
  match d.freeTid (d.firstPort m.dst) with
  | none => (d, false)
  | some tid =>
    let e : OutReq :=
      { tid := tid, issuer := .coll m.core m.d, type := typeColl, addr := BitVec.ofNat 64 (m.dst * 2 ^ 48), epoch := d.epoch
        left := 1, parts := ⟨[]⟩ }
    let w1 := m.sub + 16 * m.d + 1024 * d.logOf m.core
    let d := d.modLive m.core m.d fun r => { r with ports := (r.ports ++ [d.firstPort m.dst]).eraseDups }
    ((({ d with outReqs := d.outReqs ++ [e] }).inject (some m.core) typeColl 0 m.dst w1 (m.body tid)).bump (.coll m.core) 0x90 1, true)

/-- Sends a COLL packet, after those of its unit that wait. -/
def Dev.collSend (d : Dev) (m : CollMsg) : Dev :=
  if d.collDead m.core m.d then d else
  if d.collQ.any fun x => x.core == m.core then { d with collQ := d.collQ ++ [m] } else
  match d.collTry m with
  | (d', true) => d'
  | _ => { d with collQ := d.collQ ++ [m] }

/-- Entries have become free: waiting packets are sent in order. -/
def Dev.collDrain (d : Dev) : Dev :=
  d.collQ.foldl Dev.collSend { d with collQ := [] }

end Sys2Proof.Machine
end

