-- ==== Sys2Proof/Machine/Fabric.lean ====
section
/-! DEFINITION. The fabric's packets (15 R427 to R457): serving requests, replies and what their completion or error does to
the issuer, forwarding, epochs, takeover probes, the RQ registers, and snapshots (19 R544 to R546). -/

namespace Sys2Proof.Machine

/-! ### Snapshots (R544 to R546) -/

/-- The par field of an entry admits a step. -/
def parAdmits (par : Nat) (step : Word) : Bool := match par with
  | 2 => !bit step 0
  | 3 => bit step 0
  | _ => true

/-- The next chunk of the snapshot from entry j, byte off: entry, HBM offset, length, destination. -/
def Dev.snapChunk (d : Dev) (s : SnapRun) : Nat → Nat → Nat → Option (Nat × Nat × Nat × Nat)
  | 0, _, _ => none
  | f + 1, j, off =>
    let r (k : Nat) : Word := d.preg .rsl (0x600 + 32 * j + k)
    let size := fld (r 4) 0 24 * 65536
    if bit (r 16) 0 && parAdmits (fld (r 16) 1 2) s.step && off < size then
      some (j, fld (r 0) 0 30 * 65536 + off, min 1024 (size - off), (joinWords (r 12) (r 8)).toNat + off)
    else d.snapChunk s f (j + 1) 0

def Dev.snapNextChunk (d : Dev) (s : SnapRun) : Option (Nat × Nat × Nat × Nat) := d.snapChunk s (16 - s.entry) s.entry s.off

def OutReq.isSnap (r : OutReq) : Bool := match r.issuer with
  | .snap _ => true
  | _ => false

/-- Sends the next chunk of the snapshot, one at a time. -/
def Dev.snapNext (d : Dev) : Dev :=
  match d.rsl.snap with
  | none => d
  | some s =>
    if !d.pageOn .rsl || d.outReqs.any OutReq.isSnap then d else
    match d.snapNextChunk s with
    | none => d
    | some (j, a, n, dst) =>
      if !d.canRequest (dst / 2 ^ 48 % 65536) then d else
      let d := { d with rsl := { d.rsl with snap := some { s with entry := j, off := (if j = s.entry then s.off else 0) + n } } }
      (d.bump .rsl 0xD8 n).request (.snap j) dst (writeParts typeWr 0 (n + 1) dst (s.image.readBytes a n))

/-! ### The buddy's keystone copy (R548) -/

def OutReq.isKey (r : OutReq) : Bool := r.issuer == .keystone true

/-- The address of the slot of the committing step past a base register. -/
def Dev.keySlot (d : Dev) (o : Nat) : Nat := (joinWords (d.preg .rsl (o + 4)) (d.preg .rsl o)).toNat + 4096 * fld d.rsl.step 0 1

/-- The copy is sent as soon as an outstanding-request entry is free. -/
def Dev.keyNext (d : Dev) : Dev :=
  let a := d.keySlot 0x98
  if !d.rsl.keyWait || !d.canRequest (a / 2 ^ 48 % 65536) then d else
  ({ d with rsl := { d.rsl with keyWait := false } }).request (.keystone true) a (writeParts typeWr 0 17 a d.rsl.key)

/-- A snapshot fails (R546). -/
def Dev.snapFail (d : Dev) : Dev := ({ d with rsl := { d.rsl with snap := none, snapFailed := true } }).raise .rsl 1

/-- SNAPSHOT_DONE: every region has been sent and acknowledged (R545). -/
def Dev.snapshotDone (d : Dev) : Dev :=
  match d.rsl.snap with
  | none => d
  | some s =>
    if d.outReqs.any OutReq.isSnap || (d.snapNextChunk s).isSome then d
    else { (d.setPreg .rsl 0xCC s.step) with rsl := { d.rsl with snap := none } }

/-! ### Serving requests (R427, R432, R433, R446) -/

/-- A request for this package; one from the fabric draws DISABLED while the fabric page's en is 0 (R458). -/
def Dev.serve (d : Dev) (src : PktSrc) (type : Nat) (f : Dev → Pkt → Dev) : Dev :=
  d.onPacket src 0 (fun k => k.type = type) fun d k _ =>
    let off := match src with
      | .port _ => !d.pageOn .fab
      | .die _ => false
    if off then d.sendErr k.src k.rs k.tid 7 else f d k

/-- RD: parts of 256 bytes in ascending order. -/
def Dev.serveRd (d : Dev) (src : PktSrc) : Dev :=
  d.serve src typeRd fun d k =>
    match d.readBy (srcCore src) k.addr k.reqBytes with
    | .error e => d.sendErr k.src k.rs k.tid e
    | .ok bs => (List.range ((k.reqBytes + 255) / 256)).foldl (fun d i => d.reply (d.homeOf (srcCore src) k.addr) k typeRdr 0 i ((bs.drop (256 * i)).take 256)) d

/-- The answer to a write or add: ACK, ERR, or later when its mirror writes have been acknowledged. -/
def Dev.answerWrite (d : Dev) (m : Nat) (k : Pkt) (o : Dev × WOut) : Dev :=
  match o with
  | (d', .ok) => d'.reply (d.homeOf m k.addr) k typeAck 0 0 []
  | (d', .wait) => d'
  | (d', .err e) => (if e = 5 then d' else d).sendErr k.src k.rs k.tid e

def Pkt.back (k : Pkt) : Back := .reply k.src k.rs k.tid k.addr
def Pkt.reqData (k : Pkt) : List Byte := (k.body.drop 16).take k.reqBytes

/-- WR. -/
def Dev.serveWr (d : Dev) (src : PktSrc) : Dev :=
  d.serve src typeWr fun d k => d.answerWrite (srcCore src) k (d.writeBy (srcCore src) k.addr k.reqData none k.back)

/-- WRL: the landing counter counts where the target is a scratchpad. -/
def Dev.serveWrl (d : Dev) (src : PktSrc) : Dev :=
  d.serve src typeWrl fun d k => d.answerWrite (srcCore src) k (d.writeBy (srcCore src) k.addr k.reqData (some (fld k.ext 17 6)) k.back)

/-- ADD. -/
def Dev.serveAdd (d : Dev) (src : PktSrc) : Dev :=
  d.serve src typeAdd fun d k => d.answerWrite (srcCore src) k (d.addBy (srcCore src) k.addr (fld k.ext 35 2) k.reqData k.back)

/-! ### Replies (R435, R436) -/

/-- RQ_STAT and RQ_RDATA at the end of an RQ operation. -/
def Dev.rqDone (d : Dev) (status : Nat) (data : Option Word) : Dev :=
  let d := d.setPreg .fab 0xC8 (packFields 32 [(1, status)])
  match data with
  | some w => d.setPreg .fab 0xCC w
  | none => d

/-- The mirror writes of an original are all acknowledged: it is answered (R541). -/
def Dev.backDone (d : Dev) (b : Back) : Dev :=
  if d.mirrorLeft b then d else
  match b with
  | .reply src rs tid a =>
    d.sendPkt (d.homeOf (edgeCore 0) a)
      { type := typeAck, vc := 1, dst := src, src := d.position, rs := rs, ttl := d.ttl, epoch := d.epoch, w1 := tid, body := [] }
  | .seg id => d.segDone id
  | _ => d

/-- A mirror write has met an error: the original draws ERR status LINK (R542), and a descriptor aborts with a code (R472). It is
answered once. -/
def Dev.backFail (d : Dev) (b : Back) (code : Nat) : Dev :=
  match b with
  | .reply src rs tid _ => (d.forgetBack b).sendErr src rs tid 5
  | .seg id => (d.forgetBack b).segFail id 33
  | .coll c n => d.collAbort c n code
  | .put t bg wrl a _ => (d.forgetBack b).remoteError (.put t bg) 5 (if wrl then typeWrl else typeWr) d.position a
  | .host _ => d.forgetBack b
  | .none => d

/-- A mirror entry breaks (R542): the original of the write that met the error, and those whose writes by this entry still wait and will
not be sent, are answered. -/
def Dev.mirrorBreak (d : Dev) (i : Nat) (b : Back) (code : Nat) : Dev :=
  let o := 0x10C + 16 * i
  let lost := (d.mirQ.filter fun m => m.entry == i).map MirFly.back
  let d := (({ d with mirQ := d.mirQ.filter fun m => m.entry != i }).setPreg .rsl o (setBit (d.preg .rsl o) 1 true)).raise .rsl 0
  (b :: lost.eraseDups.filter fun x => x ≠ b).foldl (fun d b => d.backFail b code) d

/-- Entries have become free: what waits for one is sent, mirror writes, COLL packets, the keystone and the snapshot. -/
def Dev.drain (d : Dev) : Dev := d.mirrorDrain.collDrain.keyNext.snapNext

/-- An entry has all its replies. -/
def Dev.complete (d : Dev) (e : OutReq) : Dev :=
  let d := (d.dropReq e.tid)
  let data := e.parts.cells.flatMap fun x => x.2
  let d := match e.issuer with
    | .stream _ _ seg => if e.type = typeRd then d.segData seg data else d.segDone seg
    | .rq => d.rqDone 0 (if e.type = typeRd then some (BitVec.ofNat 32 (ofBytesLE (data.take 4))) else none)
    | .mirror _ b => d.backDone b
    | _ => d
  d.drain

/-- What an error does to the issuer of an entry (R435, R472, R542, R546); the record of the last ERR is written whoever it is (R458). -/
def Dev.issuerError (d : Dev) (e : OutReq) (status pos : Nat) : Dev :=
  let d := d.errRecord e.issuer status e.type pos e.addr
  match e.issuer with
  | .put _ _ => d.raise .fab 0
  | .stream _ _ seg => d.segFail seg 33
  | .coll c n => d.collAbort c n (if status = 6 then 33 else 32)
  | .rq => d.rqDone status none
  | .mirror i b => d.mirrorBreak i b (if status = 6 then 33 else 32)
  | .snap _ => if status = 6 then d else d.snapFail
  | .keystone live => if live then { d with rsl := { d.rsl with keyErr := true } } else d

/-- A reply reaches its entry, or is dropped and counted. -/
def Dev.onReply (d : Dev) (src : PktSrc) (type : Nat) (f : Dev → Pkt → OutReq → Dev) : Dev :=
  d.onPacket src 1 (fun k => k.type = type) fun d k _ =>
    match d.reqOf k.tid with
    | some e => if k.epoch = d.epoch then f d k e else d.bump .fab 0x118 1
    | none => d.bump .fab 0x118 1

/-- One reply fewer to come; the last one completes the entry. -/
def Dev.counted (d : Dev) (e : OutReq) : Dev := if e.left ≤ 1 then d.complete e else d.setReq { e with left := e.left - 1 }

/-- RDR: a part of a read that has not come yet. -/
def Dev.replyRdr (d : Dev) (src : PktSrc) : Dev :=
  d.onReply src typeRdr fun d k e =>
    let part := k.w1 / 2 ^ 24 % 4
    if e.type ≠ typeRd || (e.parts.get? part).isSome then d.bump .fab 0x118 1
    else d.counted { e with parts := e.parts.set part k.body }

/-- ACK. -/
def Dev.replyAck (d : Dev) (src : PktSrc) : Dev :=
  d.onReply src typeAck fun d _ e => if e.type = typeRd then d.bump .fab 0x118 1 else d.counted e

/-- ERR: the issuer hears of it; the entry stays until its other packets have been answered. -/
def Dev.replyErr (d : Dev) (src : PktSrc) : Dev :=
  d.onReply src typeErr fun d k e =>
    let left := if e.type = typeRd then 1 else e.left
    let d := if left ≤ 1 then d.dropReq e.tid else d.setReq { e with left := left - 1 }
    (d.issuerError e (k.w1 / 65536 % 256) k.src).drain

/-- Ends outstanding requests with a status that the package itself gives (R420, R447). -/
def Dev.failReqs (d : Dev) (p : OutReq → Bool) (status : Nat) : Dev :=
  let hit := d.outReqs.filter p
  hit.foldl (fun d e => d.issuerError e status (Config.selfResponder status).toNat) { d with outReqs := d.outReqs.filter fun e => !p e }

/-! ### Forwarding (R431, R438 to R442) -/

/-- A packet that is dropped on its way; a request draws NO_ROUTE. -/
def Dev.dropTransit (d : Dev) (k : Pkt) : Dev :=
  if k.isRequest then d.routeDrop.sendErr k.src k.rs k.tid 4 else d.routeDrop

/-- PACKET_FORWARD: the oldest packet of a VC on a port, when it is not for this package; a packet of no known type is
dropped, and a management packet for this package goes to the MC. -/
def Dev.packetForward (d : Dev) (p v : Nat) : Dev :=
  match d.arrived (.port p) v with
  | none => d
  | some (k, _, d') =>
    if !k.typeOk || k.vc ≠ v then d'.bump .fab 0x120 1
    else if k.dst = d.position then
      if k.type = typeMgmt then d'.emit (.mgmt k.bytes)
      else if k.type = typeJet && 6 < k.sub then (d'.epochCheck (.port p) k).1
      else d
    else if k.ttl = 0 then d'.dropTransit k
    else match d'.routeOf k.rs k.dst (some p) with
      | some (q, bubble) =>
        -- from one edge router to another it crosses the die network
        let k := { k with ttl := k.ttl - 1 }
        (if p / 3 = q / 3 then d'.queueTx q bubble k else d'.sendOut (portCore p) q bubble k).bump .fab 0x138 1
      | none => d'.dropTransit k

/-! ### Epochs and takeover (R447, R453 to R457) -/

def ovrCtl (i : Nat) : Nat := 0x804 + 8 * i

/-- Staged items whose act_epoch is v take effect (R454). -/
def Dev.activate (d : Dev) (v : Nat) : Dev :=
  let nx := d.preg .fab 0x84
  let ctl := d.preg .fab 0x8C
  let d := if bit ctl 0 && fld nx 16 16 = v then
      (d.setPreg .fab 0x80 (nx &&& 0xFFFF#32)).setPreg .fab 0x8C (setBit ctl 0 false)
    else d
  (List.range 64).foldl (fun d i =>
    let w := d.preg .fab (ovrCtl i)
    if bit w 5 && bit w 6 && fld w 16 16 = v then
      d.setPreg .fab (ovrCtl i) (setFld (setBit w 6 false) 8 2 (if bit w 7 then 1 else 0))
    else d) d

/-- A write of FAB_EPOCH: in the order of R447; the running descriptors abort, all arrival counts are cleared (R472), and a
snapshot starts again (R546). Requests that the fabric page's en held back have ended with status EPOCH and are not sent. -/
def Dev.fabEpochWrite (d : Dev) (w : Word) : Dev :=
  if !d.pageAnswers .fab then d else
  let v := fld w 0 16
  let d := (d.activate v).failReqs (fun r => r.tid / 2048 ≠ portLocal) 6
  let d := d.collAbortAll 33 fun _ _ => true
  let d := { d with colls := d.colls.mapVals fun _ r => r.cleared, collQ := []
                    fabWait := d.fabWait.filter fun k => !k.2.isRequest && k.2.type ≠ typeColl }
  let d := d.setPreg .fab 0x88 (BitVec.ofNat 32 v)
  match d.rsl.snap with
  | some s => (({ d with rsl := { d.rsl with snap := some { s with entry := 0, off := 0 } } }).bump .rsl 0xE0 1).drain
  | none => d.drain

def Dev.tkoTarget (d : Dev) : Nat := fld (d.preg .fab 0x94) 0 16
def Dev.pstate (d : Dev) (i : Nat) : Nat := fld (d.preg .fab (ovrCtl i)) 8 2
def Dev.setPstate (d : Dev) (i n : Nat) : Dev := d.setPreg .fab (ovrCtl i) (setFld (d.preg .fab (ovrCtl i)) 8 2 n)

/-- An active entry in pstate PROBING. -/
def Dev.probing (d : Dev) (i : Nat) : Bool :=
  let w := d.preg .fab (ovrCtl i)
  bit w 5 && !bit w 6 && fld w 8 2 = 1

/-- Sends PROBE out of the entry's port; one that cannot leave by it is dropped and counted (R435). -/
def Dev.sendProbe (d : Dev) (i seq : Nat) : Dev :=
  let p := fld (d.preg .fab (ovrCtl i)) 0 4
  let d := { d with tko := d.tko.set i seq }
  let k : Pkt := { type := typeJet, vc := 2, dst := d.tkoTarget, src := d.position, rs := d.routeSet, ttl := d.ttl, epoch := d.epoch
                   w1 := 5 + 256 * (seq + 256 * i), body := [] }
  if d.pageOn .fab && d.portUsable p then d.sendOut (portCore p) p false k else d.routeDrop

/-- TKO_CMD.probe. -/
def Dev.probeStart (d : Dev) : Dev :=
  if !d.pageAnswers .fab then d else
  ((List.range 64).filter d.probing).foldl (fun d i => d.sendProbe i 1) { d with tkoRun := true }

/-- PROBE at the package whose position it names: answered at once. -/
def Dev.probe (d : Dev) (src : PktSrc) : Dev :=
  d.onPacket src 2 (fun k => k.type = typeJet && k.sub = 5) fun d k _ =>
    let f := k.jetFields
    d.jet none k.src 6 (fld f 0 8 + 256 * fld f 8 6 + 16384 * d.position) []

/-- PROBE_ACK: the current attempt confirms its entry (R455, R457). -/
def Dev.probeAck (d : Dev) (src : PktSrc) : Dev :=
  d.onPacket src 2 (fun k => k.type = typeJet && k.sub = 6) fun d k _ =>
    let f := k.jetFields
    let i := fld f 8 6
    if d.probing i && d.tko.get? i = some (fld f 0 8) && fld f 14 16 = d.tkoTarget then
      { (d.setPstate i 2) with tko := d.tko.erase i }
    else d.bump .fab 0x128 1

/-- PROBE_TIMEOUT: the next attempt, or FAILED after the last. -/
def Dev.probeTimeout (d : Dev) (i : Nat) : Dev :=
  match d.tko.get? i with
  | none => d
  | some seq =>
    if !d.probing i then { d with tko := d.tko.erase i }
    else if seq < max 1 (fld (d.preg .fab 0xA0) 24 4) then d.sendProbe i (seq + 1)
    else ({ (d.setPstate i 3) with tko := d.tko.erase i }).raise .fab 3

/-- TKO_STAT (R455). -/
def Dev.tkoStat (d : Dev) : Nat :=
  let any (n : Nat) : Bool := (List.range 64).any fun i => d.pstate i = n
  if any 1 then 1 else if any 3 then 3 else if any 2 || d.tkoRun then 2 else 0

/-! ### RQ registers (R458, R459) -/

def Dev.rqAddr (d : Dev) : Nat := (joinWords (d.preg .fab 0xBC) (d.preg .fab 0xB8)).toNat / 4 * 4

/-- A write of RQ_CMD has an effect: no operation is outstanding, and an entry is free. -/
def Dev.rqOk (d : Dev) : Bool := d.pageAnswers .fab && !bit (d.preg .fab 0xC8) 0 && d.canRequest (d.rqAddr / 2 ^ 48 % 65536)

/-- RQ_CMD: ignored while an operation is outstanding. -/
def Dev.rq (d : Dev) (type : Nat) : Dev :=
  if !d.rqOk then d else
  let a := d.rqAddr
  let data := if type = typeRd then [] else bytesLE 4 (d.preg .fab 0xC0).toNat
  (d.setPreg .fab 0xC8 1).request .rq a [{ type := type, addr := a, lc := 0, bytes := 4, fn := 0, data := data }]

def Dev.rqRead (d : Dev) : Dev := d.rq typeRd
def Dev.rqWrite (d : Dev) : Dev := d.rq typeWr
def Dev.rqAdd (d : Dev) : Dev := d.rq typeAdd

/-! ### BLK_CTRL.en of the fabric page (R458) -/

/-- Packets that waited while the page was off are sent; they carry the epoch of this moment (R447). -/
def Dev.fabOn (d : Dev) : Dev :=
  d.fabWait.foldl (fun d k => d.sendPkt k.1 { k.2 with rs := d.routeSet, ttl := d.ttl, epoch := d.epoch }) { d with fabWait := [] }

end Sys2Proof.Machine
end

