-- ==== Sys2Proof/Machine/Pool.lean ====
section
/-! DEFINITION. The core pool's merge windows as they close, and the writes that are held behind them (08 R233 to R235). -/

namespace Sys2Proof.Machine

/-- The bytes of a line that a waiting load asked for reach it; the last line ends its wait. -/
def Ctx.poolBytes (c : Ctx) (r : Reg) (line : Nat) (data : List Byte) : Ctx :=
  match takeFirst (fun (l : PoolLoad) => l.dest == r && l.lines.contains line) c.loads with
  | none => c
  | some (l, rest) =>
    let l := { l with data := l.data.setMany (64 * line) data, lines := l.lines.filter fun x => x ≠ line }
    if l.lines = [] then { (l.finish { c with loads := rest }) with pend := c.pend.erase r }
    else { c with loads := rest ++ [l] }

/-- A held write that can be performed: first on its line of core c, with no earlier store of its context held; its line and what
follows it there. -/
def Dev.nextHeld (d : Dev) (c : Nat) : Option (Nat × PoolWrite × List PoolOp) :=
  d.poolOps.cells.findSome? fun x =>
    match x.2 with
    | .write w :: r => if x.1 / 262144 = c && !d.storedBefore w then some (x.1 % 262144, w, r) else none
    | _ => none

/-- Performs held writes of core c, at most n; a write whose last line has been performed is answered (R432). -/
def Dev.performHeld (d : Dev) (c : Nat) : Nat → Dev
  | 0 => d
  | n + 1 =>
    match d.nextHeld c with
    | none => d
    | some (line, w, r) =>
      let d := (d.setLineOps c line r).modPool c fun m => m.writeBytes w.addr w.bytes
      let more := d.poolOps.cells.any fun x => (heldOf x.2).any fun h => h.seq == w.seq
      (if more then d else d.backDone w.back).performHeld c n

/-- POOL_WINDOW_CLOSE: one read of the line serves every tile in the window, by a reply on VC1; then the writes that it held are performed (R234). -/
def Dev.poolClose (d : Dev) (c line : Nat) : Dev :=
  match d.lineOps c line with
  | .window readers :: r =>
    let data := (d.poolMem c).readBytes (64 * line) 64
    let d := readers.foldl (fun d x => (d.modCtx x.1 x.2.1 fun k => k.poolBytes x.2.2 line data).haltDone x.1 x.2.1) d
    let d := d.injectPkt c 1
    let d := (d.bump (.pool c) 0x90 1).bump (.pool c) 0x98 (readers.length - 1)
    let d := d.setLineOps c line r
    d.performHeld c (d.poolOps.cells.flatMap fun x => heldOf x.2).length
  | _ => d

end Sys2Proof.Machine
end

