-- ==== Sys2Proof/Machine/Collective.lean ====
section
/-! DEFINITION. Collective units (16 R466 to R486): descriptor writes, starting and refusing, the COLL sub-operations, the plain
collectives, Isobar, and completion. -/

namespace Sys2Proof.Machine

/-- COLL_DESC_WRITE (R466): one word of the descriptor window. -/
def Dev.collDescWrite (d : Dev) (path : Path) (c off : Nat) (w : Word) : Dev :=
  let n := off / 64
  let ok := (d.collRun c n).state ≠ .running && d.coreHalted c
  if !d.pageAnswers (.coll c) then d
  else if !ok then d.ignored path (coreBase c + 0xB000 + off)
  else (d.wr (coreBase c + 0xB000 + off / 4 * 4) w).modColl c n fun r => { r.cleared with state := .idle }

/-! ### Results (R471, R473, R482) -/

/-- A W value of a byte list: element i of wb bytes. -/
def wElem (wb i : Nat) (bs : List Byte) : DWord :=
  let v := ofBytesLE ((bs.drop (wb * i)).take wb)
  if wb = 4 then w32to64 (BitVec.ofNat 32 v) else BitVec.ofNat 64 v

/-- The marker SAT, or any value, as wb bytes. -/
def wBytes (wb : Nat) (v : DWord) : List Byte :=
  if wb = 4 then bytesLE 4 (if v = wSat 64 then (wSat 32).toNat else (loWord v).toNat) else bytesLE 8 v.toNat

/-- The agreed exponent of a block in the work area. -/
def Dev.agreed (d : Dev) (k : CDesc) (b : Nat) : Int := (BitVec.ofNat 16 (ofBytesLE (d.hbm.readBytes (d.emaxAddr k b) 2))).toInt

/-- The exponents that stand for a nonfinite block and for a block of zeros. -/
def expNonfinite : Int := 32767
def expZero : Int := -32768

def log2ceil (n : Nat) : Nat := if n ≤ 1 then 0 else Nat.log2 (n - 1) + 1

/-- The block scale (R478). -/
def Dev.blockSigma (d : Dev) (k : CDesc) (emax : Int) : Int := emax + 1 - ((8 * k.wb : Int) - 1 - log2ceil (d.groupN k))

/-- W to FP32 with the factor r = 1 / n rounded (R482). -/
def wResult (w : DWord) (sigma : Int) (n : Nat) : Conv :=
  if w = wSat 64 then convFromW w sigma else
  let r := (fmtFp32.conv true .rne ((FVal.ofInt 1).div (FVal.ofInt n))).enc
  fmtFp32.conv true .rne (((FVal.ofInt w.toInt).scale sigma).mul (fmtFp32.decode r))

/-- Sums of one part of a block become results, each of them counted (R55, R188); those within E are written to dst (R482). -/
def Dev.collResults (d : Dev) (c n : Nat) (k : CDesc) (b part : Nat) (bs : List Byte) : Dev :=
  if d.collDead c n then d else
  let ep := 256 / k.wb
  let first := 256 * b + ep * part
  let e := d.agreed k b
  let m := min ep (k.count - first)
  let ws := (List.range ep).map fun i => wElem k.wb i bs
  let cs := ws.map fun w => wResult w (d.blockSigma k e) k.live
  let d := d.modColl c n fun r => { r.write (4 * first) (4 * m) with
    nonfinite := r.nonfinite || (m ≠ 0 && e = expNonfinite)
    sat := r.sat || (e ≠ expNonfinite && (ws.take m).any fun w => w = wSat 64) }
  (d.collWrite c n (hbmOff k.dst + 4 * first) ((cs.take m).flatMap fun x => bytesLE 4 x.enc)).baroUnit c 1 k.tag 2 cs

/-! ### Isobar (R476 to R483) -/

/-- An element of src, +0 beyond E. -/
def Dev.srcVal (d : Dev) (k : CDesc) (i : Nat) : FVal :=
  if k.count ≤ i then .zero false else fp32 (d.hbm.word (hbmOff k.src + 4 * i))

/-- The local exponent of a block (R476). -/
def Dev.localExp (d : Dev) (k : CDesc) (b : Nat) : Int :=
  let xs := (List.range 256).map fun i => d.srcVal k (256 * b + i)
  if xs.any fun x => !x.isFinite then expNonfinite else
  xs.foldl (fun a x => match x with
    | .fin _ m dn e => if m = 0 then a else max a (ratLog2 m dn + e)
    | _ => a) expZero

/-- The other live contributors. -/
def Dev.others (d : Dev) (k : CDesc) : List Nat := (d.liveOrds k).filter fun o => o ≠ d.ownOrd k

def Dev.msgTo (d : Dev) (k : CDesc) (c n sub o b part nval : Nat) (data : List Byte) : CollMsg :=
  { core := c, d := n, dst := d.memberPos k o, sub := sub, ord := d.ownOrd k, block := b, part := part, nval := nval, data := data }

/-- Counted contributions of a part. -/
def CollRun.cnt (r : CollRun) (b part : Nat) : Nat := r.count.getD (32 * b + part) 0
def CollRun.tally (r : CollRun) (b part : Nat) : CollRun := { r with count := r.count.modify (32 * b + part) 0 (· + 1) }
/-- Parts 0 to p - 1 of a block have n contributions each. -/
def CollRun.full (r : CollRun) (b p n : Nat) : Bool := (List.range p).all fun i => r.cnt b i = n
def CollRun.clearBlock (r : CollRun) (b p : Nat) : CollRun :=
  let other (x : Nat) : Bool := !(32 * b ≤ x && x < 32 * b + p)
  { r with count := r.count.keep fun x _ => other x, sums := r.sums.keep fun x _ => other x }

/-- The owner gathers a block: WGATH to the others, its own results (steps 4 and 5). -/
def Dev.gatherBlock (d : Dev) (c n : Nat) (k : CDesc) (b : Nat) (parts : List (List Byte)) : Dev :=
  let items := parts.mapIdx fun i bs => (i, bs)
  let d := (d.others k).foldl (fun d o => items.foldl (fun (d : Dev) (x : Nat × List Byte) =>
    d.collSend (d.msgTo k c n 3 o b x.1 0 x.2)) d) d
  items.foldl (fun (d : Dev) (x : Nat × List Byte) => d.collResults c n k b x.1 x.2) d

/-- Adds W values element by element (R52). -/
def addParts (wb : Nat) (a b : List Byte) : List Byte :=
  (List.range (256 / wb)).flatMap fun i =>
    if wb = 4 then bytesLE 4 (wAdd (BitVec.ofNat 32 (ofBytesLE ((a.drop (4 * i)).take 4))) (BitVec.ofNat 32 (ofBytesLE ((b.drop (4 * i)).take 4)))).1.toNat
    else bytesLE 8 (wAdd (wElem 8 i a) (wElem 8 i b)).1.toNat

/-- WADD at the owner: the first contribution of a part is stored, later ones are added; n of every part end the block. -/
def Dev.applyWadd (d : Dev) (c n : Nat) (k : CDesc) (b part : Nat) (data : List Byte) : Dev :=
  let a := d.wAddr k b part
  let new := if (d.collRun c n).cnt b part = 0 then data else addParts k.wb (d.hbm.readBytes a 256) data
  let d := (d.collWrite c n a new).modLive c n fun r => r.tally b part
  if d.collDead c n || !(d.collRun c n).full b k.wb k.live then d else
  let parts := (List.range k.wb).map fun p => d.hbm.readBytes (d.wAddr k b p) 256
  let sats := (parts.map fun bs => ((List.range (256 / k.wb)).filter fun i => wElem k.wb i bs = wSat 64).length).foldl (· + ·) 0
  let d := iterate sats (fun _ x => x.raise (.coll c) 2) (d.bump (.coll c) 0xA8 sats)
  (d.modColl c n fun r => r.clearBlock b k.wb).gatherBlock c n k b parts

/-- Converts one part of a block to W (R479, R480). -/
def Dev.toW (d : Dev) (c : Nat) (k : CDesc) (b part : Nat) (e : Int) : List Conv :=
  let ep := 256 / k.wb
  (List.range ep).map fun i =>
    let x := 256 * b + ep * part + i
    if e = expZero then { enc := 0, flags := 0, cls := .plain }
    else convToW (8 * k.wb) (.drizzle (d.draw c (d.tag c k.tag).id (k.ibase + x))) (d.srcVal k x) (d.blockSigma k e)

/-- EGATH for one block: the agreed exponent is stored; a finite block is converted and sent to its owner (step 3). -/
def Dev.applyEgath (d : Dev) (c n : Nat) (k : CDesc) (b : Nat) (e : Int) : Dev :=
  let d := d.collWrite c n (d.emaxAddr k b) (bytesLE 2 (BitVec.ofInt 16 e).toNat)
  if e = expNonfinite then d else
  let own := d.ownerOf k b
  (List.range k.wb).foldl (fun d p =>
    if d.collDead c n then d else
    let cs := d.toW c k b p e
    let d := if e = expZero then d else d.baroUnit c 1 k.tag (if k.wb = 4 then 11 else 12) cs
    let bs := cs.flatMap fun x => bytesLE k.wb x.enc
    if own = d.ownOrd k then d.applyWadd c n k b p bs else d.collSend (d.msgTo k c n 2 own b p 0 bs)) d

/-- MAXE for one block at its owner: n exponents form emax, which goes to every live contributor (step 2); a nonfinite
block is gathered at once. -/
def Dev.applyMaxe (d : Dev) (c n : Nat) (k : CDesc) (b : Nat) (e : Int) : Dev :=
  if d.collDead c n then d else
  let d := d.modColl c n fun r =>
    { r.tally b 16 with emax := r.emax.set b (match r.emax.get? b with | some x => max x e | none => e) }
  let r := d.collRun c n
  if r.cnt b 16 ≠ k.live then d else
  let m := r.emax.getD b e
  let d := d.setColl c n { r with emax := r.emax.erase b, count := r.count.erase (32 * b + 16) }
  let bs := bytesLE 2 (BitVec.ofInt 16 m).toNat
  let d := ((d.others k).foldl (fun d o => d.collSend (d.msgTo k c n 1 o b 0 1 bs)) d).applyEgath c n k b m
  if m = expNonfinite then
    d.gatherBlock c n k b (List.replicate k.wb ((List.range (256 / k.wb)).flatMap fun _ => wBytes k.wb (wSat 64)))
  else d

/-! ### Plain collectives (R473 to R475) -/

/-- Writes result bytes at an offset of dst; bytes beyond E are not written. -/
def Dev.putResult (d : Dev) (c n : Nat) (k : CDesc) (slot off : Nat) (bs : List Byte) : Dev :=
  let bs := bs.take (k.bytes - off)
  let sat := (k.op = opIsum || k.op = opScatter) &&
    ((k.etype = 1 && (wordsLE (bs.length / 4) bs).any fun w => w = wSat 32) ||
     (k.etype = 2 && (List.range (bs.length / 8)).any fun i => wElem 8 i bs = wSat 64))
  (d.modLive c n fun r => { r.write (slot + off) bs.length with sat := r.sat || sat }).collWrite c n (hbmOff k.dst + slot + off) bs

/-- PERMUTE: all of the staging array has come and src has been read: one copy in a run (R475). -/
def Dev.permCopy (d : Dev) (c n : Nat) (k : CDesc) : Dev :=
  let r := d.collRun c n
  if r.state = .running && r.issued && !r.copied && r.covers 0 k.bytes then
    (d.setColl c n { r.used with copied := true }).collWrite c n (hbmOff k.dst) (d.hbm.readBytes (d.stagingAddr k) k.bytes)
  else d

/-- VPUT from contributor o: where its data go depends on the op. -/
def Dev.applyVput (d : Dev) (c n : Nat) (k : CDesc) (o off : Nat) (bs : List Byte) : Dev :=
  if k.op = opPerm then
    let bs := bs.take (k.bytes - off)
    ((d.modLive c n fun r => r.write off bs.length).collWrite c n (d.stagingAddr k + off) bs).permCopy c n k
  else d.putResult c n k (if k.op = opGather then o * k.bytes else 0) off bs

/-- Combines one element of MAX (R474), or of a sum modulo 2^32. -/
def combineElem (k : CDesc) (a b : List Byte) : List Byte :=
  let x : Word := BitVec.ofNat 32 (ofBytesLE a)
  let y : Word := BitVec.ofNat 32 (ofBytesLE b)
  bytesLE 4 (if k.op ≠ opMax then x + y else match k.etype with
    | 0 => if x.toInt < y.toInt then y else x
    | 1 => if x.toNat < y.toNat then y else x
    | _ => (fp32Max x y).1).toNat

def combineParts (k : CDesc) (a b : List Byte) : List Byte :=
  (List.range (256 / k.eb)).flatMap fun i => combineElem k ((a.drop (k.eb * i)).take k.eb) ((b.drop (k.eb * i)).take k.eb)

/-- The elements are W32 or W64 and are summed (R464). -/
def CDesc.sumsW (k : CDesc) : Bool := (k.op = opIsum || k.op = opScatter) && k.etype ≠ 0

/-- The W elements of 256 bytes as integers, none for SAT. -/
def wInts (eb : Nat) (bs : List Byte) : List (Option Int) :=
  (List.range (256 / eb)).map fun i => let w := wElem eb i bs; if w = wSat 64 then none else some w.toInt

/-- Exact sums, SAT absorbing: R52's addition without a bound between the addends, so that their order does not matter (R473). -/
def addInts (a b : List (Option Int)) : List (Option Int) :=
  List.zipWith (fun x y => match x, y with
    | some x, some y => some (x + y)
    | _, _ => none) a b

/-- Sums as W elements: SAT outside the representable range (R52). -/
def intsW (eb : Nat) (xs : List (Option Int)) : List Byte :=
  xs.flatMap fun x => match x with
    | some i => bytesLE eb (if eb = 4 then (wOfInt 32 i).toNat else (wOfInt 64 i).toNat)
    | none => wBytes eb (wSat 64)

/-- Parts of a block that hold elements. -/
def CDesc.parts (k : CDesc) (b : Nat) : Nat := (min (256 * k.eb) (k.bytes - 256 * k.eb * b) + 255) / 256

/-- VMAX and VSUM at the owner; a complete block is sent by VPUT, or kept by REDUCE_SCATTER. -/
def Dev.applyVal (d : Dev) (c n : Nat) (k : CDesc) (b part : Nat) (data : List Byte) : Dev :=
  let a := d.accAddr k b part
  let data := data ++ List.replicate (256 - data.length) 0
  let first := (d.collRun c n).cnt b part = 0
  let sums := if first then wInts k.eb data else addInts ((d.collRun c n).sums.getD (32 * b + part) []) (wInts k.eb data)
  let new := if k.sumsW then intsW k.eb sums
    else if first then (if k.op = opMax then combineParts k data data else data)
    else combineParts k (d.hbm.readBytes a 256) data
  let d := (d.collWrite c n a new).modLive c n fun r =>
    if k.sumsW then { r.tally b part with sums := r.sums.set (32 * b + part) sums } else r.tally b part
  let p := k.parts b
  if d.collDead c n || !(d.collRun c n).full b p k.live then d else
  let d := d.modColl c n fun r => r.clearBlock b p
  (List.range p).foldl (fun d i =>
    let off := 256 * k.eb * b + 256 * i
    let bs := (d.hbm.readBytes (d.accAddr k b i) 256).take (k.bytes - off)
    let d := if k.op = opScatter then d else
      (d.others k).foldl (fun d o => d.collSend (d.msgTo k c n 6 o b i 0 bs)) d
    d.putResult c n k 0 off bs) d

/-! ### Arrivals (R469) -/

/-- The op that a sub-operation belongs to. -/
def subFits (k : CDesc) (sub : Nat) : Bool :=
  if sub ≤ 3 then k.op = opIsobar else if sub = 4 then k.op = opMax
  else if sub = 5 then k.op = opIsum || k.op = opScatter else sub = 6 && k.op ≠ opIsobar

def Pkt.collSub (p : Pkt) : Nat := p.w1 % 16
def Pkt.collOrd (p : Pkt) : Nat := fld p.ext 16 20
def Pkt.collBlock (p : Pkt) : Nat := fld p.ext 36 18
def Pkt.collPart (p : Pkt) : Nat := fld p.ext 54 3
def Pkt.collNval (p : Pkt) : Nat := fld p.ext 57 8
def Pkt.collData (p : Pkt) : List Byte := p.body.drop 16

/-- A COLL packet whose sub satisfies `want`: refused under R427, R458 or R469, or applied and acknowledged. -/
def Dev.collArrive (d : Dev) (src : PktSrc) (want : Nat → Bool) (f : Dev → Nat → Nat → CDesc → Pkt → Dev) : Dev :=
  d.onPacket src 0 (fun k => k.type = typeColl && want k.collSub) fun d k _ =>
    let l := k.w1 / 1024 % 8
    let n := k.w1 / 16 % 64
    let off := match src with
      | .port _ => !d.pageOn .fab
      | .die _ => false
    let no (d : Dev) (status : Nat) : Dev := d.sendErr k.src k.rs k.tid status
    if off then no d 7 else
    if !d.lcoreBound (srcCore src) l then no d 1 else
    let c := d.physCore (srcCore src) l
    if d.isFenced (.core c) then no d 3 else
    if !d.pageOn (.coll c) then no d 7 else
    let ds := d.cdesc c n
    let st := (d.collRun c n).state
    if !ds.valid || st = .aborted || st = .refused || !subFits ds k.collSub || !d.inGroup ds k.src ||
        d.ordinal ds k.src ≠ k.collOrd || !d.isLive ds k.collOrd then
      no ((d.bump (.coll c) 0xA0 1).raise (.coll c) 1) 8
    else ((f d c n ds k).bump (.coll c) 0x98 1).reply (some c) k typeAck 0 0 []

/-- Signed 16-bit exponents of a MAXE or EGATH packet: the k-th stands for block + k n. -/
def Pkt.exps (p : Pkt) : List (Nat × Int) :=
  (List.range p.collNval).map fun i => (i, (BitVec.ofNat 16 (ofBytesLE ((p.collData.drop (2 * i)).take 2))).toInt)

/-- MAXE; a reserved sub-operation is refused here too. -/
def Dev.maxe (d : Dev) (src : PktSrc) : Dev :=
  d.collArrive src (fun s => s = 0 || 7 ≤ s) fun d c n ds k =>
    k.exps.foldl (fun (d : Dev) (x : Nat × Int) => d.applyMaxe c n ds (k.collBlock + x.1 * ds.live) x.2) d

/-- EGATH. -/
def Dev.egath (d : Dev) (src : PktSrc) : Dev :=
  d.collArrive src (fun s => s = 1) fun d c n ds k =>
    k.exps.foldl (fun (d : Dev) (x : Nat × Int) => d.applyEgath c n ds (k.collBlock + x.1 * ds.live) x.2) d

def Dev.wadd (d : Dev) (src : PktSrc) : Dev :=
  d.collArrive src (fun s => s = 2) fun d c n ds k => d.applyWadd c n ds k.collBlock k.collPart k.collData

def Dev.wgath (d : Dev) (src : PktSrc) : Dev :=
  d.collArrive src (fun s => s = 3) fun d c n ds k => d.collResults c n ds k.collBlock k.collPart k.collData

def Dev.vmax (d : Dev) (src : PktSrc) : Dev :=
  d.collArrive src (fun s => s = 4) fun d c n ds k => d.applyVal c n ds k.collBlock k.collPart k.collData

def Dev.vsum (d : Dev) (src : PktSrc) : Dev :=
  d.collArrive src (fun s => s = 5) fun d c n ds k => d.applyVal c n ds k.collBlock k.collPart k.collData

def Dev.vput (d : Dev) (src : PktSrc) : Dev :=
  d.collArrive src (fun s => s = 6) fun d c n ds k =>
    d.applyVput c n ds k.collOrd (256 * ds.eb * k.collBlock + 256 * k.collPart) k.collData

/-! ### Starting (R467) -/

/-- A range lies in space 00 at the own position, in stacks that are not fenced. -/
def Dev.ownRange (d : Dev) (a : DWord) (n : Nat) : Bool :=
  let o := hbmOff a
  fld a 46 2 = 0 && fld a 48 16 = d.position && o + n ≤ 2 ^ 39 &&
    (List.range 8).all fun s => !(d.isFenced (.mem s) && overlaps o n (s * 2 ^ 36) (2 ^ 36))

/-- The lowest refusal code; 0 when every check passes. -/
def Dev.collCode (d : Dev) (k : CDesc) : Nat :=
  let axes := d.groupAxes k
  let n := d.groupN k
  let typed := k.op ≤ 3
  if k.rsv || k.op = 7 || (typed && (k.etype = 3 || (k.op = opIsobar && k.etype = 2))) || k.count = 0 || 2 ^ 26 < k.count ||
      fld k.work 0 10 ≠ 0 || k.readyTarget = 0 || 2 ^ 20 < k.live then 1
  else if axes.isEmpty || (axes.any fun x => x.width = 0) || 2 ^ 20 < n then 2
  else if !d.isLive k (d.ownOrd k) || k.live = 0 || k.live ≠ (d.liveOrds k).length then 3
  else if !d.ownRange k.src k.bytes || !d.ownRange k.dst (d.dstSize k) || !d.ownRange k.work (d.workSize k) ||
      (overlaps (hbmOff k.src) k.bytes (hbmOff k.dst) (d.dstSize k) && !(k.op = opPerm && k.src = k.dst)) ||
      overlaps (hbmOff k.src) k.bytes (hbmOff k.work) (d.workSize k) ||
      overlaps (hbmOff k.dst) (d.dstSize k) (hbmOff k.work) (d.workSize k) then 4
  else if k.op = opIsobar && k.etype = 0 && 65536 < n then 5
  else if k.op = opBcast && !(k.root < n && d.isLive k k.root) then 7
  else if k.op = opPerm &&
      !((d.liveOrds k).all fun o => d.isLive k (d.permTarget k o) && d.permTarget k o < n) then 8
  else if k.op = opPerm && ((d.liveOrds k).map (d.permTarget k)).eraseDups.length ≠ k.live then 8
  else 0

/-- ISOBAR: the tag is residual-class. -/
def Dev.collResidual (d : Dev) (c : Nat) (k : CDesc) : Bool := k.op = opIsobar && (d.tag c k.tag).cls = 2

/-- Cuts a list into pieces. -/
def chunks {α : Type} (n : Nat) : Nat → List α → List (List α)
  | 0, _ => []
  | _ + 1, [] => []
  | f + 1, l => l.take n :: chunks n f (l.drop n)

/-- Step 1 of Isobar: local exponents, up to 128 to one owner in a packet; own blocks inside the unit. -/
def Dev.isobarStart (d : Dev) (c n : Nat) (k : CDesc) : Dev :=
  let live := d.liveOrds k
  let sends := (live.mapIdx fun r o => (r, o)).filter fun (x : Nat × Nat) => x.2 ≠ d.ownOrd k
  let mine := (List.range k.nblk).filter fun b => d.ownerOf k b = d.ownOrd k
  let d := sends.foldl (fun (d : Dev) (x : Nat × Nat) =>
    let bs := (List.range k.nblk).filter fun b => b % live.length = x.1
    (chunks 128 (bs.length + 1) bs).foldl (fun d l =>
      d.collSend (d.msgTo k c n 0 x.2 (l.getD 0 0) 0 l.length (l.flatMap fun b => bytesLE 2 (BitVec.ofInt 16 (d.localExp k b)).toNat))) d) d
  mine.foldl (fun d b => d.applyMaxe c n k b (d.localExp k b)) d

/-- Bytes of src in pieces of 256, by block and part. -/
def Dev.srcPieces (d : Dev) (k : CDesc) : List (Nat × Nat × List Byte) :=
  (List.range k.nblk).flatMap fun b => (List.range (k.parts b)).map fun p =>
    let off := 256 * k.eb * b + 256 * p
    (b, p, d.hbm.readBytes (hbmOff k.src + off) (min 256 (k.bytes - off)))

/-- MAX, ISUM and REDUCE_SCATTER: every piece goes to its owner. -/
def Dev.reduceStart (d : Dev) (c n : Nat) (k : CDesc) : Dev :=
  (d.srcPieces k).foldl (fun (d : Dev) (x : Nat × Nat × List Byte) =>
    let o := d.ownerOf k x.1
    if o = d.ownOrd k then d.applyVal c n k x.1 x.2.1 x.2.2
    else d.collSend (d.msgTo k c n (if k.op = opMax then 4 else 5) o x.1 x.2.1 0 x.2.2)) d

/-- ALLGATHER, BROADCAST and PERMUTE: src goes to the named contributors. -/
def Dev.putStart (d : Dev) (c n : Nat) (k : CDesc) (dsts : List Nat) : Dev :=
  let me := d.ownOrd k
  (d.srcPieces k).foldl (fun (d : Dev) (x : Nat × Nat × List Byte) =>
    dsts.foldl (fun d o =>
      if o = me then d.applyVput c n k me (256 * k.eb * x.1 + 256 * x.2.1) x.2.2
      else d.collSend (d.msgTo k c n 6 o x.1 x.2.1 0 x.2.2)) d) d

/-- ALLGATHER: the slots of masked ordinals are written with zeros. -/
def Dev.zeroSlots (d : Dev) (c n : Nat) (k : CDesc) : Dev :=
  ((List.range (d.groupN k)).filter fun o => !d.isLive k o).foldl (fun d o =>
    (d.modLive c n fun r => r.write (o * k.bytes) k.bytes).collWrite c n (hbmOff k.dst + o * k.bytes)
      (List.replicate k.bytes 0)) d

def Dev.collIssue (d : Dev) (c n : Nat) (k : CDesc) : Dev :=
  match k.op with
  | 0 => d.isobarStart c n k
  | 4 => (d.zeroSlots c n k).putStart c n k (d.liveOrds k)
  | 5 => if k.root = d.ownOrd k then d.putStart c n k (d.liveOrds k) else d
  | 6 => d.putStart c n k [d.permTarget k (d.ownOrd k)]
  | _ => d.reduceStart c n k

/-- An operation of the unit's own channel has not been applied yet. -/
def Dev.collBusy (d : Dev) (c : Nat) : Bool := d.syncs.any fun f => f.chan = .coll c

def Dev.collSync (d : Dev) (c obj : Nat) (v : Word) : Dev :=
  d.sendItem c { chan := .coll c, core := c, what := .add obj v none }

/-- The conditions of R467. -/
def Dev.collReady (d : Dev) (c n : Nat) : Bool :=
  let k := d.cdesc c n
  let st := (d.collRun c n).state
  k.valid && (st = .idle || st = .done) && k.readyTarget.toNat ≤ (d.objVal c k.readyObj).toNat && !d.collBusy c &&
    (d.exchangeOpen || (!d.fc.armed && bit (d.preg (.coll c) 0x80) 0)) && d.pageOn (.coll c) && !d.isFenced (.core c)

/-- COLL_START: the flags of the last run clear and the ordinal and live rank are taken, whether the checks then pass or not. -/
def Dev.collStart (d : Dev) (c n : Nat) : Dev :=
  if !d.collReady c n then d else
  let k := d.cdesc c n
  let d := d.collSync c k.readyObj (0 - k.readyTarget)
  let code := d.collCode k
  let code := if (code = 0 || 6 < code) && d.collResidual c k then 6 else code
  let me := d.ownOrd k
  let rank := ((List.range me).filter fun o => d.isLive k o).length
  let d := d.modColl c n fun r => { r with sat := false, nonfinite := false, ord := me, lrank := rank }
  if code ≠ 0 then
    (d.modColl c n fun r => { r with state := .refused, code := code }).setPreg (.coll c) 0x88 (packFields 32 [(0, n), (8, code)])
  else
    let d := d.modColl c n fun r => { r with state := .running, code := 0, copied := false }
    let d := (d.collIssue c n k).modLive c n fun r => { r with issued := true }
    if k.op = opPerm then d.permCopy c n k else d

/-! ### Completion (R471) -/

/-- Every byte that the descriptor writes to its own dst has been written. -/
def Dev.collWritten (d : Dev) (k : CDesc) (r : CollRun) : Bool :=
  if k.op = opPerm then r.copied
  else if k.op = opScatter then
    (List.range k.nblk).all fun b => d.ownerOf k b ≠ d.ownOrd k || r.covers (256 * k.eb * b) (min (256 * k.eb) (k.bytes - 256 * k.eb * b))
  else r.covers 0 (d.dstSize k)

/-- A COLL packet or a mirrored write of the descriptor is outstanding. -/
def Dev.collOutstanding (d : Dev) (c n : Nat) : Bool :=
  d.outReqs.any (fun r => match r.issuer with
    | .coll c' n' => c' == c && n' == n
    | .mirror _ (.coll c' n') => c' == c && n' == n
    | _ => false) || d.collQ.any fun m => m.core == c && m.d == n

/-- COLL_COMPLETE: DONE, the completion signal, and the journal's record of an ISOBAR completion (R501). -/
def Dev.collComplete (d : Dev) (c n : Nat) : Dev :=
  let k := d.cdesc c n
  let r := d.collRun c n
  if r.state ≠ .running || !r.issued || !d.collWritten k r || d.collOutstanding c n then d else
  let r' := if k.op = opPerm then r else r.used
  let d := (d.setColl c n { r' with state := .done, issued := false, copied := false, ports := [] }).bump (.coll c) 0xB0 1
  let d := if k.op = opIsobar then
      let x : IsoDone := { lcore := d.logOf c, d := n, ord := d.rsl.isos.length, n := d.groupN k, live := k.live
                           mask := d.hbm.readBytes (hbmOff k.work) ((d.groupN k + 7) / 8), sat := r.sat }
      { d with rsl := { d.rsl with isos := d.rsl.isos ++ [x] } }
    else d
  if k.doneEn then d.collSync c k.doneObj k.doneVal else d

end Sys2Proof.Machine
end

