-- ==== Sys2Proof/Machine/Commit.lean ====
section
/-! DEFINITION. The step commit (01 R30, 17 R499 to R508, 19 R529 to R550, 07 R202 to R214, 10 R305, 23 R651 to R656):
fingerprint posts, the journal and keystone records, the commit's effect, bundles, and reruns. -/

namespace Sys2Proof.Machine

/-! ### Fingerprint posts (R504 to R506) -/

def fgpAddr (i : Nat) : Nat := 0x7000 + 16 * i
def Dev.fgpL (d : Dev) (i : Nat) : Nat := (d.rd (fgpAddr i + 4)).toNat
def Dev.fgpLast (d : Dev) (i : Nat) : Nat := (d.rd (fgpAddr i + 8)).toNat
def Dev.fgpParts (d : Dev) (i : Nat) : Nat := max 1 (fld (d.rd (fgpAddr i)) 8 24)
def Dev.fgpValid (d : Dev) (i : Nat) : Bool :=
  bit (d.rd (fgpAddr i)) 0 && d.fgpL i ≠ 0 && d.fgpLast i ≠ 0 && d.fgpLast i ≤ d.fgpL i

/-- Valid entries in ascending order. -/
def Dev.fgpEntries (d : Dev) : List Nat := (List.range 256).filter d.fgpValid

def pieceKey (parity : Bool) (i j : Nat) : Nat := (256 * b2n parity + i) * 2 ^ 24 + j

/-- A 32-bit counter of the telemetry page. -/
def Dev.bumpTel (d : Dev) (off : Nat) : Dev := d.setPreg .tel off (satAdd (d.preg .tel off) 1)

/-- A piece of an entry (R506). -/
def Dev.postPiece (d : Dev) (p : Post) (i j : Nat) : Dev :=
  let k := pieceKey p.parity i j
  match d.rsl.pieces.get? k with
  | none => { d with rsl := { d.rsl with pieces := d.rsl.pieces.set k p.value, pieceBy := d.rsl.pieceBy.set k p.tile } }
  | some v =>
    if v = p.value then d else
    let c := 256 * b2n p.parity + i
    let first := !d.rsl.conflicts.any fun x => x / 256 == b2n p.parity
    let other := d.rsl.pieceBy.getD k p.tile
    let l := if d.rsl.conflicts.contains c then d.rsl.conflicts else d.rsl.conflicts ++ [c]
    let d := ({ d with rsl := { d.rsl with conflicts := l } }).bumpTel 0x328
    if first then (d.markSuspect (.tile other) 1 0).markSuspect (.tile p.tile) 1 0 else d

/-- FINGERPRINT_POST: post i reaches the aggregator; the posts of one tile arrive in order. A scalar record is kept until its step
commits (R166): bits [31:16] of its identity are ignored. -/
def Dev.fingerprintPost (d : Dev) (i : Nat) : Dev :=
  match takeInOrder (fun (p : Post) => p.tile) d.posts i with
  | none => d
  | some (p, rest) =>
    let d := { d with posts := rest }
    if p.kind then { d with rsl := { d.rsl with scalars := d.rsl.scalars ++ [{ p with id := p.id &&& 0xFFFF#32 }] } } else
    let n := fld p.id 0 8
    let j := fld p.id 8 24
    if d.fgpValid n && j < d.fgpParts n then d.postPiece p n j else d.bumpTel 0x324

/-! ### Barometer banks (R208) -/

def bankKey (parity : Bool) (c tag fmt : Nat) : Nat := ((8 * b2n parity + c) * 1024 + tag) * 16 + fmt

/-- BAROMETER_FLUSH: flushed line i adds into the bank of its parity. -/
def Dev.barometerFlush (d : Dev) (i : Nat) : Dev :=
  match d.baroFly[i]? with
  | none => d
  | some (c, l) =>
    let k := bankKey l.parity c l.tag l.fmt
    let b := d.rsl.baro.getD k BaroSum.reset
    let b : BaroSum := { conv := b.conv + l.conv, van := b.van + l.van, cla := b.cla + l.cla, sub := b.sub + l.sub }
    { d with baroFly := d.baroFly.take i ++ d.baroFly.drop (i + 1), rsl := { d.rsl with baro := d.rsl.baro.set k b } }

/-- The lines of a parity leave every conversion unit. -/
def Dev.flushLines (d : Dev) (par : Bool) : Dev :=
  let hit (l : BaroLine) : Bool := l.parity == par
  let ofTiles := d.tiles.cells.flatMap fun x => (x.2.baro.filter hit).map fun l => (tileCore x.1, l)
  let ofUnits := d.unitBaro.cells.flatMap fun x => (x.2.filter hit).map fun l => (x.1 % 8, l)
  (ofTiles ++ ofUnits).foldl (fun d x => d.flyBaro x.1 [x.2])
    { d with
      tiles := d.tiles.mapVals fun _ t => { t with baro := t.baro.filter fun l => !hit l }
      unitBaro := d.unitBaro.mapVals fun _ ls => ls.filter fun l => !hit l }

/-- What R214 discards of a core: its Barometer lines, banks and ratio accumulators. -/
def Dev.discardCounts (d : Dev) (c : Nat) : Dev :=
  { d with
    tiles := d.tiles.mapVals fun t x => if tileCore t = c then { x with baro := [], ratio := ⟨[]⟩ } else x
    unitBaro := (d.unitBaro.erase c).erase (8 + c)
    baroFly := d.baroFly.filter fun x => x.1 != c
    rsl := { d.rsl with baro := d.rsl.baro.keep fun k _ => k / 16384 % 8 != c } }

/-- A write of DZ_STEP discards the core's counts (R214), and with them what else the core's tiles and unit have gathered for the abandoned
step: posts, fingerprint pieces, scalar records and Isobar completions (R30, R501, R536). At logical core 0, whose DZ_STEP is the
step's number, the counts of its journal restart too (DEDUCED, log entry 35). -/
def Dev.discardStep (d : Dev) (c : Nat) : Dev :=
  let keeps (t : Nat) : Bool := tileCore t ≠ c
  let d := d.discardCounts c
  let r := d.rsl
  let by_ := r.pieceBy.keep fun _ t => keeps t
  let left (x : Nat) : Bool := by_.cells.any fun k => k.1 / 2 ^ 24 == x
  let r := { r with
    scalars := r.scalars.filter fun p => keeps p.tile, pieceBy := by_
    pieces := r.pieces.keep fun k _ => (by_.get? k).isSome, conflicts := r.conflicts.filter left
    isos := r.isos.filter fun x => d.corePhys x.lcore ≠ c }
  { d with
    posts := d.posts.filter fun p => keeps p.tile
    rsl := if c = d.corePhys 0 then
        { r with started := false, forced := false, hostOps := 0, slips := 0, slipCause := ⟨[]⟩, nextForced := false, nextSlips := 0, nextCause := ⟨[]⟩ }
      else r }

/-! ### The commit begins (R30, R529) -/

def Dev.dzStep (d : Dev) : Word := d.preg (.num (d.corePhys 0)) 0x88

/-- COMMIT_BEGIN: telemetry of the step's parity is flushed, the ratio accumulators close, and every bound tile sends its drain marker on
VC3 (R505). -/
def Dev.commitBegin (d : Dev) : Dev :=
  if !d.commitDue then d else
  let s := d.dzStep
  let seen := d.fc.armed && d.fc.begun
  let d := d.flushLines (bit s 0)
  let d := { d with tiles := d.tiles.mapVals fun _ t =>
    { t with ratio := t.ratio.mapVals fun _ r => if r.count = 0 then r else { r with closed := true } } }
  let d := d.injectEach 3 ((d.boundCores.flatMap d.boundTiles).map tileCore)
  { d with rsl := { d.rsl with phase := .drain, step := s, placed := [], originSeen := seen } }

/-! ### Fingerprints, journal and keystone (R500 to R507, R547) -/

/-- The digest of entry i from the pieces of the closing bank; none where a piece is missing. -/
def Dev.fgpDigest (d : Dev) (par : Bool) (i : Nat) : Option DWord :=
  let p := d.fgpParts i
  (List.range p).foldl (fun acc j =>
    match acc, d.rsl.pieces.get? (pieceKey par i j) with
    | some x, some v => some (crc64 x (List.replicate (if j + 1 = p then d.fgpLast i else d.fgpL i) 0) ^^^ v)
    | _, _ => none) (some 0)

/-- (entry, flags, digest) of every valid entry: bit 0 incomplete, bit 1 conflicted. -/
def Dev.fgpResults (d : Dev) (par : Bool) : List (Nat × Nat × DWord) :=
  d.fgpEntries.map fun i =>
    let con := d.rsl.conflicts.contains (256 * b2n par + i)
    match d.fgpDigest par i with
    | some x => (i, 2 * b2n con, if con then 0 else x)
    | none => (i, 1 + 2 * b2n con, 0)

def dwordBytes (x : DWord) : List Byte := bytesLE 8 x.toNat
def wordBytes (x : Word) : List Byte := bytesLE 4 x.toNat

/-- step_digest (R506). -/
def stepDigest (fs : List (Nat × Nat × DWord)) : DWord := crc64 0 (fs.flatMap fun f => dwordBytes f.2.2)

/-- ISOBAR completions in the order of R501. -/
def Dev.isoOrder (d : Dev) : List IsoDone :=
  (List.range 512).flatMap fun k => d.rsl.isos.filter fun x => x.lcore * 64 + x.d == k

/-- Ordinals below N whose mask bit is 0. -/
def IsoDone.masked (x : IsoDone) : List Nat :=
  (List.range x.n).filter fun o => !bit (x.mask.getD (o / 8) 0) (o % 8)

def maskDigest (xs : List IsoDone) : DWord :=
  crc64 0 (xs.flatMap fun x => bytesLE 4 x.n ++ bytesLE 4 x.live ++
    (List.range ((x.n + 7) / 8)).map fun i => x.mask.getD i 0)

/-- The breaks field (R494, R500). -/
def Dev.breaks (d : Dev) (longRed : Bool) (fs : List (Nat × Nat × DWord)) (gone : Nat) : Nat :=
  let sat (c : Ctx) : Bool := (c.fpstat &&& flagSat) != 0
  b2n (d.tiles.cells.any fun x => sat x.2.fg || sat x.2.bg) + 2 * b2n (d.rsl.isos.any fun x => x.sat) + 4 * b2n longRed +
    8 * b2n d.rsl.forced + 16 * b2n (d.rsl.hostOps != 0) + 32 * b2n (fs.any fun f => f.2.1 % 2 == 1) +
    64 * b2n (fs.any fun f => f.2.1 / 2 == 1) + 128 * b2n (decide (16 < gone))

/-- Bytes followed by their CRC-64 (R155). -/
def withCrc (bs : List Byte) : List Byte := bs ++ dwordBytes (crc64 0 bs)

/-- The 4 KiB keystone state (R547). -/
def Dev.keystoneBytes (d : Dev) : List Byte :=
  let c := d.corePhys 0
  let num (o : Nat) : Word := d.preg (.num c) o
  let t := d.tile (d.tileOf d.mapCore 0 0 0)
  let scal := (joinWords (d.preg .rsl 0x94) (d.preg .rsl 0x90)).toNat % 2 ^ 46
  withCrc (bytesLE 2 1 ++ bytesLE 2 d.position ++ bytesLE 2 (fld (num 0x8C) 0 16) ++ bytesLE 2 0 ++ wordBytes d.rsl.step ++
    bytesLE 4 0 ++ wordBytes (num 0x80) ++ wordBytes (num 0x84) ++ wordBytes (d.preg .tel 0x300) ++ wordBytes (d.preg .tel 0x304) ++
    (List.range 256).map (fun l => t.layer.getD l 0) ++ d.hbm.readBytes scal 3800)

/-- The 256-byte journal record (R500). -/
def Dev.journalBytes (d : Dev) (longRed : Bool) (fs : List (Nat × Nat × DWord)) (key : List Byte) : List Byte :=
  let num (o : Nat) : Word := d.preg (.num (d.corePhys 0)) o
  let tel (o : Nat) : List Byte := wordBytes (d.preg .tel o) ++ wordBytes (d.preg .tel (o + 4))
  let xs := d.isoOrder
  let (n, gone) := match xs.find? fun x => x.live < x.n with
    | some x => (x.n - x.live, x.masked)
    | none => (0, [])
  let done := fs.filter fun f => f.2.1 == 0
  withCrc (bytesLE 2 1 ++ bytesLE 1 (fld (d.preg (.tile (d.tileOf d.mapCore 0 0 0)) 0xA0) 0 1) ++ bytesLE 1 d.mc.profile ++
    wordBytes d.rsl.step ++ wordBytes (num 0x80) ++ wordBytes (num 0x84) ++ bytesLE 2 d.position ++
    bytesLE 2 (fld (num 0x8C) 0 16) ++ bytesLE 2 d.epoch ++ bytesLE 1 d.rsl.reruns ++
    bytesLE 1 (popCount d.fuses.coreMask + 16 * b2n d.fuses.b0) ++ wordBytes (d.rsl.placedIn + 1) ++ wordBytes d.rsl.slips ++
    ((List.range 8).flatMap fun c => bytesLE 2 (min 0xFFFF (d.rsl.slipCause.getD c 0))) ++ tel 0x300 ++ tel 0x308 ++ tel 0x310 ++
    bytesLE 4 xs.length ++ bytesLE 4 n ++
    ((List.range 16).flatMap fun k => match gone[k]? with
      | some o => bytesLE 4 (2 ^ 31 + o)
      | none => bytesLE 4 0) ++
    dwordBytes (maskDigest xs) ++ dwordBytes (stepDigest fs) ++ bytesLE 2 fs.length ++ bytesLE 2 done.length ++
    bytesLE 4 (d.breaks longRed fs gone.length) ++ wordBytes d.rsl.hostOps ++ dwordBytes (crc64 0 key) ++ List.replicate 68 0)

/-! ### Keystone writes (R548, R549) -/

/-- Writes the keystone to the targets of a mask: bit 0 buddy, 1 MC, 2 host. Answers to an earlier attempt at the buddy no longer count. -/
def Dev.ksSend (d : Dev) (targets : BitVec 3) : Dev :=
  let d := if bit targets 0 then
      ({ d with outReqs := d.outReqs.map fun (r : OutReq) => if r.isKey then { r with issuer := .keystone false } else r
                rsl := { d.rsl with keyErr := false, keyWait := true } }).keyNext
    else d
  let d := if bit targets 1 then
      { d with mc := { d.mc with keystone := d.mc.keystone.set (fld d.rsl.step 0 1) d.rsl.key } } else d
  if bit targets 2 then d.emit (.hostWrite (d.keySlot 0xA0) d.rsl.key) else d

/-- R30 item 4: the keystone leaves for its three targets, while the resilience page is on. -/
def Dev.ksStart (d : Dev) : Dev :=
  if !d.pageOn .rsl || d.rsl.phase ≠ .journal then d else
  let d := { d with rsl := { d.rsl with phase := .key, acked := 0, failed := 0, keyHeld := false } }
  d.ksSend 7

/-- FGP_DRAIN_DONE: every tile's drain marker has come, so no post of the step is on its way. The bank closes, and the
digests, the keystone and the journal record are made. `longRed` is the long-reduction mark of the loaded header (R494). -/
def Dev.fgpDrainDone (d : Dev) (longRed : Bool) : Dev :=
  let par := bit d.rsl.step 0
  if d.rsl.phase ≠ .drain || !d.pageOn .tel || d.posts.any (fun p => p.parity == par) then d else
  let fs := d.fgpResults par
  let key := d.keystoneBytes
  let j := d.journalBytes longRed fs key
  let dig := stepDigest fs
  let here (k : Nat) : Bool := k / 2 ^ 32 == b2n par
  let r := { d.rsl with
    phase := .journal, journal := j, fps := fs, key := key, complete := (fs.filter fun f => f.2.1 == 0).length
    pieces := d.rsl.pieces.keep fun k _ => !here k, pieceBy := d.rsl.pieceBy.keep fun k _ => !here k
    conflicts := d.rsl.conflicts.filter fun c => c / 256 != b2n par
    slips := d.rsl.nextSlips, slipCause := d.rsl.nextCause, hostOps := 0, forced := d.rsl.nextForced, isos := []
    nextForced := false, nextSlips := 0, nextCause := ⟨[]⟩, closed := some d.rsl.placedIn }
  let mc := { d.mc with journal := (d.mc.journal ++ [j]).drop (d.mc.journal.length + 1 - 64) }
  let d := { d with rsl := r, mc := mc }
  ((((d.setPreg .tel 0x318 r.step).setPreg .tel 0x330 (loWord dig)).setPreg .tel 0x334 (hiWord dig))).ksStart

/-- KEYSTONE_ACK: target 0 buddy, when every packet has been acknowledged; 1 the MC; 2 the host. -/
def Dev.keystoneAck (d : Dev) (target : Nat) : Dev :=
  if d.rsl.phase ≠ .key || bit d.rsl.acked target then d
  else if target = 0 && (d.rsl.keyErr || d.rsl.keyWait || d.outReqs.any OutReq.isKey) then d
  else
    let failed := setBit d.rsl.failed target false
    { d with rsl := { d.rsl with acked := setBit d.rsl.acked target true, failed := failed, keyHeld := failed != 0 } }

/-- KEYSTONE_TIMEOUT: a target has not acknowledged within KS_TIMEOUT; the commit is held. -/
def Dev.keystoneTimeout (d : Dev) (target : Nat) : Dev :=
  if d.rsl.phase ≠ .key || bit d.rsl.acked target || bit d.rsl.failed target then d else
  ({ d with rsl := { d.rsl with failed := setBit d.rsl.failed target true, keyHeld := true } }).raise .rsl 2

/-- KS_CMD.retry: only the failed targets are rewritten. -/
def Dev.ksRetry (d : Dev) (w : Word) : Dev :=
  if !d.pageAnswers .rsl || !bit w 0 || d.rsl.phase ≠ .key || !d.pageOn .rsl then d else
  let t := d.rsl.failed
  ({ d with rsl := { d.rsl with failed := 0, keyHeld := false } }).ksSend t

/-! ### The records of a step (R204, R211, R305, R507, R652, R653) -/

/-- Inserts by key, ascending. -/
def insertBy {α : Type} (key : α → Nat) (x : α) : List α → List α
  | [] => [x]
  | y :: r => if key x ≤ key y then x :: y :: r else y :: insertBy key x r

def sortBy {α : Type} (key : α → Nat) (l : List α) : List α := l.foldr (insertBy key) []

/-- The fingerprint record of an entry. -/
def fpRecord (step : Word) (f : Nat × Nat × DWord) : List Byte :=
  wordBytes step ++ bytesLE 1 f.1 ++ bytesLE 1 f.2.1 ++ bytesLE 2 0 ++ dwordBytes f.2.2

/-- The tiles of the image in the order of R202: logical core, row, logical position. -/
def Dev.logicalTiles (d : Dev) : List Nat :=
  d.boundCores.flatMap fun l => (List.range 192).map fun k => d.tileOf d.mapCore l (k / 16) (k % 16)

/-- round(sqrt(round(u2 / w2))), +0 when both sums are zero (R203). -/
def ratioOf (u2 w2 : Word) : Word :=
  if (fp32 u2).isZero && (fp32 w2).isZero then 0 else fp32Sqrt (fp32Arith ((fp32 u2).div (fp32 w2)) []).1

/-- The ratio record of a layer: the tiles' sums added one by one into +0.0 (R202, R204). -/
def ratioRecord (step : Word) (layer : Nat) (rs : List Ratio) : List Byte :=
  let u2 := rs.foldl (fun a r => (fp32Add a r.u2).1) 0
  let w2 := rs.foldl (fun a r => (fp32Add a r.w2).1) 0
  let n := rs.foldl (fun a r => a + r.count.toNat) 0
  let bad (x : Word) : Bool := fld x 23 8 == 255
  wordBytes step ++ bytesLE 1 layer ++ bytesLE 1 (b2n (bad u2 || bad w2)) ++ bytesLE 2 0 ++ bytesLE 8 n ++ wordBytes u2 ++
    wordBytes w2 ++ wordBytes (ratioOf u2 w2) ++ bytesLE 4 0

/-- The ratio records of the step, in ascending layer; a core whose numerics page is off delivers nothing (R212). -/
def Dev.ratioRecords (d : Dev) (step : Word) : List (List Byte) :=
  let tiles := (d.logicalTiles.filter fun t => d.pageOn (.num (tileCore t))).map d.tile
  (List.range 256).filterMap fun l =>
    let rs := tiles.map fun t => t.ratio.getD l Ratio.reset
    if rs.any fun r => r.count != 0 then some (ratioRecord step l rs) else none

/-- The Barometer records of the step's bank: logical core, tag, format. -/
def Dev.baroRecords (d : Dev) (step : Word) : List (List Byte) :=
  (d.boundCores.filter fun l => d.pageOn (.num (d.corePhys l))).flatMap fun l =>
    let c := d.corePhys l
    let base := bankKey (bit step 0) c 0 0
    (d.rsl.baro.cells.filter fun x => base ≤ x.1 && x.1 < base + 16384 && x.2.conv ≠ 0).map fun x =>
      let tag := (x.1 - base) / 16
      wordBytes step ++ bytesLE 2 tag ++ bytesLE 1 l ++ bytesLE 1 (x.1 % 16) ++
        wordBytes (d.rd (coreBase c + 0x6000 + 8 * tag)) ++ bytesLE 4 0 ++ bytesLE 8 x.2.conv ++ bytesLE 8 x.2.van ++
        bytesLE 8 x.2.cla ++ bytesLE 8 x.2.sub

/-- The channel records: sender identity, then destination. -/
def chanRecords (step : Word) (ts : List ChanTotal) : List (List Byte) :=
  (sortBy (fun (t : ChanTotal) => t.sender * 65536 + t.dest)
    (ts.filter fun t => t.msgs ≠ 0 || t.stall ≠ 0 || t.spills ≠ 0)).map fun t =>
      wordBytes step ++ bytesLE 2 t.sender ++ bytesLE 2 t.dest ++ bytesLE 8 t.msgs ++ bytesLE 8 t.stall ++ bytesLE 4 t.spills ++
        bytesLE 4 0

/-- Every channel line, those on their way too, enters the totals (R305). -/
def Dev.flushChannels (d : Dev) : Dev :=
  let ls := (d.tiles.cells.flatMap fun x => x.2.chan.map fun l => (tileCore x.1, l)) ++
    d.chanUnit.cells.flatMap fun x => x.2.map fun l => (x.1, l)
  ({ d with chanTotal := (d.chanFly ++ ls.map Prod.snd).foldl addChan d.chanTotal, chanFly := [], chanUnit := ⟨[]⟩
            tiles := d.tiles.mapVals fun _ t => { t with chan := [] } }).injectEach 3 (ls.map Prod.fst)

/-- A bundle's header with phase 0 (R652). -/
def bundleHeader (step : Word) (len kind : Nat) (counts : List Nat) : List Byte :=
  bytesLE 4 0x51444C56 ++ wordBytes step ++ bytesLE 4 len ++ bytesLE 1 kind ++ bytesLE 3 0 ++
    ((List.range 5).flatMap fun i => bytesLE 4 (counts.getD i 0)) ++ List.replicate 28 0

/-- The scalar records of the step (R166). R652 and R653 give them no place: they follow the channel records, 16 bytes each (step,
identity, value) in order of arrival (DESIGN CHOICE, log entry 35). -/
def scalarRecords (step : Word) (ps : List Post) : List Byte :=
  ps.flatMap fun p => wordBytes step ++ wordBytes p.id ++ dwordBytes p.value

/-- What the commit forms of the step's bundle. -/
def Dev.newBundle (d : Dev) : HeldBundle :=
  let s := d.rsl.step
  let fps := d.rsl.fps.map (fpRecord s)
  let rts := d.ratioRecords s
  let chs := chanRecords s d.chanTotal
  { step := s, fore := d.rsl.journal ++ fps.flatten ++ rts.flatten, nFps := fps.length, nRatios := rts.length
    chans := chs.flatten, nChans := chs.length
    scalars := scalarRecords s (d.rsl.scalars.filter fun p => p.parity == bit s 0) }

/-- The bytes of a bundle that is delivered now: the Barometer records come from the bank as it stands, with the tags' tensor ids of
this moment (R208, R211). -/
def Dev.bundle (d : Dev) (h : HeldBundle) : List Byte :=
  let bar := d.baroRecords h.step
  let body := h.fore ++ bar.flatten ++ h.chans ++ h.scalars
  let len := (64 + body.length + 63) / 64 * 64
  bundleHeader h.step len 0 [1, h.nFps, h.nRatios, bar.length, h.nChans] ++ body ++ List.replicate (len - 64 - body.length) 0

/-- The bank of a step is cleared once it has been delivered or discarded (R208, R656). -/
def Dev.clearBank (d : Dev) (step : Word) : Dev :=
  { d with rsl := { d.rsl with baro := d.rsl.baro.keep fun k _ => !(k / 131072 == b2n (bit step 0)) } }

/-! ### Delivery (R651 to R656) -/

def Dev.dlvSize (d : Dev) : Nat := let n := fld (d.preg .hif 0x98) 0 6; 2 ^ (if 24 ≤ n && n ≤ 32 then n else 24)

/-- Whether a bundle of n bytes fits now: none, some false at the tail, some true after a pad. -/
def Dev.dlvFits (d : Dev) (n : Nat) : Option Bool :=
  let s := d.dlvSize
  let t := d.hif.dlvTail
  let h := (d.preg .hif 0x9C).toNat / 64 * 64
  let used := (t + s - h % s) % s
  let e := s - t
  if !d.pageOn .hif || !bit (d.preg .hif 0x80) 1 then none
  else if n ≤ e then if used + n ≤ s - 64 then some false else none
  else if used + e + n ≤ s - 64 then some true else none

/-- Writes a header, its phase byte last. -/
def Dev.dlvHeader (d : Dev) (a : Nat) (bs : List Byte) : Dev :=
  (d.emit (.hostWrite a (bs.take 63))).emit (.hostWrite (a + 63) [BitVec.ofNat 8 (b2n d.hif.dlvPhase)])

/-- Writes a bundle at the tail and advances it. -/
def Dev.dlvWrite (d : Dev) (bs : List Byte) : Dev :=
  let base := (joinWords (d.preg .hif 0x94) (d.preg .hif 0x90)).toNat
  let a := base + d.hif.dlvTail
  let d := (d.emit (.hostWrite (a + 64) (bs.drop 64))).dlvHeader a bs
  let t := (d.hif.dlvTail + bs.length) % d.dlvSize
  let d := { d with hif := { d.hif with dlvTail := t, dlvPhase := if t = 0 then !d.hif.dlvPhase else d.hif.dlvPhase } }
  (d.hifEvent 0).bump .hif 0xD0 1

/-- A pad header fills the ring to its end; the phase inverts. -/
def Dev.dlvPad (d : Dev) (step : Word) : Dev :=
  let a := (joinWords (d.preg .hif 0x94) (d.preg .hif 0x90)).toNat + d.hif.dlvTail
  let d := d.dlvHeader a (bundleHeader step (d.dlvSize - d.hif.dlvTail) 1 [])
  { d with hif := { d.hif with dlvTail := 0, dlvPhase := !d.hif.dlvPhase } }

/-- The oldest bundle is held: it does not fit or finds delivery off, and is not discarded (R655, R656). -/
def Dev.bundleHeld (d : Dev) : Bool :=
  match d.hif.held with
  | [] => false
  | h :: _ => (d.dlvFits (d.bundle h).length).isNone && !bit (d.preg .hif 0x80) 2

/-- STEP_BUNDLE_DELIVER: the held bundle is written when it fits, or discarded while dlv_discard is 1; else it is held, and
HIF_EVT_STAT shows it. -/
def Dev.stepBundleDeliver (d : Dev) : Dev :=
  match d.hif.held with
  | [] => d
  | h :: rest =>
    let b := d.bundle h
    let gone (d : Dev) : Dev := ({ d with hif := { d.hif with held := rest, heldReported := false } }).clearBank h.step
    match d.dlvFits b.length with
    | some pad => (gone (if pad then d.dlvPad h.step else d)).dlvWrite b
    | none => if bit (d.preg .hif 0x80) 2 then (gone d).bump .hif 0xD8 1 else d.hifEvent 3

/-- DLV_HELD: a bundle has been held for more than 1 ms. -/
def Dev.dlvHeld (d : Dev) : Dev :=
  if !d.bundleHeld || d.hif.heldReported then d
  else ({ d with hif := { d.hif with heldReported := true } }).raise .hif 2

/-! ### The commit takes effect (R30, R208, R209, R544, R580) -/

/-- Tiles of a SUSPECT unit, and at the interval every bound tile (R580). -/
def Dev.checkTiles (d : Dev) (step : Word) : List Nat :=
  let every := fld (d.preg .flt 0xA4) 0 16
  let all := every ≠ 0 && step.toNat % every = 0
  let bound := if all then d.boundCores.flatMap d.boundTiles else []
  let sus (u : FUnit) : Bool := d.flt.health.getD u.code 0 == 1
  (List.range 1632).filter fun t =>
    bound.contains t || (!d.isSpare t && (sus (.tile t) || sus (.core (tileCore t))))

/-- The snapshot of the committed step starts (R544). -/
def Dev.snapStart (d : Dev) (step : Word) : Dev :=
  let s := (d.preg .rsl 0xC0).toNat
  if !d.pageOn .rsl || s = 0 || step.toNat % s ≠ 0 then d else
  ({ d with rsl := { d.rsl with snap := some { step := step, image := d.hbm, entry := 0, off := 0 }, snapFailed := false } }).snapNext

/-- COMMIT_EFFECT: the three keystone copies are acknowledged, the previous snapshot and bundle are done, and every
flushed line has reached its bank; the bank of the step before is cleared (R208). -/
def Dev.commitEffect (d : Dev) : Dev :=
  let s := d.rsl.step
  let par := bit s 0
  if d.rsl.phase ≠ .key || d.rsl.acked ≠ 7 || !d.pageOn .rsl || d.hif.held ≠ [] || d.rsl.snap.isSome ||
    d.baroFly.any (fun x => x.2.parity == par) then d else
  let d := ((List.range 8).foldl Dev.retClear d).flushChannels
  let b := d.newBundle
  let due := d.checkTiles s
  let d := { d with
    tiles := d.tiles.mapVals fun _ t => { t with ratio := ⟨[]⟩ }
    chanTotal := []
    hif := { d.hif with held := [b], heldReported := false }
    flt := { d.flt with chkDue := due, stained := if due = [] then ⟨[]⟩ else d.flt.stained }
    rsl := { d.rsl with
      phase := .idle, reruns := 0, fps := [], started := d.rsl.originSeen
      scalars := d.rsl.scalars.filter fun p => p.parity != par } }
  let d := (d.setPreg .rsl 0xB4 s).snapStart s
  let d := if d.rsl.originSeen then d.advanceStep else { d with rsl := { d.rsl with stepDue := true } }
  let d := { d with rsl := { d.rsl with originSeen := false } }
  if d.bundleHeld then d.hifEvent 3 else d

/-! ### Reruns (R534) -/

/-- RSL_CMD.rerun. Completions of the abandoned attempt do not enter the step's mask digest (R501); its scalar records, which R534 does
not name, are kept and go out with the step's commit (DESIGN CHOICE, log entry 35). -/
def Dev.rerun (d : Dev) (path : Path) (w : Word) : Dev :=
  if !bit w 0 then d else
  d.guarded path .rsl 0x84 d.allHalted fun d =>
    if 3 ≤ d.rsl.reruns then d.raise .rsl 3 else
    let par := bit d.dzStep 0
    let here (k : Nat) : Bool := k / 2 ^ 32 == b2n par
    { d with
      tiles := d.tiles.mapVals fun _ t => { t with ratio := ⟨[]⟩ }
      rsl := { d.rsl with
        reruns := d.rsl.reruns + 1, placed := [], isos := []
        pieces := d.rsl.pieces.keep (fun k _ => !here k), pieceBy := d.rsl.pieceBy.keep (fun k _ => !here k)
        conflicts := d.rsl.conflicts.filter fun c => c / 256 != b2n par } }

end Sys2Proof.Machine
end

