-- ==== Sys2Proof/Machine/Faults.lean ====
section
/-! DEFINITION. Fault collection, fencing and checkruns (20 R555 to R584): error events and rail faults, dew-point windows,
fence sequences, the commands of FLT_CMD, health states, checkruns, and the MC's reports. -/

namespace Sys2Proof.Machine

/-- The page of a page index (R557). -/
def pageOf (i : Nat) : Option Page :=
  match placeOf (i % 8192 * 0x1000) with
  | .page p _ => some p
  | _ => none

/-! ### Events (R555, R556, R562) -/

/-- FAULT_EVENT: an error that the hardware detects. An instruction memory error is met only by a fetch of the selected context of a
tile that runs, which halts that context, and PROGRAM_TRAP is raised by the trap itself alone (R76, R86); a corrected codeword is counted (R691); a failed command fetch stops the ring `detail`
(R658). -/
def Dev.faultEvent (d : Dev) (index s detail : Nat) : Dev :=
  match pageOf index with
  | none => d
  | some p =>
    if !d.mainUp || d.pageAbsent p || p.nsrc ≤ s then d else
    match p, s with
    | .tile _, 0 => d
    | .tile t, 3 =>
      match (d.tile t).sel with
      | some bg =>
        if d.tileLive t && (d.tile t).switching = 0 && (d.ctx t bg).halting.isNone then (d.stopCtx t bg).raise p s else d
      | none => d
    | .mem n, 0 => (d.bump (.mem n) 0xB0 1).raise p s
    | .hif, 0 => ({ d with hif := { d.hif with rings := d.hif.rings.modify (detail % 64) Ring.reset fun r =>
        { r with fetchErr := true } } }).raise p s
    | _, _ => d.raise p s

/-- RAIL: a RAIL condition on the rails of source s of a page. Its onset raises the collector's source RAIL once, acted on as a
source of that page; while it lasts the source's own events are not counted (R555, R556). -/
def Dev.rail (d : Dev) (index s : Nat) : Dev :=
  match pageOf index with
  | none => d
  | some p =>
    if !d.mainUp || d.pageAbsent p || p.nsrc ≤ s || d.isRailed p s then d else
    let d := { d with flt := { d.flt with railed := d.flt.railed.set (32 * p.index + s) true } }
    let d := ((d.logSource .flt 0).dewAll .flt 0).1
    let sev := d.actSev .flt 0
    let ident := faultIdent p s sev (d.isSevere .flt 0) true
    let d := { d with flt := { d.flt with railInfo := ident } }
    let (d, more) := d.takeAct p s sev ident
    Dev.raiseList 8 more d

/-- The RAIL condition of source s of a page has ended. -/
def Dev.railEnd (d : Dev) (index s : Nat) : Dev := { d with flt := { d.flt with railed := d.flt.railed.erase (32 * index + s) } }

/-- DEWPOINT_WINDOW_END: the window of register j ends. -/
def Dev.dewEnd (d : Dev) (index j : Nat) : Dev := { d with flt := { d.flt with dew := d.flt.dew.erase (4 * index + j) } }

/-! ### Fences (R567 to R570) -/

/-- Page number of a held fence that no page's source caused. -/
def noPage : Nat := 8192

/-- A FENCE action for a unit that no source of its page caused: a host fence (identity 0), or a failed checkrun. -/
def Dev.fenceUnit (d : Dev) (u : FUnit) (ident : Word) : Dev :=
  if !d.pageOn .flt && d.fenceWay u != .reset then
    { d with flt := { d.flt with held := d.flt.held ++ [{ page := noPage, src := u.code, ident := ident, sev := 2 }] } }
  else match d.fenceWay u with
    | .log => d
    | .merged => d
    | .queued => d.queueFence u ident
    | .full => d.raise .flt 3
    | .reset => d.pkgReset ident

/-- BLK_CTRL.en of the collector page becomes 1: held actions take effect in order (R583), until one of them resets the package and the
page with it. -/
def Dev.fltOn (d : Dev) : Dev :=
  let inc := d.inc
  d.flt.held.foldl (fun d h =>
    if d.inc ≠ inc then d else if h.page = noPage then match FUnit.ofCode h.src with
      | some u => d.fenceUnit u h.ident
      | none => d
    else match pageOf h.page with
      | some p => let (d, more) := d.actOn p h.src h.sev h.ident; Dev.raiseList 8 more d
      | none => d) { d with flt := { d.flt with held := [] } }

/-- FENCE_SEQUENCE: the oldest queued fence becomes active. -/
def Dev.fenceStart (d : Dev) : Dev :=
  match d.flt.active, d.flt.queue with
  | none, q :: r => { d with flt := { d.flt with active := some q, queue := r } }
  | _, _ => d

/-- Both contexts of a tile stop, and none is selected (R59, R567). -/
def Dev.haltTile (d : Dev) (t : Nat) : Dev := ((d.writeRun t false false).writeRun t true false).reselect t

def coreTiles (c : Nat) : List Nat := (List.range 204).map fun i => 204 * c + i

/-- Stages that run and have not been ended abort with FENCED (R274). -/
def Dev.fenceStages (d : Dev) (c : Nat) : Dev :=
  (d.runningCtxs c).foldl (fun d k =>
    match d.stageRun c k with
    | some r => if r.ending.isNone then d.abortChain c k 36 else d
    | none => d) d

/-- Every outstanding segment of a memory port completes with FENCED. -/
def Dev.fenceSegs (d : Dev) (n : Nat) : Dev :=
  let hit := d.segs.filter fun s =>
    (d.memPorts (d.desc s.core s.ctx) (match d.stageRun s.core s.ctx with | some r => parseProg r.prog | none => none)
      s.iter s.off s.src).contains n
  hit.foldl (fun d s => d.segFail s.id 36) d

/-- Segments with a request outstanding on a fabric port fail with FENCED (R274). -/
def Dev.fenceRemote (d : Dev) (p : Nat) : Dev :=
  (d.segs.filter fun s => d.outReqs.any fun r => r.tid / 2048 = p && r.issuer == .stream s.core s.ctx s.id).foldl
    (fun d s => d.segFail s.id 36) d

/-- What a fence sequence does for its unit (R567, R420). -/
def Dev.fenceEffect (d : Dev) (u : FUnit) : Dev :=
  match u with
  | .tile t => d.haltTile t
  | .core c => (((coreTiles c).foldl Dev.haltTile d).fenceStages c).collAbortAll 35 fun k _ => k == c
  | .mem n => (d.fenceSegs n).collAbortAll 35 fun c i => d.collUsesPort c i n
  | .port p =>
    let d := d.fenceRemote p
    let mirrors (c i : Nat) : Bool := d.outReqs.any fun r => r.tid / 2048 == p && match r.issuer with
      | .mirror _ b => b == .coll c i
      | _ => false
    let hit (c i : Nat) : Bool := (d.collRun c i).ports.contains p || mirrors c i
    (((d.collAbortAll 35 hit).failReqs (fun r => r.tid / 2048 == p) 5).fencePort p).drain

/-- The pages of a unit. -/
def FUnit.pages : FUnit → List Page
  | .tile t => [.tile t]
  | .core c => [.core c, .sync c, .stream c, .queue c, .pool c, .num c, .coll c]
  | .mem n => [.mem n]
  | .port p => [.fport p]

/-- A unit is fenced and the MC records it (R587); a message that waits at an ingress of a fenced tile, or of a tile of a fenced core,
is evaluated again, and so discarded (R286, R298). -/
def Dev.fenced (d : Dev) (u : FUnit) (ident : Word) : Dev :=
  let d := { d with flt := { d.flt with fenced := d.flt.fenced.set u.code true } }
  let (d, lost) := d.pushEvent (d.event 0x11 0 0 0 false (bytesLE 2 u.code ++ bytesLE 4 ident.toNat) false)
  let d := if lost then d.raise .evr 1 else d
  match u with
  | .tile t => d.retryBoth t
  | .core c => (d.ingress.cells.map fun x => x.1 / 2).foldl (fun d t => if tileCore t = c then d.retryBoth t else d) d
  | _ => d

/-- FENCE_COMPLETE. -/
def Dev.fenceComplete (d : Dev) : Dev :=
  match d.flt.active with
  | none => d
  | some q =>
    match FUnit.ofCode q.unit with
    | none => { d with flt := { d.flt with active := none } }
    | some u =>
      let d := d.fenceEffect u
      let d := { d with flt := { d.flt with active := none } }
      let d := u.pages.foldl (fun d p => d.setPreg p blkIntStat (setBit (d.preg p blkIntStat) 1 true)) d
      (d.bump .flt 0xB8 1).fenced u q.ident

/-- FENCE_TIMEOUT: the active sequence exceeds its bound (R569). -/
def Dev.fenceTimeout (d : Dev) : Dev := if d.flt.active.isSome then d.raise .flt 1 else d

/-! ### FLT_CMD (R570, R571, R583) -/

def Dev.refuseFlt (d : Dev) : Dev := { d with flt := { d.flt with refused := true } }

/-- The unit of FLT_UNIT. -/
def Dev.fltUnit (d : Dev) : Option FUnit := FUnit.ofCode (fld (d.preg .flt 0x90) 0 13)

/-- The tiles of a unit are halted, no fence of it is active, and a port's train_en is 0. -/
def Dev.unfenceOk (d : Dev) (u : FUnit) : Bool :=
  d.flt.health.getD u.code 0 != 2 && !d.fenceActive u &&
  match u with
  | .tile t => !(d.tile t).fg.run && !(d.tile t).bg.run
  | .core c => d.coreHalted c
  | .mem _ => true
  | .port p => !bit (d.preg (.fport p) 0x80) 0

/-- FLT_CMD.unfence: clears the fence, and records it where there was one. -/
def Dev.unfence (d : Dev) (path : Path) : Dev :=
  match d.fltUnit with
  | none => d.refuseFlt
  | some u =>
    if !d.unfenceOk u then d.refuseFlt
    else if !d.isFenced u then d
    else
      let d := { d with flt := { d.flt with fenced := d.flt.fenced.erase u.code } }
      let (d, lost) := d.pushEvent (d.event 0x12 0 (pathOrigin path) 0 false (bytesLE 2 u.code) false)
      if lost then d.raise .evr 1 else d

/-- FLT_CMD.fence. -/
def Dev.hostFence (d : Dev) : Dev := match d.fltUnit with
  | none => d.refuseFlt
  | some u => d.fenceUnit u 0

/-- FLT_CMD.clr_cnt: the counts of the page that FLT_SEL names. -/
def Dev.clrCnt (d : Dev) : Dev :=
  let i := fld (d.preg .flt 0x98) 0 13
  { d with flt := { d.flt with cnt := d.flt.cnt.keep fun k _ => k / 32 != i } }

/-- A source whose events before stage 2 are failures of the start-up itself: the strap fault of power-up and the recorder's flash. -/
def startFailure (page s : Nat) : Bool := s == 0 && (page == Page.index .pwr || page == Page.index .evr)

/-- The main domain starts with stage 2, at the clock of the profile (R603, R671). Every BAR0 page comes out of reset with its reset
values, but for the sticky bits of start-up's own failures, with their counts and held actions (R571, R675). -/
def Dev.startMain (d : Dev) : Dev :=
  let stickies (o : Nat) : Bool := o == Page.base .pwr + blkSticky || o == Page.base .evr + blkSticky
  let d := { d with
    regs := (d.regs.keep fun o _ => stickies o).mapVals fun _ w => w &&& 1#32
    ctrs := ⟨[]⟩, latch := ⟨[]⟩, heldLo := ⟨[]⟩, softBusy := [], evr := d.evr.pageReset
    flt := { Flt.reset with
      health := d.flt.health, clean := d.flt.clean, fenced := d.flt.fenced, resetId := d.flt.resetId
      cnt := d.flt.cnt.keep fun k _ => startFailure (k / 32) (k % 32)
      held := d.flt.held.filter fun h => startFailure h.page h.src } }
  let clk := min (profileClock d.mc.profile) d.clkCap
  { d with mc := { d.mc with stage := .fuse }, pwr := { d.pwr with level := clk, clk := clk } }

/-- Stage 2 may begin: a verified image runs, PERST_N is high, and nothing holds the main domain. -/
def Dev.mayStart (d : Dev) : Bool :=
  d.mc.booted && d.pins.perstN && !d.mc.railLost && !d.mc.holdAck && !d.mc.thermtrip && d.mc.stage != .recovery

def Dev.tryStart (d : Dev) : Dev := if d.mayStart then d.startMain else d

/-- FLT_CMD.ack_reset: the hold ends, and start-up runs from stage 2 while PERST_N is high (R571, R664, R665). -/
def Dev.ackReset (d : Dev) (path : Path) : Dev :=
  let (d, lost) := d.pushEvent (d.event 0x14 0 (pathOrigin path) 0 false [] false)
  let d := if lost then d.raise .evr 1 else d
  if !d.mc.holdAck then d else
  { d with mc := { d.mc with holdAck := false, stage := if d.mc.stage = Stage.hold then Stage.mcBoot else d.mc.stage } }.tryStart

/-- A write of FLT_CMD: refused clears, then each bit acts. -/
def Dev.fltCmd (d : Dev) (path : Path) (w : Word) : Dev :=
  if !d.pageAnswers .flt then d else
  let d := { d with flt := { d.flt with refused := false } }
  let d := if bit w 0 then d.unfence path else d
  let d := if bit w 1 then d.hostFence else d
  let d := if bit w 2 then d.clrCnt else d
  if bit w 3 then d.ackReset path else d

/-! ### Health and checkruns (R578 to R582) -/

/-- A write of a health register: each field written 01 marks its unit. -/
def Dev.healthWrite (d : Dev) (path : Path) (off : Nat) (w : Word) : Dev :=
  if !d.pageAnswers .flt then d else
  let unit (j : Nat) : Option FUnit :=
    if off = 0x9A0 then if j < 8 then some (.core j) else none
    else if 0x800 ≤ off && off < 0x998 then some (.tile (16 * ((off - 0x800) / 4) + j)) else none
  (List.range 16).foldl (fun d j =>
    match unit j with
    | some u => if fld w (2 * j) 2 = 1 then d.markSuspect u 2 (pathOrigin path) else d
    | none => d) d

/-- A HEALTH record (R587). -/
def Dev.healthRecord (d : Dev) (u : FUnit) (old new reason : Nat) : Dev :=
  let (d, lost) := d.pushEvent (d.event 0x15 0 0 0 false
    (bytesLE 2 u.code ++ bytesLE 1 old ++ bytesLE 1 new ++ bytesLE 1 reason) (decide (new = 2)))
  if lost then d.raise .evr 1 else d

/-- A unit becomes FAILED: recorded, kept in the MC's store. -/
def Dev.setFailed (d : Dev) (u : FUnit) : Dev :=
  let old := d.flt.health.getD u.code 0
  if old = 2 then d else
  let d := { d with
    flt := { d.flt with health := d.flt.health.set u.code 2, clean := d.flt.clean.erase u.code }
    mc := { d.mc with failedStore := if d.mc.failedStore.contains u.code then d.mc.failedStore
                                     else d.mc.failedStore ++ [u.code] } }
  d.healthRecord u old 2 3

/-- A checkrun has failed: the unit is FAILED and is fenced. -/
def Dev.failUnit (d : Dev) (u : FUnit) : Dev :=
  if d.flt.health.getD u.code 0 = 2 then d else
  let d := d.setFailed u
  let e := d.fenceUnit u (faultIdent .flt 5 (d.actSev .flt 5) (d.isSevere .flt 5) false)
  if e.inc ≠ d.inc then e else e.raise .flt 5

/-- One more clean step of a SUSPECT unit, unless the step stained it. -/
def Dev.cleanStep (d : Dev) (u : FUnit) : Dev :=
  if d.flt.health.getD u.code 0 ≠ 1 || d.flt.stained.getD u.code false then d else
  let n := d.flt.clean.getD u.code 0 + 1
  if max 1 (fld (d.preg .flt 0xA8) 0 16) ≤ n then
    ({ d with flt := { d.flt with health := d.flt.health.erase u.code, clean := d.flt.clean.erase u.code } }).healthRecord u 1 0 4
  else { d with flt := { d.flt with clean := d.flt.clean.set u.code n } }

/-- CHECKRUN: the checkruns due after a commit run. The operands are what the hardware does: the tiles whose CRC differs,
those that fail the memory-port part, and what the runs leave in scratchpad bytes 0x3_8000 to 0x4_7FFF of a tile and in
the top 1 MiB of a SUSPECT core's stack. -/
def Dev.checkrun (d : Dev) (fails memFails : List Nat) (left top : List (Nat × List Byte)) : Dev :=
  let due := d.flt.chkDue
  if due = [] then d else
  let sus (c : Nat) : Bool := d.flt.health.getD (FUnit.core c).code 0 == 1
  let bad := due.filter fun t => fails.contains t
  let badMem := due.filter fun t => memFails.contains t && sus (tileCore t)
  let cores := (List.range 8).filter fun c => due.any fun t => tileCore t == c
  let failed := due.filter fun t => bad.contains t || badMem.contains t
  let tops := top.filter fun x => cores.contains x.1 && sus x.1
  let d := (d.bump .flt 0xC8 due.length).bump .flt 0xD0 failed.length
  let d := (left.filter fun x => due.contains x.1).foldl (fun d x =>
    d.modTile x.1 fun t => { t with spad := t.spad.writeBytes 0x38000 (x.2.take 0x10000) }) d
  let d := tops.foldl (fun d x => { d with hbm := d.hbm.writeBytes ((x.1 + 1) * 2 ^ 36 - 2 ^ 20) (x.2.take (2 ^ 20)) }) d
  let d := bad.foldl (fun d t => d.failUnit (.tile t)) d
  let d := (cores.filter fun c => badMem.any fun t => tileCore t == c).foldl (fun d c => d.failUnit (.core c)) d
  let d := due.foldl (fun d t => d.cleanStep (.tile t)) d
  let d := cores.foldl (fun d c => d.cleanStep (.core c)) d
  { d with flt := { d.flt with chkDue := [], stained := ⟨[]⟩ } }

/-! ### Management reports (R576) -/

/-- REPORT_RESEND: 100 ms have passed without a response: sent again, up to two times, then discarded. -/
def Dev.reportResend (d : Dev) (seq : Byte) : Dev :=
  match d.mc.reports.find? fun r => r.seq == seq with
  | none => d
  | some r =>
    if r.resends < 2 then
      let again : Report := { r with resends := r.resends + 1 }
      ({ d with mc := { d.mc with reports := d.mc.reports.map fun (x : Report) => if x.seq = seq then again else x } }).sendReport again
    else
      ({ d with mc := { d.mc with reports := d.mc.reports.filter fun x => x.seq != seq } }).raise .flt 4

/-- REPORT_RESPONSE: the report's place is free. -/
def Dev.reportResponse (d : Dev) (seq : Byte) : Dev :=
  { d with mc := { d.mc with reports := d.mc.reports.filter fun x => x.seq != seq } }

end Sys2Proof.Machine
end

