-- ==== Sys2Proof/Machine/Recorder.lean ====
section
/-! DEFINITION. The event recorder (21 R585 to R598): how the MC writes its records, what it does at boot, the counts, the
clear with its challenge and key, and the ways in which slots are read. -/

namespace Sys2Proof.Machine

def circSlots : Nat := 4224
def erasedSlot : List Byte := List.replicate 64 0xFF#8

/-- The 64 bytes of circular slot n. -/
def Evr.circAt (e : Evr) (n : Nat) : List Byte := e.circ.getD n erasedSlot
/-- The 64 bytes of fixed slot n; slots beyond F255 read FF. -/
def Evr.fixedAt (e : Evr) (n : Nat) : List Byte := e.fixedSlots.getD n erasedSlot

def slotValid (bs : List Byte) : Bool := bs.getD 63 0 == 0x5A#8
def slotErased (bs : List Byte) : Bool := bs.all fun b => b == 0xFF#8
def slotSeq (bs : List Byte) : Nat := (bs.getD 62 0).toNat

/-- The record of an event (R586). -/
def recordBytes (e : EvrEvent) (copied : Bool) (seq : Nat) : List Byte :=
  bytesLE 4 e.minutes.toNat ++ bytesLE 4 e.cycles.toNat ++ bytesLE 2 e.code ++ bytesLE 2 (e.page % 8192 + 8192 * e.origin) ++
    bytesLE 2 (e.sev % 4 + 4 * b2n copied + 8 * b2n e.severe) ++ (e.data ++ List.replicate 48 0).take 48 ++ bytesLE 1 seq ++ [0x5A#8]

/-- An entry of the counter area: the sector in use takes it, or, once that one has filled, the other, which is erased first (R585). How
many entries fill a sector is a free value (Config.counterRoom, log entry 39). -/
def Evr.logEntry (e : Evr) (x : CtrEntry) : Evr :=
  { e with
    oldCounters := if Config.counterRoom ≤ e.counters.length then e.counters else e.oldCounters
    counters := if Config.counterRoom ≤ e.counters.length then [x] else e.counters ++ [x] }

/-- What the counter area holds, oldest first. -/
def Evr.entries (e : Evr) : List CtrEntry := e.oldCounters ++ e.counters

/-- Erases sector k of the circular area, with its entries in the counter area (R590); one that fails its check has no second entry, and
leaves the sector as it is. -/
def Evr.tryErase (e : Evr) (k : Nat) (ok : Bool) : Evr :=
  let e := e.logEntry (.eraseBegin k)
  if ok then { e.logEntry (.eraseDone k) with circ := e.circ.keep fun n _ => n / 64 != k } else e

/-- The erases of several sectors, of which those in `bad` fail. -/
def Evr.tryErases (e : Evr) (ks bad : List Nat) : Evr := ks.foldl (fun e k => e.tryErase k (!bad.contains k)) e

/-- Sequence of the next circular record (R589). -/
def Evr.seq (e : Evr) : Nat := match e.newest with
  | some (_, s) => (s + 1) % 256
  | none => 0

/-- The first erased slot from slot n on, among as many as `fuel`. -/
def Evr.freeFrom (e : Evr) : Nat → Nat → Option Nat
  | 0, _ => none
  | fuel + 1, n => if slotErased (e.circAt n) then some n else e.freeFrom fuel ((n + 1) % circSlots)

/-- The slot that the next record is written into: the one after the newest, or the next erased one behind slots that are not (R590,
R592). -/
def Evr.freeSlot (e : Evr) : Option Nat := e.freeFrom circSlots e.nextSlot

/-- The erase ahead of a write at slot n that is the first into its sector; an erase that fails its check raises EVR_FLASH_FAIL. -/
def Dev.eraseAhead (d : Dev) (n : Nat) (eraseOk : Bool) : Dev :=
  if (d.evr.nextSlot + (circSlots - 1)) % circSlots / 64 = n / 64 then d else
  let d := { d with evr := d.evr.tryErase ((n / 64 + 1) % 66) eraseOk }
  if eraseOk then d else d.raise .evr 0

/-- The fixed-area copy of a record (R587): FIXED_FULL is due, once, when slots F0 to F254 are used. -/
def Dev.fixedCopy (d : Dev) (e : EvrEvent) (bs : List Byte) : Dev :=
  if e.code = 0xF0 then
    if d.evr.fixedFull then d else
    { d with evr := { d.evr with fixedSlots := d.evr.fixedSlots.set 255 bs, fixedFull := true } }
  else if !e.fixed || d.evr.fixedFull then d
  else if d.evr.fixedNext < 255 then
    { d with evr := { d.evr with fixedSlots := d.evr.fixedSlots.set d.evr.fixedNext bs, fixedNext := d.evr.fixedNext + 1 } }
  else if d.evr.queue.any fun x => x.code == 0xF0 then d
  else { d with evr := { d.evr with queue := d.event 0xF0 0 1 0 false (bytesLE 2 e.code) true :: d.evr.queue } }

/-- Whether a fixed copy of an event is written with it. -/
def Evr.copies (e : Evr) (x : EvrEvent) : Bool := !e.fixedFull && (x.code = 0xF0 || (x.fixed && e.fixedNext < 255))

/-- A record stands in slot n. -/
def Dev.recorded (d : Dev) (e : EvrEvent) (n : Nat) : Dev :=
  let q := d.evr.seq
  let bs := recordBytes e (d.evr.copies e) q
  let d := { d with evr := { d.evr with
    circ := d.evr.circ.set n bs, newest := some (n, q), nextSlot := (n + 1) % circSlots, failRun := 0 } }
  let d := d.fixedCopy e bs
  if e.code = 0x20 then d.wr (Page.base (.debug (e.page % 8)) + 0x8C) 2 else d

/-- A QUEUE_OVERFLOW record is queued once fewer than 128 events wait (R591). -/
def Dev.overflowRecord (d : Dev) : Dev :=
  if d.evr.dropsOwed = 0 || 128 ≤ d.evr.queue.length then d else
  let e := d.event 0xF1 0 1 0 false (bytesLE 4 d.evr.dropsOwed) false
  { d with evr := { d.evr with queue := d.evr.queue ++ [e], dropsOwed := 0 } }

/-- What slot n holds after a read-back has failed there: never the valid mark (R590 step 3). -/
def Evr.torn (e : Evr) (n : Nat) (raw : List Byte) : Evr :=
  let bs := (raw ++ erasedSlot).take 63 ++ [if raw.getD 63 0 = 0x5A#8 then 0xFF#8 else raw.getD 63 0xFF#8]
  { e with circ := if slotErased bs then e.circ.erase n else e.circ.set n bs, nextSlot := (n + 1) % circSlots, failRun := e.failRun + 1 }

/-- An attempt to write a record fails. Where no slot is erased, none is programmed, and that counts as a failure (log entry 39). -/
def Dev.failedTry (d : Dev) (raw : List Byte) (eraseOk : Bool) : Dev :=
  match d.evr.freeSlot with
  | none => { d with evr := { d.evr with failRun := d.evr.failRun + 1 } }
  | some n =>
    let d := d.eraseAhead n eraseOk
    { d with evr := d.evr.torn n raw }

/-- EVR_RECORD_WRITE: one attempt to write the oldest queued event. `readBack` is what the slot holds when a read-back
fails, none when both match; `eraseOk` says whether the erase of the sector ahead, where one is made, verifies. -/
def Dev.recordWrite (d : Dev) (readBack : Option (List Byte)) (eraseOk : Bool) : Dev :=
  match d.evr.queue with
  | [] => d
  | e :: _ =>
    if !d.evr.ready then d else
    match readBack, d.evr.freeSlot with
    | none, some n =>
      let d := d.eraseAhead n eraseOk
      (({ d with evr := { d.evr with queue := d.evr.queue.drop 1 } }).recorded e n).overflowRecord
    | _, _ =>
      let d := d.failedTry (readBack.getD []) eraseOk
      if d.evr.failRun < 3 then d
      else (({ d with evr := { d.evr with queue := d.evr.queue.drop 1, failRun := 0 } }).overflowRecord).raise .evr 0

/-! ### Counts (R588) -/

/-- MINUTE_TICK. -/
def Dev.minuteTick (d : Dev) : Dev :=
  if d.pins.pwrOk then { d with evr := { d.evr with minutes := satAdd d.evr.minutes 1 } } else d

def Evr.append (e : Evr) : Evr := e.logEntry (.counts e.minutes e.cycles)

/-- COUNTER_APPEND. -/
def Dev.counterAppend (d : Dev) : Dev := if d.evr.ready then { d with evr := d.evr.append } else d

/-! ### Boot (R588, R593) -/

/-- Sectors whose erase was begun and not done. -/
def openErases (cs : List CtrEntry) : List Nat :=
  cs.foldl (fun l c => match c with
    | .eraseBegin k => if l.contains k then l else l ++ [k]
    | .eraseDone k => l.filter fun x => x ≠ k
    | .counts _ _ => l) []

def Evr.sectorErased (e : Evr) (k : Nat) : Bool := e.circ.cells.all fun c => c.1 / 64 != k

/-- First sector of the run of erased sectors: an erased one after one that is not. -/
def Evr.erasedRun (e : Evr) : Nat :=
  ((List.range 66).find? fun k => e.sectorErased k && !e.sectorErased ((k + 65) % 66)).getD 0

/-- The newest record: the last valid one before the erased run, going back cyclically. -/
def Evr.findNewest (e : Evr) : Option (Nat × Nat) :=
  let from_ := 64 * e.erasedRun
  (((List.range circSlots).map fun i => (from_ + circSlots - 1 - i) % circSlots).find? fun n => slotValid (e.circAt n)).map
    fun n => (n, slotSeq (e.circAt n))

/-- The largest counts of the counter area and of the valid records. -/
def Evr.largest (e : Evr) (word : Nat) : Nat :=
  let recs := (e.circ.cells ++ e.fixedSlots.cells).filter fun c => slotValid c.2
  let a := recs.foldl (fun m c => max m (ofBytesLE ((c.2.drop (4 * word)).take 4))) 0
  e.entries.foldl (fun m c => match c with
    | .counts x y => max m (if word = 0 then x else y).toNat
    | _ => m) a

/-- Step 1 of a boot: the sectors whose erase was begun and not done are erased again. -/
def Evr.reopened (e : Evr) (bad : List Nat) : Evr := e.tryErases (openErases e.entries) bad

/-- Step 3 of a boot: the sector after the newest record's, which is erased again. -/
def Evr.bootSector (e : Evr) : List Nat :=
  match e.findNewest with
  | some (n, _) => [(n / 64 + 1) % 66]
  | none => []

/-- Erases of a boot that fail. -/
def Evr.bootFails (e : Evr) (bad : List Nat) : Nat :=
  ((openErases e.entries ++ (e.reopened bad).bootSector).filter fun k => bad.contains k).length

/-- What the MC does with the recorder at a boot from power-up, before it writes anything. What was queued before it carries the counts of
this boot. -/
def Evr.boot (e : Evr) (bad : List Nat) : Evr :=
  let e := e.reopened bad
  let newest := e.findNewest
  let e := e.tryErases e.bootSector bad
  let start := match newest with
    | some (n, _) => (n + 1) % circSlots
    | none => 0
  let minutes := BitVec.ofNat 32 (e.largest 0)
  let cycles := BitVec.ofNat 32 (min (e.largest 1 + 1) (2 ^ 32 - 1))
  ({ e with
    minutes := minutes, cycles := cycles, newest := newest, nextSlot := start, failRun := 0
    queue := e.queue.map fun (x : EvrEvent) => { x with minutes := minutes, cycles := cycles }
    chal := none, denials := 0, ready := true, cmdOk := false, cmdDenied := false, resp := ⟨[]⟩, win := [] }).append

/-! ### Challenge, clear and key (R594, R595) -/

/-- Who asks: the host through EVR_CMD, which needs the page and its en, or the management interface. -/
def Dev.evrHost (d : Dev) : Bool := d.pageAnswers .evr && d.pageOn .evr

/-- CHAL: 32 random bytes. -/
def Dev.chalIssue (d : Dev) (mgmt : Bool) : Dev :=
  if !d.evr.ready || (!mgmt && !d.evrHost) then d else
  let bs := bytesLE 32 (Config.challenge d.evr.chalCount).toNat
  let d := { d with evr := { d.evr with chal := some bs, chalCount := d.evr.chalCount + 1 } }
  if mgmt then d.emit (.mgmt bs) else { d with evr := { d.evr with cmdOk := true, cmdDenied := false } }

/-- CHALLENGE_EXPIRE. -/
def Dev.chalExpire (d : Dev) : Dev := { d with evr := { d.evr with chal := none } }

/-- Why a response is denied: 3 locked, 2 no key, 1 no challenge, 0 wrong; none when it verifies. -/
def Evr.denial (e : Evr) (message resp : List Byte) : Option Nat :=
  if 8 ≤ e.denials then some 3 else
  match e.key, e.chal with
  | none, _ => some 2
  | _, none => some 1
  | some k, some c => if hmac k (c ++ message) = resp then none else some 0

/-- The answer to the requester. -/
def Dev.evrAnswer (d : Dev) (mgmt ok : Bool) : Dev :=
  if mgmt then d.emit (.ack ok) else { d with evr := { d.evr with cmdOk := ok, cmdDenied := !ok } }

/-- The attempts at a record of which three in a row fail drop it; how many failed before the one that did not. -/
def Dev.failedTries (d : Dev) (raws : List (List Byte)) (eraseOk : Bool) : Dev :=
  (raws.take 3).foldl (fun d raw => d.failedTry raw eraseOk) { d with evr := { d.evr with failRun := 0 } }

/-- The first CLEARED of a clear, with its fixed copy. -/
def Dev.clearedRecord (d : Dev) (e : EvrEvent) (run : ClearRun) : Dev :=
  let d := d.failedTries run.first run.eraseOk
  match d.evr.freeSlot with
  | some n => if 3 ≤ run.first.length then d.raise .evr 0 else (d.eraseAhead n run.eraseOk).recorded e n
  | none => d.raise .evr 0

/-- The second CLEARED, at C0 with sequence 0 after the erase of every sector. -/
def Dev.clearedAgain (d : Dev) (bs : List Byte) (run : ClearRun) : Dev :=
  let d := (run.second.take 3).foldl (fun (d : Dev) raw => match d.evr.freeSlot with
    | some n => { d with evr := d.evr.torn n raw }
    | none => d) d
  match d.evr.freeSlot with
  | some n =>
    if 3 ≤ run.second.length then d.raise .evr 0 else
    { d with evr := { d.evr with circ := d.evr.circ.set n bs, newest := some (n, 0), nextSlot := (n + 1) % circSlots, failRun := 0 } }
  | none => d.raise .evr 0

/-- The clear itself: CLEARED is written, the 66 sectors are erased, CLEARED is written again at C0 with sequence 0. The
counts include the first CLEARED, which is erased too. -/
def Dev.clearLog (d : Dev) (origin id : Nat) (run : ClearRun) : Dev :=
  let valid := (d.evr.circ.cells.filter fun c => slotValid c.2).length
  let e := d.event 0x40 0 origin 0 false (bytesLE 8 id ++ bytesLE 2 (valid + 1) ++ bytesLE 1 d.evr.seq) true
  let bs := recordBytes e (d.evr.copies e) 0
  let d := d.clearedRecord e run
  let bad := run.bad.map fun k => k.val
  let d := { d with evr := { (d.evr.tryErases (List.range 66) bad) with newest := none, nextSlot := 0, failRun := 0 } }
  let d := iterate ((List.range 66).filter fun k => bad.contains k).length (fun _ d => d.raise .evr 0) d
  d.clearedAgain bs run

/-- CLEAR: the response and requester identity of the host's registers, or those of a management message. In recovery the MC records
nothing, and so clears nothing (R670). -/
def Dev.clearCmd (d : Dev) (msg : Option (List Byte × DWord)) (run : ClearRun) : Dev :=
  let mgmt := msg.isSome
  if !d.evr.ready || d.mc.stage = .recovery || (!mgmt && !d.evrHost) then d else
  let (resp, id) := match msg with
    | some m => m
    | none => ((List.range 8).flatMap fun i => bytesLE 4 (d.evr.resp.getD i 0).toNat, joinWords (d.preg .evr 0xE4) (d.preg .evr 0xE0))
  let origin := if mgmt then 3 else 2
  let why := d.evr.denial ([0x43#8] ++ bytesLE 8 id.toNat) resp
  let d := { d with evr := { d.evr with chal := none } }
  match why with
  | none => (d.clearLog origin id.toNat run).evrAnswer mgmt true
  | some r =>
    let d := { d with evr := { d.evr with denials := d.evr.denials + 1 } }
    let (d, lost) := d.pushEvent (d.event 0x41 0 origin 0 false (bytesLE 8 id.toNat ++ bytesLE 1 r) false)
    (if lost then d.raise .evr 1 else d).evrAnswer mgmt false

/-- KEY_SET: provisioned when no key is stored, replaced by an authenticated request. -/
def Dev.keySet (d : Dev) (key : List Byte) (id : DWord) (resp : List Byte) : Dev :=
  if !d.evr.ready then d
  else if key.length ≠ 32 then d.emit (.ack false)
  else
    let ok := match d.evr.key with
      | none => true
      | some _ => (d.evr.denial ([0x4B#8] ++ bytesLE 8 id.toNat ++ key) resp).isNone
    let d := if d.evr.key.isSome then d.chalExpire else d
    if !ok then d.emit (.ack false) else
    let d := { d with evr := { d.evr with key := some key } }
    let (d, lost) := d.pushEvent (d.event 0x42 0 3 0 false (bytesLE 8 id.toNat) true)
    (if lost then d.raise .evr 1 else d).emit (.ack true)

/-- EVR_CMD (R597). -/
def Dev.evrCmd (d : Dev) (w : Word) (run : ClearRun) : Dev :=
  if !d.evrHost then d else
  let d := { d with evr := { d.evr with cmdOk := false, cmdDenied := false } }
  let d := if bit w 0 then d.chalIssue false else d
  if bit w 1 then d.clearCmd none run else d

/-! ### Reading (R592, R596) -/

def Evr.slots (e : Evr) (circular : Bool) (first n : Nat) : List (List Byte) :=
  (List.range n).map fun i =>
    if circular then e.circAt ((first + i) % circSlots) else e.fixedAt (first + i)

/-- EVR_READ_MSG: n + 1 raw slots. -/
def Dev.evrReadMsg (d : Dev) (circular : Bool) (first n : Nat) : Dev :=
  if !d.evr.ready then d else d.emit (.mgmt (d.evr.slots circular first (n + 1)).flatten)

/-- EVR_WIN_SEL: the write is stored; with en = 1 it loads the window. -/
def Dev.evrWinSel (d : Dev) (w : Word) : Dev :=
  if !d.pageAnswers .evr then d else
  let d := d.setPreg .evr 0x90 (w &&& 0x3FFF#32)
  if !d.pageOn .evr then d else
  { d with evr := { d.evr with win := d.evr.slots (bit w 13) (fld w 0 13) 32 } }

end Sys2Proof.Machine
end

