-- ==== Sys2Proof/Machine/HostRing.lean ====
section
/-! DEFINITION. The host port (23 R626 to R659): command rings and their commands, completions and interrupts, result pages,
the HBM window, the delivery ring's enable, and the function level reset. -/

namespace Sys2Proof.Machine

/-! ### Rings (R634 to R637) -/

def ringReg (r k : Nat) : Nat := 0x400 + 32 * r + k
def Dev.ring (d : Dev) (r : Nat) : Ring := d.hif.rings.getD r Ring.reset
def Dev.setRing (d : Dev) (r : Nat) (x : Ring) : Dev := { d with hif := { d.hif with rings := d.hif.rings.set r x } }
def Dev.ringCfg (d : Dev) (r : Nat) : Word := d.preg .hif (ringReg r 0x10)
def Dev.ringOn (d : Dev) (r : Nat) : Bool := bit (d.ringCfg r) 0
/-- Entries of the command array and of the completion array. -/
def Dev.cmdEntries (d : Dev) (r : Nat) : Nat := 2 ^ fld (d.ringCfg r) 8 5
def Dev.cplEntries (d : Dev) (r : Nat) : Nat := 2 ^ fld (d.ringCfg r) 16 5

/-- BAR2, BAR4 and the pages beside GLB, FLT and EVR answer (R674). -/
def Dev.hostUp (d : Dev) : Bool := d.mc.stage.full

/-- CMD_TAIL: a tail of 2^a or more is ignored. -/
def Dev.cmdTail (d : Dev) (r : Nat) (w : Word) : Dev :=
  if !d.hostUp || d.cmdEntries r ≤ w.toNat then d else d.setRing r { d.ring r with tail := w.toNat }

/-- The ring may fetch and start its next command; a thermal trip has stopped the clocks (R617). -/
def Dev.ringReady (d : Dev) (r : Nat) : Bool :=
  let x := d.ring r
  d.hostUp && d.pageOn .hif && bit (d.preg .hif 0x80) 0 && d.ringOn r && !x.fetchErr && x.waiting.isNone && x.copy.isNone &&
    x.heldCpl.isNone && x.head ≠ x.tail && !d.mc.thermtrip

/-! ### Completions and interrupts (R642 to R645) -/

/-- Sends the ring's message for its pending completions. -/
def Dev.ringMsix (d : Dev) (r : Nat) : Dev :=
  (d.setRing r { d.ring r with irqPending := 0 }).msix (fld (d.preg .hif (ringReg r 0x14)) 0 11)

/-- A completion entry (R642). -/
def Dev.cplBytes (d : Dev) (r : Nat) (c : Completion) : List Byte :=
  let x := d.ring r
  wordBytes c.tag ++ wordBytes x.seq ++ bytesLE 1 c.status ++ bytesLE 1 r ++ bytesLE 1 (b2n c.page.isSome) ++ bytesLE 1 0 ++
    dwordBytes c.value ++ bytesLE 8 d.now ++ bytesLE 3 0 ++ bytesLE 1 (b2n (x.seq.toNat / d.cplEntries r % 2 = 0))

/-- Writes a completion and counts it. -/
def Dev.writeCpl (d : Dev) (r : Nat) (c : Completion) : Dev :=
  let x := d.ring r
  let n := d.cplEntries r
  let base := (joinWords (d.preg .hif (ringReg r 0x0C)) (d.preg .hif (ringReg r 0x08))).toNat
  let d := (d.emit (.hostWrite (base + 32 * (x.seq.toNat % n)) (d.cplBytes r c))).bump .hif 0xC0 1
  let p := x.irqPending + b2n c.irq
  let d := d.setRing r { x with cplTail := (x.cplTail + 1) % n, seq := x.seq + 1, heldCpl := none, irqPending := p }
  let need := fld (d.preg .hif (ringReg r 0x14)) 16 8
  if c.irq && need ≤ p then d.ringMsix r else d

/-- A completion is written, or held while the array is full (R644). -/
def Dev.postCpl (d : Dev) (r : Nat) (c : Completion) : Dev :=
  let x := d.ring r
  if (x.cplTail + 1) % d.cplEntries r = x.cplHead then d.setRing r { x with heldCpl := some c } else d.writeCpl r c

/-- A ring is enabled: what a command already started still owes, a held completion too, is kept and given (R635). -/
def Dev.ringStart (d : Dev) (r : Nat) : Dev :=
  let x := d.ring r
  let d := d.setRing r { Ring.reset with waiting := x.waiting, copy := x.copy }
  match x.heldCpl with
  | some c => d.postCpl r c
  | none => d

/-- RING_ENABLE: a write of RINGr_CFG (R634, R635, R658). -/
def Dev.ringCfgWrite (d : Dev) (path : Path) (r : Nat) (w : Word) : Dev :=
  let w := w &&& 0x001F1F01#32
  let on := d.ringOn r
  let same := (w ^^^ d.ringCfg r) &&& 0x001F1F00#32 == 0
  let okSize (n : Nat) : Bool := 6 ≤ n && n ≤ 16
  let w' := if !on && bit w 0 && !(okSize (fld w 8 5) && okSize (fld w 16 5)) then setBit w 0 false else w
  d.guarded path .hif (ringReg r 0x10) (!on || same) fun d =>
    let d := d.setPreg .hif (ringReg r 0x10) w'
    if !on && bit w' 0 then d.ringStart r else d

/-- CPL_HEAD: entries are released; a held completion is written. -/
def Dev.cplHead (d : Dev) (r : Nat) (w : Word) : Dev :=
  if !d.hostUp || d.cplEntries r ≤ w.toNat then d else
  let d := d.setRing r { d.ring r with cplHead := w.toNat }
  match (d.ring r).heldCpl with
  | some c => d.postCpl r c
  | none => d

/-- IRQ_TIMER: RINGr_IRQ.time has passed since the first pending completion. -/
def Dev.irqTimer (d : Dev) (r : Nat) : Dev :=
  if 0 < (d.ring r).irqPending && fld (d.preg .hif (ringReg r 0x14)) 24 8 ≠ 0 then d.ringMsix r else d

/-! ### Result pages (R647 to R650) -/

def Dev.resultPage (d : Dev) (k : Nat) : ResultPage := d.hif.pages.getD k ResultPage.reset
def Dev.setResult (d : Dev) (k : Nat) (p : ResultPage) : Dev := { d with hif := { d.hif with pages := d.hif.pages.set k p } }

/-- The page of a command with the result flag. -/
def cmdPage (c : HostCmd) : Option Nat := if bit c.flags 1 then some (fld c.page 0 12) else none

/-- RESULT_ACK. -/
def Dev.resultAck (d : Dev) (k : Nat) (w : Word) : Dev :=
  if !d.hostUp then d else
  let p := d.resultPage k
  if p.valid && p.seq = w then { d with hif := { d.hif with pages := d.hif.pages.erase k } } else d.bump .hif 0xE8 1

/-- A word of a result page; every offset reads 0 while the page is not valid. -/
def Dev.resultWord (d : Dev) (k off : Nat) : Word :=
  let p := d.resultPage k
  if !p.valid then 0
  else if off = 0 then packFields 32 [(0, 1), (8, p.status), (16, p.ring)]
  else if off = 4 then p.seq
  else if off < 0x10 then 0
  else BitVec.ofNat 32 (ofBytesLE ((p.data.drop (off - 0x10)).take 4))

/-! ### Running a command (R637 to R641, R648) -/

/-- What an action gives: a status, and where it is OK the value and the result page's data. -/
structure HostOut where
  status : Nat
  value  : DWord
  data   : List Byte

def okOut (v : DWord) : HostOut := { status := 0, value := v, data := dwordBytes v }
def badOut (status : Nat) : HostOut := { status := status, value := 0, data := [] }

/-- The end of a command: its result page, then its completion. -/
def Dev.endCmd (d : Dev) (r : Nat) (c : HostCmd) (o : HostOut) : Dev :=
  let page := if o.status = 7 then none else (cmdPage c)
  let s := (d.ring r).seq
  let d := match page with
    | some k => d.setResult k { claimed := true, valid := true, status := o.status, ring := r, seq := s
                                data := if o.status = 0 then o.data else [] }
    | none => d
  let v := if o.status = 0 then o.value else Config.errorValue r s.toNat
  let d := d.postCpl r { tag := c.tag, status := o.status, page := page, value := v, irq := bit c.flags 0 }
  if o.status = 5 then d.raise .hif 1 else d

/-- A reserved bit is set (R638). -/
def cmdReserved (c : HostCmd) : Bool := fld c.flags 2 6 ≠ 0 || fld c.page 12 4 ≠ 0 || c.rsv ≠ 0

/-- Takes the next command of a ring, claims its result page, and runs its action, or ends it with the status that its
fields draw. `fields` answers BAD_FIELD, BAD_ADDR and FENCED by their codes, the lowest first. -/
def Dev.runCmd (d : Dev) (r : Nat) (c : HostCmd) (fields : Option Nat) (act : Dev → Dev × Option HostOut) : Dev :=
  if !d.ringReady r then d else
  let x := d.ring r
  let d := d.setRing r { x with head := (x.head + 1) % d.cmdEntries r }
  let busy := match (cmdPage c) with
    | some k => (d.resultPage k).claimed
    | none => false
  if busy then d.endCmd r c (badOut 7) else
  let d := match (cmdPage c) with
    | some k => d.setResult k { ResultPage.reset with claimed := true }
    | none => d
  match fields with
  | some e => d.endCmd r c (badOut e)
  | none =>
    match act d with
    | (d, some o) => d.endCmd r c o
    | (d, none) => d

/-- The first status that holds. -/
def firstOf (l : List (Bool × Nat)) : Option Nat := (l.find? fun x => x.1).map fun x => x.2

/-- b and len name bytes of one installed stack of this package (R641). -/
def Dev.badRange (d : Dev) (b len : Nat) : Bool :=
  b / 2 ^ 48 ≠ d.position || 2 ^ 39 ≤ b % 2 ^ 48 || b / 2 ^ 36 ≠ (b + (len - 1)) / 2 ^ 36

/-- The checks of a command on HBM at b. -/
def Dev.hbmCheck (d : Dev) (c : HostCmd) (bad : Bool) : Option Nat :=
  let b := c.b.toNat
  let len := c.len.toNat
  firstOf [((cmdReserved c) || b % 4 ≠ 0 || len % 4 ≠ 0 || bad, 2), (d.badRange b len, 3), (d.isFenced (.mem (b / 2 ^ 36 % 8)), 4)]

/-- The stacks and the sync units are clocked: a command on them starts only then, and waits in its ring otherwise (R617, R619). -/
def Dev.runUnits (d : Dev) (r : Nat) (c : HostCmd) (fields : Option Nat) (act : Dev → Dev × Option HostOut) : Dev :=
  if d.coreUp then d.runCmd r c fields act else d

/-- CMD_NOP: opcode 0x01, or a reserved opcode. -/
def Dev.cmdNop (d : Dev) (r : Nat) (op : Byte) (c : HostCmd) : Dev :=
  d.runCmd r c (firstOf [(op ≠ 1#8, 1), ((cmdReserved c), 2)]) fun d => (d, some (okOut c.value))

def copyLenBad (n : Nat) : Bool := n < 4 || 2 ^ 36 < n

/-- Bytes that the host has written to HBM go to the buddies of the mirror regions they touch (R540). -/
def Dev.hostPut (d : Dev) (back : Back) (a : Nat) (bs : List Byte) : Dev :=
  if bs = [] then d else (({ d with hbm := d.hbm.writeBytes a bs }).mirror a bs.length back).1

/-- Bytes of the next segment of a copy: segments end at the 4 KiB boundaries of its HBM address (R630, R637; log entry 42). -/
def CopyRun.segLen (x : CopyRun) : Nat := min (x.cmd.len.toNat - x.off) (4096 - (x.cmd.b.toNat + x.off) % 4096)

/-- The copy of a ring ends. -/
def Dev.copyEnd (d : Dev) (r : Nat) (x : CopyRun) (o : HostOut) : Dev := (d.setRing r { d.ring r with copy := none }).endCmd r x.cmd o

/-- A copy stands at x: it completes once every byte has moved and the mirror writes of its bytes have been acknowledged (R541). -/
def Dev.copyAt (d : Dev) (r : Nat) (x : CopyRun) : Dev :=
  if x.cmd.len.toNat ≤ x.off && !d.mirrorLeft (.host r) then d.copyEnd r x (okOut x.cmd.len)
  else d.setRing r { d.ring r with copy := some x }

/-- A segment of a COPY_H2D or FILL is written; the command counts once as a host action (R640). -/
def Dev.copyPut (d : Dev) (r : Nat) (x : CopyRun) (bs : List Byte) : Dev × CopyRun :=
  let acts := bs ≠ [] && d.anyRun && !x.counted
  let d := if acts then d.hostAct else d
  (d.hostPut (.host r) (x.cmd.b.toNat % 2 ^ 48 + x.off) bs, { x with off := x.off + bs.length, counted := x.counted || acts })

/-- One segment of a copy moves. A stack that has been fenced since ends it; a COPY_D2H that meets an uncorrectable codeword gives no
completion, and the package resets (R641). -/
def Dev.copySeg (d : Dev) (r : Nat) (x : CopyRun) : Dev :=
  let n := x.segLen
  let b := x.cmd.b.toNat % 2 ^ 48
  if n = 0 then d.copyAt r x
  else if d.isFenced (.mem (b / 2 ^ 36)) then d.copyEnd r x (badOut 4)
  else match x.kind with
  | .h2d data =>
    let bs := (data.drop x.off).take n
    let (d, y) := d.copyPut r x bs
    if bs.length < n then d.copyEnd r y (badOut 5) else d.copyAt r y
  | .fill =>
    let (d, y) := d.copyPut r x ((List.range (n / 4)).flatMap fun _ => bytesLE 4 x.cmd.value.toNat)
    d.copyAt r y
  | .d2h bad =>
    if bad.any fun k => x.off ≤ k && k < x.off + n then d.raise (.mem (b / 2 ^ 36)) 1 else
    (d.emit (.hostWrite (x.cmd.a.toNat + x.off) (d.hbm.readBytes (b + x.off) n))).copyAt r { x with off := x.off + n }

/-- A round of the copy engine: a segment for each ring whose copy has not ended, in ascending ring number (R637). -/
def Dev.copyRound (d : Dev) : Dev :=
  (List.range 64).foldl (fun d r => match (d.ring r).copy with
    | some x => d.copySeg r x
    | none => d) d

/-- A copy starts, with its first segment. -/
def Dev.copyCmd (d : Dev) (r : Nat) (c : HostCmd) (bad : Bool) (kind : CopyKind) : Dev :=
  d.runUnits r c (d.hbmCheck c bad) fun d => (d.copySeg r { cmd := c, kind := kind, off := 0, counted := false }, none)

/-- COPY_H2D: `data` is what host memory returns; a read that fails returns fewer than len bytes, which are moved. -/
def Dev.copyH2d (d : Dev) (r : Nat) (c : HostCmd) (data : List Byte) : Dev :=
  d.copyCmd r c (copyLenBad c.len.toNat || c.a.toNat % 4 ≠ 0) (.h2d data)

/-- COPY_D2H. -/
def Dev.copyD2h (d : Dev) (r : Nat) (h : HostRead) : Dev :=
  d.copyCmd r h.cmd (copyLenBad h.cmd.len.toNat || h.cmd.a.toNat % 4 ≠ 0) (.d2h h.bad)

/-- FILL. -/
def Dev.fill (d : Dev) (r : Nat) (c : HostCmd) : Dev := d.copyCmd r c false .fill

/-- A read of HBM by a command, which an uncorrectable codeword ends without completion, with the package reset (R572, R641). -/
def Dev.readHbm (d : Dev) (r : Nat) (h : HostRead) (bad : Bool) (f : List Byte → HostOut) : Dev :=
  let b := h.cmd.b.toNat % 2 ^ 48
  d.runUnits r h.cmd (d.hbmCheck h.cmd bad) fun d =>
    if h.bad.any fun k => k < h.cmd.len.toNat then (d.raise (.mem (b / 2 ^ 36)) 1, none)
    else (d, some (f (d.hbm.readBytes b h.cmd.len.toNat)))

/-- CRC. -/
def Dev.crcCmd (d : Dev) (r : Nat) (h : HostRead) : Dev := d.readHbm r h false fun bs => okOut (crc64 0 bs)

/-- READ: into the result page's data area. -/
def Dev.readCmd (d : Dev) (r : Nat) (h : HostRead) : Dev :=
  d.readHbm r h (h.cmd.len.toNat < 4 || 4080 < h.cmd.len.toNat || (cmdPage h.cmd).isNone) fun bs =>
    { status := 0, value := h.cmd.len, data := bs }

/-- TIME. -/
def Dev.timeCmd (d : Dev) (r : Nat) (c : HostCmd) : Dev :=
  d.runCmd r c (firstOf [((cmdReserved c), 2)]) fun d => (d, some (okOut (BitVec.ofNat 64 d.now)))

/-- The sync unit and object that the field a names. -/
def cmdLcore (c : HostCmd) : Nat := fld c.a 16 3
def cmdObj (c : HostCmd) : Nat := fld c.a 0 13
def Dev.syncCheck (d : Dev) (c : HostCmd) : Option Nat :=
  firstOf [((cmdReserved c), 2), (d.boundCount d.mapCore ≤ (cmdLcore c), 3), (d.isFenced (.core (d.corePhys (cmdLcore c))), 4)]

/-- SYNC: an operation of the host channel, which a realign slot and an earlier operation of the channel hold back. -/
def Dev.syncCmd (d : Dev) (r : Nat) (c : HostCmd) : Dev :=
  let k := d.corePhys (cmdLcore c)
  if d.realign || d.hopBusy k then d else
  d.runUnits r c (d.syncCheck c) fun d =>
    let v := loWord c.value
    let prior := d.objVal k (cmdObj c)
    let d := d.applyOp k (cmdObj c) (fun x => if bit c.a 24 then v else x + v) none
    (d.hostAct.fcSettle, some (okOut (prior.setWidth 64)))

/-- WAIT: the ring is held until WAIT_COMPLETE or WAIT_TIMEOUT. As SYNC it is an operation of the host channel, behind a HOP_CMD that
has not been applied (R639). -/
def Dev.waitCmd (d : Dev) (r : Nat) (c : HostCmd) : Dev :=
  if d.realign || d.hopBusy (d.corePhys (cmdLcore c)) then d else
  d.runUnits r c (d.syncCheck c) fun d => (d.setRing r { d.ring r with waiting := some c }, none)

/-- WAIT_COMPLETE: the object meets the condition. -/
def Dev.waitComplete (d : Dev) (r : Nat) : Dev :=
  match (d.ring r).waiting with
  | none => d
  | some c =>
    let k := d.corePhys (cmdLcore c)
    let v := d.objVal k (cmdObj c)
    if !d.coreUp || d.realign || d.hopBusy k then d else
    if meets (bit c.a 25) v (loWord c.value) then
      (d.setRing r { d.ring r with waiting := none }).endCmd r c (okOut (v.setWidth 64))
    else d

/-- WAIT_TIMEOUT: the timeout, where one is set, has passed. -/
def Dev.waitTimeout (d : Dev) (r : Nat) : Dev :=
  match (d.ring r).waiting with
  | none => d
  | some c => if c.timeout = 0 then d else (d.setRing r { d.ring r with waiting := none }).endCmd r c (badOut 6)

/-! ### Delivery enable (R651) -/

/-- DLV_ENABLE: a write of HIF_CTRL; dlv_en from 0 to 1 starts the delivery ring afresh. -/
def Dev.hifCtrl (d : Dev) (w : Word) : Dev :=
  if !d.pageAnswers .hif then d else
  let was := bit (d.preg .hif 0x80) 1
  let d := d.setPreg .hif 0x80 (w &&& 7#32)
  if !was && bit w 1 then { (d.setPreg .hif 0x9C 0) with hif := { d.hif with dlvTail := 0, dlvPhase := true } } else d

/-! ### The HBM window (R631) -/

/-- The HBM byte that BAR2 offset o reaches, if it is installed and not fenced. -/
def Dev.winByte (d : Dev) (o : Nat) : Option Nat :=
  let a := fld (d.preg .hif 0x88) 0 9 * 2 ^ 30 + o
  if 2 ^ 39 ≤ a || d.isFenced (.mem (a / 2 ^ 36)) then none else some a

def Dev.winCount (d : Dev) (o n : Nat) : Dev :=
  if (List.range n).any fun i => (d.winByte (o + i)).isNone then d.bump .hif 0xC8 1 else d

/-- BAR2_READ. One that meets an uncorrectable codeword has no completion, and the package resets (R572, R633); while the stacks' clock is
stopped none is served either (R617, R619). -/
def Dev.bar2Read (d : Dev) (o n : Nat) (bad : Bool) : Dev :=
  if !d.hostUp then d.emit (.readData (List.replicate n 0)) else
  if !d.coreUp then d else
  match (if bad then ((List.range n).filterMap fun i => d.winByte (o + i)).head? else none) with
  | some a => (d.winCount o n).raise (.mem (a / 2 ^ 36)) 1
  | none =>
    (d.winCount o n).emit (.readData ((List.range n).map fun i => match d.winByte (o + i) with
      | some a => d.hbm.get a
      | none => 0xFF#8))

/-- BAR2_WRITE: what it writes goes to the mirror buddies too (R540); one that writes a byte while a run bit is set is a host action. -/
def Dev.bar2Write (d : Dev) (o : Nat) (bs : List Byte) : Dev :=
  if !d.coreUp then d else
  let hits := (List.range bs.length).filterMap fun i => (d.winByte (o + i)).map fun a => (a, bs.getD i 0)
  let d := d.winCount o bs.length
  match hits with
  | [] => d
  | x :: _ => d.hostAct.hostPut .none x.1 (hits.map fun y => y.2)

/-! ### MSI-X table (R627, R645) and function level reset (R630) -/

/-- A word of the MSI-X table is written; unmasking a vector sends its pending message. -/
def Dev.msixWrite (d : Dev) (o : Nat) (w : Word) : Dev :=
  let i := o / 16
  let e := d.hif.msix.getD i MsixEntry.reset
  let put (e : MsixEntry) : Dev := { d with hif := { d.hif with msix := d.hif.msix.set i e } }
  match o % 16 / 4 with
  | 0 => put { e with addr := joinWords (hiWord e.addr) w }
  | 1 => put { e with addr := joinWords w (loWord e.addr) }
  | 2 => put { e with data := w }
  | _ =>
    if e.pend && !bit w 0 then (put { e with masked := false, pend := false }).emit (.msix i)
    else put { e with masked := bit w 0 }

/-- A word of the MSI-X table. -/
def Dev.msixRead (d : Dev) (o : Nat) : Word :=
  let e := d.hif.msix.getD (o / 16) MsixEntry.reset
  match o % 16 / 4 with
  | 0 => loWord e.addr
  | 1 => hiWord e.addr
  | 2 => e.data
  | _ => BitVec.ofNat 32 (b2n e.masked)

/-- FUNCTION_LEVEL_RESET: the HIF page, doorbell pages, result pages and MSI-X entries; a step bundle waits. -/
def Dev.flr (d : Dev) : Dev :=
  let ours (o : Nat) : Bool := o / 0x1000 == 6
  { d with
    regs := d.regs.keep (fun o _ => !ours o), ctrs := d.ctrs.keep (fun o _ => !ours o)
    flt := { d.flt with dew := d.flt.dew.keep fun k _ => k / 4 != 6 }
    hif := { Hif.reset with link := d.hif.link, held := d.hif.held, heldReported := d.hif.heldReported } }

/-! ### Commands as they stand in host memory (R638, R639) -/

/-- The fields of a command's 64 bytes beside its opcode, little-endian. -/
def hostCmdOf (bs : List Byte) : HostCmd :=
  let f (o n : Nat) : Nat := ofBytesLE ((bs.drop o).take n)
  { flags := BitVec.ofNat 8 (f 1 1), page := BitVec.ofNat 16 (f 2 2), tag := BitVec.ofNat 32 (f 4 4), a := BitVec.ofNat 64 (f 8 8)
    b := BitVec.ofNat 64 (f 16 8), len := BitVec.ofNat 64 (f 24 8), value := BitVec.ofNat 64 (f 32 8), timeout := BitVec.ofNat 32 (f 40 4)
    rsv := f 44 20 }

/-- The command that a ring fetches as 64 bytes: the opcode names it. What host memory returns to a COPY_H2D and the codeword that a read
of HBM may meet are the surroundings' part of it. -/
def ringCommand (ring : Fin 64) (bs data : List Byte) (bad : Option Nat) : Instr :=
  let c := hostCmdOf bs
  let h : HostRead := { cmd := c, bad := bad }
  match (bs.getD 0 0).toNat with
  | 2 => .copyH2d ring c data
  | 3 => .copyD2h ring h
  | 4 => .fill ring c
  | 5 => .crc ring h
  | 6 => .sync ring c
  | 7 => .wait ring c
  | 8 => .read ring h
  | 9 => .time ring c
  | _ => .cmdNop ring (bs.getD 0 0) c

end Sys2Proof.Machine
end

