-- ==== Sys2Proof/Machine/Startup.lean ====
section
/-! DEFINITION. Reset, power-up and start-up (24 R660 to R676), the firmware update (R670) and the SMBus fallback (26 R711). -/

namespace Sys2Proof.Machine

/-! ### What survives -/

/-- The SPI flash's recorder region: it survives everything (R585). -/
def Evr.flash (e : Evr) : Evr :=
  { Evr.reset with fixedSlots := e.fixedSlots, fixedNext := e.fixedNext, fixedFull := e.fixedFull, circ := e.circ
                   counters := e.counters, oldCounters := e.oldCounters, key := e.key, chalCount := e.chalCount }

/-- The MC's non-volatile store, and the note of a rail loss that the next boot reports. -/
def Mc.flash (m : Mc) : Mc :=
  { Mc.reset with failedStore := m.failedStore, keystone := m.keystone, journal := m.journal, railLost := m.railLost }

/-- Everything but flash and fuses at reset (R664). -/
def Dev.coldReset (d : Dev) : Dev :=
  { Dev.reset with fuses := d.fuses, evr := d.evr.flash, mc := d.mc.flash, inc := d.inc + 1, sent := d.sent
                   pins := { d.pins with pwrOk := false } }

/-- POWER_DOWN: PWR_OK falls. -/
def Dev.powerDown (d : Dev) : Dev := if d.pins.pwrOk then d.coldReset else d

/-- The profile that COOL selects (R10, R599). -/
def coolProfile (a b : BitVec 2) : Nat := if a = b && b.toNat < 3 then b.toNat else 0

/-- POWER_UP: PWR_OK rises; the straps are sampled and the MC boots. -/
def Dev.powerUp (d : Dev) (cool1 cool2 : BitVec 2) (bootSel : Bool) (addr : BitVec 3) (fref : BitVec 2) : Dev :=
  if d.pins.pwrOk then d else
  let d := d.coldReset
  let mc := { d.mc with
    stage := .mcBoot, cause := if d.mc.railLost then 3 else 0, railLost := false, bootSel := bootSel, i3cAddr := addr
    cool := cool2, profile := coolProfile cool1 cool2 }
  let d := { d with mc := mc, pins := { d.pins with pwrOk := true, fref := fref } }
  if cool1 = cool2 && cool2 ≠ 3#2 then d else d.raise .pwr 0

/-- RAIL_LOSS: the main domain as though PWR_OK had fallen, its collector and link with it; the MC keeps running and starts nothing. -/
def Dev.railLoss (d : Dev) : Dev :=
  if !d.pins.pwrOk || d.mc.railLost then d else
  let d := { d.mainReset with hif := Hif.reset, flt := Flt.reset }
  { d with mc := { d.mc with
    stage := if d.mc.stage = .recovery then .recovery else .mcBoot, railLost := true, holdAck := false, afterReset := false } }

/-- PERST_ASSERT: the main domain, the PCIe link and the host port reset; the fence map keeps FAILED units. -/
def Dev.perstAssert (d : Dev) : Dev :=
  if !d.pins.perstN then d
  else if !d.pins.pwrOk then { d with pins := { d.pins with perstN := false } }
  else
    let keep := d.flt.fenced.keep fun u _ => d.flt.health.getD u 0 == 2
    let d := d.mainReset
    let stage := if d.mc.stage = .recovery then Stage.recovery else if d.mc.holdAck then .hold else .mcBoot
    { d with
      hif := Hif.reset, flt := { d.flt with fenced := keep }
      mc := { d.mc with stage := stage, cause := 1, afterReset := false }
      pins := { d.pins with perstN := false } }

/-- PERST_DEASSERT: the PCIe link trains, with the rate, width and mode of HIF_LINK, and start-up runs from stage 2. -/
def Dev.perstDeassert (d : Dev) (link : Nat) : Dev :=
  if d.pins.perstN then d else
  let d := { d with pins := { d.pins with perstN := true } }
  if !d.pins.pwrOk || d.mc.railLost then d else
  let d := { d with hif := { d.hif with link := BitVec.ofNat 32 link } }
  d.tryStart

/-! ### Boot and the stages (R670 to R674) -/

/-- Recovery: nothing but FW_UPDATE is recorded (R670). -/
def Dev.toRecovery (d : Dev) : Dev :=
  { d with mc := { d.mc with stage := .recovery }, evr := { d.evr with queue := d.evr.queue.filter fun e => e.code == 2 } }

/-- The MC image verifies: its signature, the digest of its key, its security version and its size (R670 step 3). -/
def Fuses.accept (f : Fuses) (i : FwImage) : Bool :=
  i.signed && i.keyDigest == f.keyDigest && decide (f.minSecurity ≤ i.security) && decide (i.size ≤ 2 ^ 22)

/-- The image of a slot, where it verifies. -/
def Fuses.slotImage (f : Fuses) (b : BootFlash) (slotB : Bool) : Option FwImage :=
  match (if slotB then b.b else b.a) with
  | some i => if f.accept i then some i else none
  | none => none

/-- MC_BOOT: the recorder's boot, then the active slot's image, or the other slot's where that one does not verify. With BOOT_SEL, or
with neither, the MC enters recovery, where what is queued is not recorded. POWER_ON is the first record of a boot (R588, R593). -/
def Dev.mcBoot (d : Dev) (b : BootFlash) : Dev :=
  if d.mc.stage ≠ .mcBoot || d.mc.booted then d else
  let bad := b.bad.map fun k => k.val
  let fails := d.evr.bootFails bad
  let d := iterate fails (fun _ d => d.raise .evr 0) { d with evr := d.evr.boot bad }
  let active := d.fuses.slotImage b b.activeB
  let d := { d with mc := { d.mc with fallback := active.isNone } }
  match (match active with
    | some i => some (b.activeB, i)
    | none => (d.fuses.slotImage b (!b.activeB)).map fun i => (!b.activeB, i)) with
  | none => d.toRecovery
  | some (slotB, i) =>
    let d := { d with mc := { d.mc with slotB := slotB, mcVer := i.version } }
    if d.mc.bootSel then d.toRecovery else
    let data := wordBytes i.version ++ bytesLE 1 d.mc.cool.toNat ++ bytesLE 1 (b2n d.fuses.b0) ++ bytesLE 1 (popCount d.fuses.coreMask)
    let e := d.event 1 0 1 0 false data false
    ({ d with mc := { d.mc with booted := true }, evr := { d.evr with queue := e :: d.evr.queue.take 255 } }).tryStart

/-- A fence of start-up bypasses the collector's queue; its record has identity 0 (R672). -/
def Dev.bootFence (d : Dev) (u : FUnit) : Dev := d.fenced u 0

/-- FUSE: grade, stepping and repair are read; every FAILED unit of the MC's store is fenced. -/
def Dev.fuseStage (d : Dev) (ok : Bool) : Dev :=
  if d.mc.stage ≠ .fuse then d else
  if !ok then { d with mc := { d.mc with stage := .failed } } else
  let d := d.mc.failedStore.foldl (fun d x => match FUnit.ofCode x with
    | some u => ({ d with flt := { d.flt with health := d.flt.health.set x 2 } }).bootFence u
    | none => d) d
  let some_ := (List.range 8).any fun c => d.coreEnabled c && !d.isFenced (.core c)
  { d with mc := { d.mc with stage := if some_ then .sramInit else .failed } }

/-- SRAM_INIT: every array is written zero. -/
def Dev.sramInit (d : Dev) : Dev :=
  if d.mc.stage ≠ .sramInit then d else { d with tiles := ⟨[]⟩, pool := ⟨[]⟩, mc := { d.mc with stage := .hbmTrain } }

/-- HBM_TRAIN: a stack that fails has its port fenced; `lanes` are the lanes repaired (MEM_CAP). -/
def Dev.hbmTrain (d : Dev) (failed : BitVec 8) (lanes : List Byte) : Dev :=
  if d.mc.stage ≠ .hbmTrain then d else
  let d := (List.range 8).foldl (fun d n =>
    d.setPreg (.mem n) 0x84 (packFields 32 [(0, if bit failed n then 0 else 64), (8, (lanes.getD n 0).toNat)])) d
  let d := (onesOf failed).foldl (fun d n => d.bootFence (.mem n)) d
  { d with mc := { d.mc with memFail := failed, stage := .hbmZero } }

/-- HBM_ZERO: every byte of every trained stack is written zero. -/
def Dev.hbmZero (d : Dev) : Dev :=
  if d.mc.stage ≠ .hbmZero then d else { d with hbm := Mem.empty, mc := { d.mc with stage := .tileFw } }

/-- A core counts as fenced when it, one of its tiles or its home memory port is fenced (R577). -/
def Dev.countsFenced (d : Dev) (c : Nat) : Bool :=
  d.isFenced (.core c) || d.isFenced (.mem c) || (coreTiles c).any fun t => d.isFenced (.tile t)

/-- A unit that fails its start-up checkrun: FAILED, fenced at once, CHECKRUN_FAIL. -/
def Dev.bootFail (d : Dev) (u : FUnit) : Dev :=
  if d.flt.health.getD u.code 0 = 2 then d else ((d.setFailed u).bootFence u).raise .flt 5

/-- TILE_FW: the tile firmware is loaded and every tile of every enabled core runs its checkrun, with the memory-port part
unless the home port is fenced. The operands are those of CHECKRUN. -/
def Dev.tileFw (d : Dev) (ver : Word) (fails memFails : List Nat) (left top : List (Nat × List Byte)) : Dev :=
  if d.mc.stage ≠ .tileFw then d else
  let tested (t : Nat) : Bool := t < 1632 && d.coreEnabled (tileCore t) && !d.isSpare t
  let memPart (c : Nat) : Bool := c < 8 && d.coreEnabled c && !d.isFenced (.mem c)
  let bad := fails.filter tested
  let cores := (List.range 8).filter fun c => memPart c && memFails.any fun t => tested t && tileCore t == c
  let lefts := left.filter fun x => tested x.1
  let tops := top.filter fun x => memPart x.1
  let d := lefts.foldl (fun d x => d.modTile x.1 fun t => { t with spad := t.spad.writeBytes 0x38000 (x.2.take 0x10000) }) d
  let d := tops.foldl (fun d x => { d with hbm := d.hbm.writeBytes ((x.1 + 1) * 2 ^ 36 - 2 ^ 20) (x.2.take (2 ^ 20)) }) d
  let d := bad.foldl (fun d t => d.bootFail (.tile t)) d
  let d := cores.foldl (fun d c => d.bootFail (.core c)) d
  let good (u : FUnit) : Bool := d.flt.health.getD u.code 0 ≠ 2
  let ok := bitsOf 8 fun c => d.coreEnabled c && good (.core c) && (coreTiles c).all fun t => good (.tile t)
  { d with mc := { d.mc with tfwVer := ver, coresOk := ok, stage := .hostEn } }

/-- CONFIGURATION_REQUEST: Request Retry Status before HOST_EN; the first request that HOST_EN completes ends start-up, `ms` after
PERST_N rose. A lost rail leaves no host port to answer (R663). -/
def Dev.configRequest (d : Dev) (ms : Nat) : Dev :=
  if !d.pins.pwrOk || !d.pins.perstN || d.mc.railLost then d else
  match d.mc.stage with
  | .hostEn => ({ d with mc := { d.mc with stage := .ready, afterReset := false, bootTime := BitVec.ofNat 32 ms } }).emit (.config true)
  | .ready => d.emit (.config true)
  | .failed => d.emit (.config true)
  | .recovery => d.emit (.config true)
  | _ => d.emit (.config false)

/-! ### Other commands -/

/-- JTAG_TRST: the TAP returns to Test-Logic-Reset, which selects IDCODE. -/
def Dev.jtagTrst (d : Dev) : Dev := { d with pins := { d.pins with tapReset := true } }

/-- FIRMWARE_UPDATE: a verified image is activated and recorded; it runs from the next boot. `cleared` are the FAILED units
that the update clears from the MC's store (R579). -/
def Dev.firmwareUpdate (d : Dev) (tileFirmware : Bool) (ver : Word) (cleared : List Nat) : Dev :=
  if !d.pins.pwrOk || !d.evr.ready then d else
  let old := if tileFirmware then d.mc.tfwVer else d.mc.mcVer
  let data := wordBytes old ++ wordBytes ver ++ bytesLE 1 (b2n tileFirmware)
  let d := { d with mc := { d.mc with failedStore := d.mc.failedStore.filter fun u => !cleared.contains u } }
  let (d, lost) := d.pushEvent (d.event 2 0 3 0 false data true)
  if lost then d.raise .evr 1 else d

/-- SMBUS_FALLBACK: no dynamic address within 50 ms of stage 2. -/
def Dev.smbusFallback (d : Dev) : Dev := if d.mainUp then { d with mc := { d.mc with smbus := true } } else d

/-! ### Pins and the management interfaces (R666, R668, R711) -/

/-- The package's I3C static address, which is also its SMBus address (R668). -/
def Dev.staticAddr (d : Dev) : Nat := 0x50 + d.mc.i3cAddr.toNat

/-- IDCODE of the TAP (R711). -/
def Dev.idcode (d : Dev) : Word := if d.fuses.b0 then 0x10A728EF#32 else 0x00A728EF#32

/-- Bits of the TAP's instruction register. -/
def tapIrBits : Nat := 8

/-- The register that the TAP shifts out after its reset. -/
def Dev.tapData (d : Dev) : Option Word := if d.pins.tapReset then some d.idcode else none

/-- The outputs of R666. -/
inductive OutPin where
  | present | thermtrip | fault | i3cSda | spi | jtagTdo | lull | throttle | fabric (port : Nat) | pcie
deriving DecidableEq, Repr

/-- How an output stands: tied to ground in the package, released, held low, high-impedance, driven by its interface, electrically idle,
or sending. -/
inductive PinDrive where
  | grounded | released | low | highZ | driven | idle | sending
deriving DecidableEq, Repr

/-- What an output of the package does (R666): with PWR_OK low, with the main domain in reset, and after start-up. The PCIe link of a
RESET action's hold stays up (R571, R674). -/
def Dev.pin (d : Dev) (o : OutPin) : PinDrive :=
  let off := !d.pins.pwrOk
  let low (b : Bool) : PinDrive := if b && !off then .low else .released
  match o with
  | .present => .grounded
  | .thermtrip => low d.mc.thermtrip
  | .fault => low d.faultLow
  | .i3cSda => if off then .released else .driven
  | .spi => if off then .highZ else .driven
  | .jtagTdo => if off then .highZ else .driven
  | .lull => low (d.fc.lulls && !d.mainInReset)
  | .throttle => low d.drivesThrottle
  | .fabric p => if off || d.mainInReset || (d.fport p).state = .disabled then .idle else .sending
  | .pcie => if off || !d.pins.perstN || d.mc.railLost || (d.mainInReset && !d.mc.afterReset && d.mc.stage = .hold) then .idle else .sending

end Sys2Proof.Machine
end

