-- ==== Sys2Proof/Machine/RegRead.lean ====
section
/-! DEFINITION. Reading registers (25 R677 to R694): every page and window through BAR0, the management interface and BAR4,
with the registers that are computed when they are read, the latched high words (R84), and the accesses that R628 refuses. -/

namespace Sys2Proof.Machine

/-! ### 64-bit registers -/

/-- Offsets of the page's 64-bit counters, as half-open ranges. -/
def Page.counters : Page → List (Nat × Nat)
  | .pwr => [(0xA0, 0xC8), (0x100, 0x190)]
  | .flt => [(0xB8, 0xD8)]
  | .hif => [(0xC0, 0xF0)]
  | .rsl => [(0xD0, 0xE8)]
  | .mem _ => [(0x90, 0xB8)]
  | .fab => [(0x100, 0x140)]
  | .fport _ => [(0x100, 0x180)]
  | .core _ => [(0x110, 0x148)]
  | .sync _ => [(0xD8, 0x100)]
  | .stream _ => [(0x90, 0xB8)]
  | .queue _ => [(0xA8, 0xC0)]
  | .pool _ => [(0x90, 0xA8)]
  | .coll _ => [(0x90, 0xB8)]
  | .tile _ => [(0x100, 0x158)]
  | _ => []

/-- The offset lies in a 64-bit counter. CNT_FEC_CW_CORR stands every 16 bytes (R421). -/
def Page.isCounter (p : Page) (off : Nat) : Bool :=
  p.counters.any (fun r => r.1 ≤ off && off < r.2) ||
  match p with
  | .fport _ => 0x200 ≤ off && off < 0x280 && off % 16 < 8
  | _ => false

/-- What a counter of waiting cycles or forced grants shows (R359): nothing while no packet has passed that could have moved it;
CNT_EDGE_FULL stands in the cores of the edge routers alone. A counter of flits shows what has been counted. -/
def Dev.netCount (d : Dev) (c low : Nat) : DWord :=
  let n := d.noc.getD c 0
  if n = 0 || low < 0x130 || (low = 0x138 && !([0, 3, 4, 7].contains c)) then 0 else Config.timedCount (Page.base (.core c) + low) n

/-- The value of a 64-bit counter, which stops at its maximum. -/
def Dev.counterValue (d : Dev) (p : Page) (low : Nat) : DWord :=
  match p with
  | .core c => satAdd (d.ctr p low) (d.netCount c low).toNat
  | _ => d.ctr p low

/-- A retention entry, or an empty one. -/
def Dev.retEntry (d : Dev) (c e : Nat) : Retention := (d.retain.get? (16 * c + e)).getD { src := 0, dst := 0, len := 0 }

/-- The value of the 64-bit register whose low word stands at `off`, for a register that is not a counter. -/
def Dev.wideValue (d : Dev) (p : Page) (off : Nat) : Option DWord :=
  let stored := joinWords (d.preg p (off + 4)) (d.preg p off)
  match p with
  | .tmb => if off = 0x88 then some (BitVec.ofNat 64 d.now) else
    if (p.row? off).any (fun r => r.wide.isSome) then some stored else none
  | .fab => if off = 0xB0 then some stored else if (p.row? off).any (fun r => r.wide.isSome) then some stored else none
  | .tel => if off = 0x330 then some stored else if (p.row? off).any (fun r => r.wide.isSome) then some stored else none
  | .stream c =>
    if 0x200 ≤ off && off < 0x400 then
      let x := d.retEntry c ((off - 0x200) / 32)
      match off % 32 with
      | 0 => some x.src
      | 8 => some x.dst
      | 16 => some x.len
      | _ => none
    else none
  | _ => if (p.row? off).any (fun r => r.wide.isSome) then some stored else none

/-! ### Registers computed when read -/

/-- The block holds no work in flight (BLK_STAT.quiet). -/
def Dev.noWork (d : Dev) (p : Page) : Bool :=
  match p with
  | .tile t => (d.tile t).idle
  | .sync c => (d.syncs ++ d.syncHeld).all (fun f => f.core != c) && d.rels.all fun r => r.core != c
  | .stream c => d.runningCtxs c = []
  | .queue c => d.cellsUsed c = 0
  | .pool c => d.poolOps.cells.all fun x => x.1 / 262144 ≠ c || x.2 = []
  | .num c => d.baroFly.all fun x => x.1 != c
  | .coll c => d.colls.cells.all fun x => x.1 / 64 ≠ c || x.2.state ≠ .running
  | .mem n => d.portSegs n = 0
  | .fab => d.outReqs = [] && d.diePkts = [] && d.fabWait = [] && d.mirQ = []
  | .fport p => let x := d.fport p; x.retry = [] && x.vcs.cells.all fun v => v.2.tx = [] && v.2.rx = []
  | .rsl => d.rsl.phase = .idle && d.rsl.snap.isNone
  | .tel => d.posts = []
  | .hif => d.hif.held = [] && d.hif.rings.cells.all fun r => r.2.waiting.isNone
  | .flt => d.flt.active.isNone && d.flt.queue = []
  | .tmb => !d.fc.armed && d.tmb.reqs = []
  | _ => true

/-- Registers of the global page (R676, R689). -/
def Dev.readGlb (d : Dev) (off : Nat) : Word :=
  let m := d.mc
  if off = 0x80 then
    packFields 32 [(0, popCount d.fuses.coreMask), (4, d.stepping), (8, d.fuses.coreMask.toNat), (16, m.profile), (24, 0xFF)]
  else if off = 0x84 then loWord d.fuses.chipId
  else if off = 0x88 then hiWord d.fuses.chipId
  else if off = 0x90 then m.mcVer
  else if off = 0x94 then m.tfwVer
  else if off = 0xC0 then
    let code := match m.stage with
      | .off => 0 | .mcBoot => 1 | .fuse => 2 | .sramInit => 3 | .hbmTrain => 4 | .hbmZero => 5 | .tileFw => 6
      | .hostEn => 7 | .ready => 8 | .hold => 9 | .recovery => 14 | .failed => 15
    let ok := bitsOf 8 fun c => bit m.coresOk c && !d.countsFenced c
    packFields 32 [(0, code), (4, b2n m.slotB), (5, b2n m.fallback), (8, ok.toNat), (16, m.memFail.toNat)]
  else if off = 0xC4 then m.bootTime
  else if off = 0xC8 then BitVec.ofNat 32 m.cause
  else if off = 0xCC then m.resetCnt
  else d.preg .glb off

/-- The hottest stack's reading (PWR_TJ_MAX). -/
def Dev.hottestStack (d : Dev) : Nat := (sensors.filter isStack).foldl (fun m s => max m (d.sensor s)) 0

/-- Registers of the power page (R623). -/
def Dev.readPwr (d : Dev) (off : Nat) : Word :=
  let w := d.pwr
  if off = 0x80 then
    packFields 32 [(0, d.mc.cool.toNat), (2, d.mc.profile), (16, profileClock d.mc.profile)]
  else if off = 0x8C then
    packFields 32 [(0, w.clk), (12, b2n w.throttled), (13, b2n w.ext), (14, b2n w.temp), (15, b2n w.power), (16, b2n d.drivesThrottle)]
  else if off = 0x94 then
    let code := match w.calm with | .run => 0 | .entering => 1 | .calm => 2 | .waking => 3
    packFields 32 [(0, code), (2, b2n w.refused)]
  else if off = 0x98 then BitVec.ofNat 32 (w.avgW % 65536)
  else if off = 0x9C then packFields 32 [(0, d.hottest), (16, d.hottestStack)]
  else if 0x200 ≤ off then
    let s := (off - 0x200) / 4
    packFields 32 [(0, d.sensor s), (12, b2n (w.failed.getD s false))]
  else if off = 0x90 then 0
  else d.preg .pwr off

/-- A health register: sixteen units from `first`, of `n` in all. -/
def Dev.healthWord (d : Dev) (first n : Nat) (u : Nat → FUnit) : Word :=
  packFields 32 ((List.range 16).map fun j => (2 * j, if first + j < n then d.flt.health.getD (u (first + j)).code 0 else 0))

/-- A page holds a set sticky bit (FLT_PEND). -/
def Dev.pending (d : Dev) (i : Nat) : Bool :=
  match pageOf i with
  | some p => d.preg p blkSticky != 0
  | none => false

/-- Registers of the collector page (R583). -/
def Dev.readFlt (d : Dev) (off : Nat) : Word :=
  let f := d.flt
  if off = 0x84 then packFields 32 [(0, b2n f.active.isSome), (1, f.queue.length), (6, b2n d.faultLow)]
  else if off = 0x88 then match f.active with | some a => a.ident | none => 0
  else if off = 0x94 then packFields 32 [(1, b2n f.refused)]
  else if off = 0x9C then f.railInfo
  else if off = 0xA0 then f.suspectInfo
  else if off = 0xAC then f.resetId
  else if off = 0xB0 then
    bitsOf 32 fun i => if i < 8 then d.isFenced (.core i) else if i < 16 then d.isFenced (.mem (i - 8))
      else i < 28 && d.isFenced (.port (i - 16))
  else if 0x100 ≤ off && off < 0x180 then f.cnt.getD (32 * fld (d.preg .flt 0x98) 0 13 + (off - 0x100) / 4) 0
  else if 0x800 ≤ off && off < 0x998 then d.healthWord (16 * ((off - 0x800) / 4)) 1632 .tile
  else if off = 0x9A0 then d.healthWord 0 8 .core
  else if 0xC00 ≤ off then bitsOf 32 fun j => d.pending (32 * ((off - 0xC00) / 4) + j)
  else if off = 0x8C then 0
  else d.preg .flt off

/-- Four bytes of a list as a word. -/
def wordAt (bs : List Byte) (i : Nat) : Word := BitVec.ofNat 32 (ofBytesLE ((bs.drop i).take 4))

/-- Registers of the recorder page (R594, R596, R597). -/
def Dev.readEvr (d : Dev) (off : Nat) : Word :=
  let e := d.evr
  if off = 0x80 then packFields 32 [(0, b2n e.ready), (1, b2n e.fixedFull), (2, b2n (8 ≤ e.denials)), (3, b2n e.key.isNone)]
  else if off = 0x84 then match e.newest with
    | some (slot, seq) => packFields 32 [(0, slot), (16, seq)]
    | none => 0
  else if off = 0x88 then e.minutes
  else if off = 0x8C then e.cycles
  else if off = 0x98 then e.drops
  else if 0xA0 ≤ off && off < 0xC0 then match e.chal with
    | some bs => wordAt bs (off - 0xA0)
    | none => 0
  else if off = 0xEC then packFields 32 [(1, b2n e.cmdOk), (2, b2n e.cmdDenied)]
  else if 0x800 ≤ off then match e.win[(off - 0x800) / 64]? with
    | some bs => wordAt bs ((off - 0x800) % 64)
    | none => 0xFFFFFFFF#32
  else if off = 0x90 then d.preg .evr off
  else 0

/-- Registers of the time-base page (R388, R390); arm reads 1 while the forecast is armed and no end has been asked for. -/
def Dev.readTmb (d : Dev) (off : Nat) : Word :=
  let m := d.tmb
  let f := d.fc
  if off = 0x84 then packFields 32 [(0, m.state.code), (3, b2n m.present)]
  else if off = 0x98 then m.offset
  else if off = 0x9C then m.delay
  else if off = 0x200 then BitVec.ofNat 32 (b2n (f.armed && !f.stopping))
  else if off = 0x204 then packFields 32 [(0, b2n f.armed), (1, b2n f.slip), (2, f.err), (16, f.errSlot)]
  else if off = 0x218 then if f.armed then f.sstep else d.preg .tmb off
  else if off = 0x21C then match f.slots.getLast? with
    | some s => if f.armed then BitVec.ofNat 32 s.slot else 0
    | none => 0
  else if off = 0x224 then f.minMargin
  else if off = 0x228 then BitVec.ofNat 32 f.minSlot
  else d.preg .tmb off

/-- FGP_STAT and the stored registers of the telemetry page (R511). -/
def Dev.readTel (d : Dev) (off : Nat) : Word :=
  if off = 0x320 then
    let closing := d.rsl.phase = .drain
    packFields 32 [(0, d.fgpEntries.length), (16, d.rsl.complete), (25, b2n (closing && !bit d.rsl.step 0)),
                   (26, b2n (closing && bit d.rsl.step 0))]
  else d.preg .tel off

/-- Registers of the host page (R657). -/
def Dev.readHif (d : Dev) (off : Nat) : Word :=
  if off = 0x84 then d.hif.link
  else if off = 0xA0 then BitVec.ofNat 32 d.hif.dlvTail
  else if 0x400 ≤ off then
    let r := d.ring ((off - 0x400) / 32)
    match (off - 0x400) % 32 with
    | 0x18 => packFields 32 [(0, r.head), (16, b2n (r.waiting.isSome || r.copy.isSome)), (17, b2n r.heldCpl.isSome), (18, b2n r.fetchErr)]
    | 0x1C => r.seq
    | _ => d.preg .hif off
  else d.preg .hif off

/-- Registers of the resilience page (R552). -/
def Dev.readRsl (d : Dev) (off : Nat) : Word :=
  let r := d.rsl
  if off = 0x88 then packFields 32 [(0, r.reruns), (2, b2n (r.phase ≠ .idle)), (3, b2n r.keyHeld)]
  else if off = 0xB0 then packFields 32 [(0, r.acked.toNat), (4, r.failed.toNat)]
  else if off = 0xC8 then packFields 32 [(0, b2n r.snap.isSome), (1, b2n r.snapFailed)]
  else if off = 0x84 || off = 0xAC then 0
  else d.preg .rsl off

/-- Registers of a memory-port page (R691). -/
def Dev.readMem (d : Dev) (n off : Nat) : Word :=
  if off = 0x80 then
    packFields 32 [(0, b2n (fld (d.preg (.mem n) 0x84) 0 8 ≠ 0)), (1, b2n (d.pwr.calm == .calm)),
                   (2, b2n (d.pwr.hot.getD (38 + n) false)), (3, d.fc.debt.getD n 0)]
  else if off = 0x88 then BitVec.ofNat 32 (d.portSegs n)
  else d.preg (.mem n) off

/-- Registers of the fabric page (R458). -/
def Dev.readFab (d : Dev) (off : Nat) : Word :=
  if off = 0x90 then packFields 32 [(0, d.routeSet), (4, b2n (bit (d.preg .fab 0x8C) 0))]
  else if off = 0x9C then BitVec.ofNat 32 d.tkoStat
  else if off = 0x98 || off = 0xC4 then 0
  -- the match of an entry of kind 1 is a port: its other bits read 0
  else if 0x800 ≤ off && off % 8 = 0 && bit (d.preg .fab (off + 4)) 4 then d.preg .fab off &&& 0xFFFF000F#32
  else d.preg .fab off

/-- Registers of a port page (R421). -/
def Dev.readFport (d : Dev) (p off : Nat) : Word :=
  let x := d.fport p
  if off = 0x84 then
    packFields 32 [(0, x.state.code), (3, b2n x.rxHold), (4, b2n x.fast), (5, b2n (d.isFenced (.port p))), (8, x.signal.toNat),
                   (16, x.lock.toNat)]
  else if off = 0x8C then match x.peer with
    | some (pos, port) => packFields 32 [(0, pos), (16, port)]
    | none => 0
  else if off = 0x90 then x.peerInc.getD 0
  else if off = 0x94 then d.inc
  else if off = 0x98 then packFields 32 [(0, x.nextSeq.toNat), (16, x.oldest.toNat)]
  else if off = 0x9C then BitVec.ofNat 32 x.expect.toNat
  else if off = 0xA0 then BitVec.ofNat 32 x.retry.length
  else if off = 0xA4 then BitVec.ofNat 32 (d.outstanding p)
  else if off = 0xAC then BitVec.ofNat 32 (x.rtt % 65536)
  else if 0xB0 ≤ off && off < 0xC0 then BitVec.ofNat 32 ((x.vc ((off - 0xB0) / 4)).avail % 65536)
  else if off = 0x88 then 0
  else d.preg (.fport p) off

/-- Registers of a core control page (R359): the repair map is fused. -/
def Dev.readCore (d : Dev) (c off : Nat) : Word :=
  let six (r0 : Nat) : Word := packFields 32 ((List.range 6).map fun i => (5 * i, d.fuses.spareOf c (r0 + i)))
  if off = 0x104 then six 0
  else if off = 0x108 then six 6
  else d.preg (.core c) off

/-- Code of a fabric state (R332, R340). -/
def FabState.code : FabState → Nat
  | .idle => 0 | .counting => 1 | .sent => 2 | .releasing => 3

/-- Registers of a sync page (R340). -/
def Dev.readSync (d : Dev) (c off : Nat) : Word :=
  let sel := d.preg (.sync c) 0xC0
  let b := fld sel 0 8
  let row := fld sel 8 4
  if off = 0x88 then BitVec.ofNat 32 ((d.watches.filter fun w => w.core == c).length % 16384)
  else if off = 0x9C then BitVec.ofNat 32 (b2n (d.hopBusy c))
  else if off = 0xC4 then packFields 32 [(0, (d.barSlot c b false row).count), (8, (d.barSlot c b true row).count)]
  else if off = 0xC8 then
    packFields 32 [(0, (d.barSlot c b false lvlCore).mask.toNat), (16, (d.barSlot c b true lvlCore).mask.toNat)]
  else if off = 0xCC then
    if c ≠ d.core0 then 0 else
    packFields 32 [(0, (d.barSlot c b false lvlDie).mask.toNat), (8, (d.barSlot c b true lvlDie).mask.toNat),
                   (16, (d.fabSlot b false).state.code), (19, (d.fabSlot b true).state.code)]
  else if off = 0xD0 then d.round c b (if d.barScope c b = 1 then row else lvlCore)
  else if off = 0x8C || off = 0x98 || off = 0xAC || off = 0x7F8 || off = 0x7FC then 0
  else d.preg (.sync c) off

/-- Registers of a stream page (R277). -/
def Dev.readStream (d : Dev) (c off : Nat) : Word :=
  if off = 0x88 then BitVec.ofNat 32 (d.runningCtxs c).length
  else if 0x200 ≤ off then BitVec.ofNat 32 (b2n (d.retain.get? (16 * c + (off - 0x200) / 32)).isSome)
  else if off = 0x8C then 0
  else d.preg (.stream c) off

/-- Registers of a queue page (R306); QINJ_STAT.busy is 1 while an injection waits for the network (R301). -/
def Dev.readQueue (d : Dev) (c off : Nat) : Word :=
  if off = 0x88 then BitVec.ofNat 32 (d.cellsUsed c)
  else if off = 0xA0 then (if (d.hostInj.get? c).isSome then 1 else 0)
  else if off = 0x94 || off = 0x9C then 0
  else d.preg (.queue c) off

/-- NUM_STAT and the stored registers of a numerics page (R212). A bank that a held bundle still carries is being delivered. The model reads
the ratio accumulators at once at COMMIT_EFFECT, and shows ratio_busy from COMMIT_BEGIN on, while a closed entry exists (DESIGN CHOICE, log
entry 15). -/
def Dev.readNum (d : Dev) (c off : Nat) : Word :=
  let busy (par : Bool) : Bool :=
    d.baroFly.any (fun x => x.1 == c && x.2.parity == par) || (d.hif.held ≠ [] && bit (d.preg .rsl 0xB4) 0 == par)
  let ratios := d.tiles.cells.any fun x => tileCore x.1 == c && x.2.ratio.cells.any fun r => r.2.closed
  if off = 0x90 then packFields 32 [(0, b2n (busy false)), (1, b2n (busy true)), (2, b2n ratios)]
  else d.preg (.num c) off

/-- COLL_STATd.state. -/
def CollState.code : CollState → Nat
  | .idle => 0 | .running => 1 | .done => 2 | .aborted => 3 | .refused => 4

/-- Registers of a collective page (R487). -/
def Dev.readColl (d : Dev) (c off : Nat) : Word :=
  if off = 0x84 then
    BitVec.ofNat 32 (d.colls.cells.filter fun x => x.1 / 64 = c && x.2.state = .running).length
  else if 0x100 ≤ off && off < 0x200 then
    let r := d.collRun c ((off - 0x100) / 4)
    packFields 32 [(0, r.state.code), (8, r.code), (16, b2n r.sat), (17, b2n r.nonfinite)]
  else if 0x200 ≤ off then
    let r := d.collRun c ((off - 0x200) / 8)
    BitVec.ofNat 32 ((if off % 8 = 0 then r.ord else r.lrank) % 2 ^ 20)
  else d.preg (.coll c) off

/-- A 32-bit register at or above 0x080. -/
def Dev.readPlain (d : Dev) (p : Page) (off : Nat) : Word :=
  match p with
  | .glb => d.readGlb off | .pwr => d.readPwr off | .flt => d.readFlt off | .evr => d.readEvr off
  | .tmb => d.readTmb off | .tel => d.readTel off | .hif => d.readHif off | .rsl => d.readRsl off
  | .mem n => d.readMem n off | .fab => d.readFab off | .fport q => d.readFport q off
  | .core c => d.readCore c off | .sync c => d.readSync c off | .stream c => d.readStream c off
  | .queue c => d.readQueue c off | .pool c => d.preg (.pool c) off | .num c => d.readNum c off
  | .coll c => d.readColl c off | .tile t => d.readTilePlain t off
  | .debug c => if off = 0x88 then 0 else d.preg (.debug c) off

/-- A word of a page that answers. -/
def Dev.readPage (d : Dev) (path : Path) (p : Page) (off : Nat) : Dev × Word :=
  let low := off / 8 * 8
  if off < 0x80 then (d, d.readHeader p off (d.noWork p))
  else if p.isCounter off then d.read64 path (p.base + low) (d.counterValue p low) (off % 8 = 4)
  else match d.wideValue p low with
    | some x => d.read64 path (p.base + low) x (off % 8 = 4)
    | none => (d, d.readPlain p off)

/-- A word of a window (R688): tags, core queues, collective descriptors, objects, stream descriptors, forecast records and
fingerprint entries. -/
def Dev.readWindow (d : Dev) (o : Nat) : Word :=
  match placeOf o with
  | .cqWindow c off => if off % 8 = 4 then BitVec.ofNat 32 (d.coreQOf c (off / 8)).length else d.rd o
  | .syncWindow c off =>
    if off % 8 = 4 then setBit (d.rd o) 15 (d.watches.any fun w => w.core == c && w.obj == off / 8) else d.rd o
  | _ => d.rd o

/-! ### Accesses (R628, R680) -/

/-- An access that R628 refuses: counted, recorded and raised. -/
def Dev.badAccess (d : Dev) (o : Nat) (write reserved : Bool) : Dev :=
  ((d.setPreg .glb 0xB8 (satAdd (d.preg .glb 0xB8) 1)).setPreg .glb 0xBC
    (packFields 32 [(0, o % 2 ^ 26), (26, b2n write), (27, b2n reserved)])).raise .glb 1

/-- The core of a window answers as its pages do. -/
def Place.core? : Place → Option Nat
  | .tagWindow c _ => some c | .cqWindow c _ => some c | .collWindow c _ => some c
  | .syncWindow c _ => some c | .streamWindow c _ => some c
  | _ => none

/-- A window answers while every page does and its core is enabled (R673, R674, R686). -/
def Dev.windowAnswers (d : Dev) (pl : Place) : Bool :=
  d.mc.stage.full && match pl.core? with
    | some c => d.coreEnabled c
    | none => true

/-- A read of BAR0 or through the management interface, of four aligned bytes at `o`. -/
def Dev.readReg (d : Dev) (path : Path) (o : Nat) : Dev × Word :=
  match placeOf o with
  | .reserved => (d.badAccess o false true, 0)
  | .page p off =>
    if !d.pageUp p then (d, 0)
    else if !p.hasReg off then (d.badAccess o false true, 0)
    else d.readPage path p off
  | pl => if d.windowAnswers pl then (d, d.readWindow o) else (d, 0)

/-- Vectors with a pending message, 32 to a word (R627). -/
def Dev.pbaWord (d : Dev) (i : Nat) : Word := bitsOf 32 fun j => (d.hif.msix.getD (32 * i + j) MsixEntry.reset).pend

/-- A read of BAR4 (R627): doorbells read 0. -/
def Dev.readBar4 (d : Dev) (o : Nat) : Dev × Word :=
  if !d.hostUp then (d, 0)
  else if o < 0x40000 then if o % 0x1000 < 8 then (d, 0) else (d.badAccess o false true, 0)
  else if 0x80000 ≤ o && o < 0x88000 then (d, d.msixRead (o - 0x80000))
  else if 0x88000 ≤ o && o < 0x88100 then (d, d.pbaWord ((o - 0x88000) / 4))
  else if 0x1000000 ≤ o && o < 0x2000000 then (d, d.resultWord ((o - 0x1000000) / 0x1000) (o % 0x1000))
  else (d.badAccess o false true, 0)

/-- COUNTER_LATCH_READ: a read of `size` bytes through a path, whose value goes to the reader; an access that is not one aligned word
reads 0 (R628). A tile's local page reaches its own tile page only (R75, R677). -/
def Dev.readCmd4 (d : Dev) (path : Path) (o size : Nat) : Dev :=
  if d.mc.stage = .off then d
  else match path with
    | .tileLocal => match placeOf o with
      | .page (.tile t) off => if size = 4 && o % 4 = 0 && d.pageUp (.tile t) then (d.readTile .tileLocal t off).1 else d
      | _ => d
    | p =>
      if size ≠ 4 || o % 4 ≠ 0 then (d.badAccess o false false).emit (.readData (List.replicate size 0))
      else
        let (d, w) := if p = .bar4 then d.readBar4 o else if 2 ^ 26 ≤ o then (d.badAccess o false true, 0) else d.readReg p o
        d.emit (.readData (wordBytes w))

end Sys2Proof.Machine
end

