-- ==== Sys2Proof/Machine/RegWrite.lean ====
section
/-! DEFINITION. Writing registers (25 R677 to R694): stored fields and the conditions of R680, held low words (R681), the
block header with BLK_CTRL.en and soft_reset (R682, R684), windows (R688) and BAR4, with every register whose write acts. -/

namespace Sys2Proof.Machine

/-! ### Conditions (R680) -/

/-- Physical core of a page that belongs to one. -/
def Page.coreNo : Page → Nat
  | .core c => c | .sync c => c | .stream c => c | .queue c => c | .pool c => c | .num c => c | .coll c => c | .debug c => c
  | .tile t => tileCore t
  | _ => 0

/-- Both run bits of a tile are 0. -/
def Dev.tileHalted (d : Dev) (t : Nat) : Bool := !(d.tile t).fg.run && !(d.tile t).bg.run

/-- The condition of a row holds. -/
def Dev.guardOk (d : Dev) (p : Page) (g : Guard) : Bool :=
  match g with
  | .always => true
  | .tileHalted => match p with | .tile t => d.tileHalted t | _ => true
  | .coreHalted => d.coreHalted p.coreNo
  | .packageHalted => d.allHalted
  | .poolFree => d.coreHalted p.coreNo && d.cellsUsed p.coreNo = 0
  | .deliveryOff => !bit (d.preg .hif 0x80) 1
  | .ringOff r => !d.ringOn r
  | .noStage => d.runningCtxs p.coreNo = []
  | .haltedDisarmed => d.allHalted && !d.fc.armed
  | .disarmed => !d.fc.armed
  | .haltedOrHeld => d.allHalted || d.rsl.keyHeld

/-- The written word with every field that holds a reserved encoding at its old value (R16). -/
def keepCaps {n : Nat} (caps : List Cap) (old w : BitVec n) : BitVec n :=
  caps.foldl (fun w c =>
    if c.least ≤ fld w c.lo c.len && fld w c.lo c.len ≤ c.most then w else setFld w c.lo c.len (fld old c.lo c.len)) w

/-- The word after a write: RW bits take the written value, W1C bits written 1 clear, the others stay. -/
def RegRow.merge (r : RegRow) (old w : Word) : Word := (old &&& ~~~ r.rw &&& ~~~ (w &&& r.w1c)) ||| (w &&& r.rw)

/-! ### Held low words (R681) -/

/-- Number of a path (GLB_IGN_ADDR). -/
def pathNo : Path → Nat
  | .bar0 => 0 | .mgmt => 1 | .tileLocal => 2 | .bar4 => 3

/-- Any write on a path ends the hold of its low word. -/
def Dev.dropHeld (d : Dev) (path : Path) : Dev := { d with heldLo := d.heldLo.erase (pathNo path) }

/-- A write of a stored register. `lo` is the low word held for this high word, 0 where there is none. -/
def Dev.storeRow (d : Dev) (path : Path) (p : Page) (off : Nat) (r : RegRow) (w lo : Word) : Dev :=
  let o := p.base + off
  match r.wide with
  | some false => { d with heldLo := d.heldLo.set (pathNo path) (o, w) }
  | some true =>
    if !d.guardOk p r.guard then d.ignored path o else
    let loRow := (p.row? (off - 4)).getD r
    let old := joinWords (d.preg p off) (d.preg p (off - 4))
    let new := keepCaps r.caps old (joinWords w lo)
    (d.setPreg p (off - 4) (loRow.merge (loWord old) (loWord new))).setPreg p off (r.merge (hiWord old) (hiWord new))
  | none =>
    if !d.guardOk p r.guard then d.ignored path o
    else d.setPreg p off (r.merge (d.preg p off) (keepCaps r.caps (d.preg p off) w))

/-! ### Block control (R682, R684) -/

/-- The page's 64-bit counters, and a port's FEC counters, return to 0. -/
def Dev.zeroCounters (d : Dev) (p : Page) : Dev :=
  { d with
    ctrs := d.ctrs.keep fun o _ => o / 0x1000 != p.base / 0x1000
    noc := match p with
      | .core c => d.noc.erase c
      | _ => d.noc
    regs := match p with
      | .fport _ => d.regs.keep fun o _ => !(o / 0x1000 == p.base / 0x1000 && 0x200 ≤ o % 0x1000 && o % 0x1000 < 0x280)
      | _ => d.regs }

/-- The condition of a soft reset (R684); none where soft_reset has no effect. -/
def Dev.softOk (d : Dev) (p : Page) : Option Bool :=
  match p with
  | .tile t =>
    some (d.tileHalted t && (d.tile t).ports.cells.all fun x => !(x.2.bound && d.ctxState (tileCore t) x.2.stage = 1))
  | .sync c => some (d.coreHalted c)
  | .stream c => some (d.runningCtxs c = [])
  | .queue c => some (d.coreHalted c)
  | .coll c => some (d.colls.cells.all fun x => x.1 / 64 ≠ c || x.2.state ≠ .running)
  | .num c => some (d.coreHalted c)
  | .mem n => some (!d.pageOn (.mem n) && d.portSegs n = 0)
  | .fport q => some ((d.fport q).state = .disabled)
  | .debug _ => none
  | _ => some true

/-- A tile after its soft reset: memories, the queue table and what belongs to other units stay. -/
def Tile.softReset (x : Tile) : Tile :=
  { x with fg := { Ctx.reset with watches := x.fg.watches }, bg := { Ctx.reset with watches := x.bg.watches }
           sel := none, switching := 0, slots := [], groups := ⟨[]⟩, wcb := [], lwatch := ⟨[]⟩, ports := ⟨[]⟩ }

/-- Spill mode ends at every queue of a tile (R684). -/
def Tile.endSpill (x : Tile) : Tile :=
  (List.range 16).foldl (fun x q => if x.qSpilling q then x.setQStat q (x.qCount q) false 0 else x) x

/-- The effect of a soft reset (R684). -/
def Dev.softEffect (d : Dev) (p : Page) : Dev :=
  let d := d.zeroCounters p
  match p with
  | .tile t => d.modTile t Tile.softReset
  | .sync c => (d.watchClear c 1).barReset c 0x100
  | .stream c =>
    let lo := coreBase c + 0x20000
    (({ d with regs := d.regs.keep fun o _ => !(lo ≤ o && o < lo + 0x10000 && 56 ≤ o % 64) }).retClear c)
  | .queue c =>
    let d := { d with
      spilled := d.spilled.keep fun k _ => tileCore (k / 16) ≠ c
      coreQ := d.coreQ.keep fun k _ => k / 1024 ≠ c
      hostInj := d.hostInj.erase c
      tiles := d.tiles.mapVals fun t x => if tileCore t = c then x.endSpill else x }
    let d := ((d.setPreg (.queue c) 0x8C 0).setPreg (.queue c) 0x90 0).setPreg (.queue c) 0x98 0
    -- the messages that wait are evaluated again under the queues' new state (R286)
    d.ingress.cells.foldl (fun d x => if tileCore (x.1 / 2) = c then d.retryIngress (x.1 / 2) (x.1 % 2 = 1) else d) d
  | .coll c => { d with colls := d.colls.mapVals fun k r => if k / 64 = c then { r.cleared with state := .idle } else r }
  | .num c => d.discardCounts c
  | .fport q => d.modPort q fun x => { x with fast := false }
  | _ => d

/-- BLK_CTRL.en takes a value: the effect of each block's chapter. -/
def Dev.setEn (d : Dev) (p : Page) (en : Bool) : Dev :=
  let was := d.pageOn p
  let d := d.setPreg p blkCtrl (BitVec.ofNat 32 (b2n en))
  match p, en with
  | .flt, true => if was then d else d.fltOn
  | .rsl, true => if was then d else d.ksStart.snapNext
  | .queue _, true => d.takeInjections
  | .fab, true => if was then d else d.fabOn
  | .fport q, true => if !was && bit (d.preg (.fport q) 0x80) 0 then d.portOn q else d
  | .fport q, false => d.portOff q
  | .tmb, false => if d.fc.armed then d.disarm else d
  | .stream c, false => d.stopAllStages c
  | .tile t, false => d.modTile t Tile.flushAll
  | _, _ => d

/-- A write of BLK_CTRL: soft_reset first, and nothing where its condition fails (R680, R684). -/
def Dev.blkCtrlWrite (d : Dev) (path : Path) (p : Page) (w : Word) : Dev :=
  match (if bit w 1 then d.softOk p else none) with
  | none => d.setEn p (bit w 0)
  | some true =>
    let d := d.softEffect p
    ({ d with softBusy := if d.softBusy.contains p.index then d.softBusy else d.softBusy ++ [p.index] }).setEn p (bit w 0)
  | some false => d.ignored path (p.base + blkCtrl)

/-- A write of a header register (R559, R560, R682). -/
def Dev.headerWrite (d : Dev) (path : Path) (p : Page) (off : Nat) (w : Word) : Dev :=
  if off = blkCtrl then d.blkCtrlWrite path p w
  else match p.headerRow off with
    | none => d
    | some r =>
      let old := d.preg p off
      let d' := d.setPreg p off (r.merge old w)
      if blkDew0 ≤ off && off ≤ 0x3C && ((w ^^^ old) &&& 0xFFFDFFFF#32) != 0 then d'.dewEnd p.index ((off - blkDew0) / 4) else d'

/-! ### Registers whose write acts -/

/-- A write of a tile register (R75, R79, R81, R82, R687). -/
def Dev.tileWrite (d : Dev) (path : Path) (t off : Nat) (w : Word) : Option Dev :=
  if off = 0x88 then some (d.writeCtxCtrl t w)
  else if off = 0x90 || off = 0x94 then
    let bg := off = 0x94
    some (if (d.ctx t bg).run then d else d.modCtx t bg fun c => { c with pc := fld w 0 10 })
  else if off = 0x98 then
    if d.isSpare t then some d
    else some (d.guarded path (.tile t) 0x98 (d.tileHalted t) fun d => d.setPreg (.tile t) 0x98 (BitVec.ofNat 32 (min (fld w 0 11) 1024)))
  else if off = 0xA8 || off = 0xAC then some (d.clearFp t (off = 0xAC) w)
  else if off = 0xB0 || off = 0xB4 then
    some (if bit w 31 then d.modCtx t (off = 0xB4) fun c => { c with trap := 0 } else d)
  else if off = 0xFC then some (d.cntWrite t w)
  else none

/-- RQ_CMD (R458): a host action where it takes effect (R495). -/
def Dev.rqCmd (d : Dev) (w : Word) : Dev :=
  if !d.rqOk then d else
  match fld w 0 2 with
  | 0 => d.hostAct.rqRead
  | 1 => d.hostAct.rqWrite
  | 2 => d.hostAct.rqAdd
  | _ => d

/-- FAB_CTRL (R459): rs_idle and ttl change only while every tile is halted and the forecast is disarmed. -/
def Dev.fabCtrl (d : Dev) (path : Path) (w : Word) : Dev :=
  let old := d.preg .fab 0x8C
  d.guarded path .fab 0x8C ((w ^^^ old) &&& 0x3FF0#32 == 0 || d.guardOk .fab .haltedDisarmed) fun d =>
    d.setPreg .fab 0x8C (w &&& 0x3FF1#32)

/-- FP_CMD (R413, R418). -/
def Dev.fpCmd (d : Dev) (p : Nat) (w : Word) : Dev :=
  let d := if bit w 0 then d.retrain p else d
  if bit w 1 then d.flushPort p else d

/-- HOP_CMD (R323); a fenced unit refuses it (R567). -/
def Dev.hopCmd (d : Dev) (c : Nat) (w : Word) : Dev :=
  if d.hopBusy c || d.isFenced (.core c) then d else
  match fld w 0 2 with
  | 0 => d.hostAct.hopAdd c
  | 1 => d.hostAct.hopSet c
  | _ => d

/-- SYNC_FAB_PARENT and SYNC_FAB_CHILDREN (R341): in logical core 0 another tree's children are not known yet. -/
def Dev.treeWrite (d : Dev) (c off : Nat) (w : Word) : Dev :=
  let d := d.setPreg (.sync c) off (w &&& (if off = 0xA4 then 0x1FFFF#32 else 0x7F#32))
  if c = d.core0 then { d with fc := { d.fc with kids := [] } } else d

/-- FORCE_CMD (R338). -/
def Dev.forceCmd (d : Dev) (c : Nat) (mgmt : Bool) (w : Word) : Dev :=
  match fld w 0 2 with
  | 0 => d.forceSet c mgmt
  | 1 => d.forceAdd c mgmt
  | 2 => d.forceRelease c mgmt (fld w 4 8) (bit w 12)
  | _ => d

/-- A write of MIRi_CTRL with valid = 1 also clears broken (R552). -/
def Dev.mirCtrl (d : Dev) (path : Path) (off : Nat) (w : Word) : Dev :=
  d.guarded path .rsl off d.allHalted fun d =>
    let old := d.preg .rsl off
    d.setPreg .rsl off ((w &&& 0xFFFF0001#32) ||| (if bit w 0 then 0 else old &&& 2#32))

/-- A write of DZ_STEP discards the core's counts (R213, R214) and the step they belong to. -/
def Dev.dzStepWrite (d : Dev) (path : Path) (c : Nat) (w : Word) : Dev :=
  d.guarded path (.num c) 0x88 (d.coreHalted c) fun d => (d.setPreg (.num c) 0x88 w).discardStep c

/-- Registers above the header whose write does more than store; none for the others. -/
def Dev.actWrite (d : Dev) (path : Path) (p : Page) (off : Nat) (w : Word) : Option Dev :=
  let mgmt := path = .mgmt
  match p with
  | .pwr => if off = 0x88 then some (d.clkCapWrite w) else if off = 0x90 then some (d.pwrCmd w) else none
  | .flt =>
    if off = 0x8C then some (d.fltCmd path w)
    else if off = 0x90 then some (if (FUnit.ofCode (fld w 0 13)).isSome then d.setPreg .flt 0x90 (w &&& 0x1FFF#32) else d)
    else if 0x800 ≤ off && off < 0xC00 then some (d.healthWrite path off w) else none
  | .evr =>
    if off = 0x90 then some (d.evrWinSel w)
    else if off = 0xE8 then some (d.evrCmd w ClearRun.clean)
    else if 0xC0 ≤ off && off < 0xE0 then
      some { d with evr := { d.evr with resp := d.evr.resp.set ((off - 0xC0) / 4) w } }
    else none
  | .tmb => if off = 0x80 then some (d.tmbCtrl path w) else if off = 0x200 then some (d.fcCtrl w) else none
  | .hif =>
    if off = 0x80 then some (d.hifCtrl w)
    else if 0x400 ≤ off && (off - 0x400) % 32 = 0x10 then some (d.ringCfgWrite path ((off - 0x400) / 32) w) else none
  | .rsl =>
    if off = 0x84 then some (d.rerun path w)
    else if off = 0xAC then some (d.ksRetry w)
    else if 0x100 ≤ off && off < 0x500 && off % 16 = 12 then some (d.mirCtrl path off w) else none
  | .fab =>
    if off = 0x88 then some (d.fabEpochWrite w)
    else if off = 0x8C then some (d.fabCtrl path w)
    else if off = 0x98 then some (if bit w 0 then d.probeStart else d)
    else if off = 0xC4 then some (d.rqCmd w) else none
  | .fport q => if off = 0x80 then some (d.trainEn q w) else if off = 0x88 then some (d.fpCmd q w) else none
  | .sync c =>
    if off = 0x8C then some (d.guarded path p off (d.coreHalted c) fun d => d.watchClear c w)
    else if off = 0x98 then some (d.hopCmd c w)
    else if off = 0xAC then some (d.guarded path p off (d.coreHalted c) fun d => d.barReset c w)
    else if off = 0xA4 || off = 0xA8 then some (d.guarded path p off (d.coreHalted c) fun d => d.treeWrite c off w) else none
  | .debug c => if off = 0x88 then some (d.forceCmd c mgmt w) else none
  | .stream c => if off = 0x8C then some (if bit w 0 then d.retClear c else d) else none
  | .queue c => if off = 0x94 then some (d.cqPop c w) else if off = 0x9C then some (d.qinjCmd c w) else none
  | .num c => if off = 0x88 then some (d.dzStepWrite path c w) else none
  | .tile t => d.tileWrite path t off w
  | _ => none

/-- A write of a word of a page. Registers without a stored field ignore it. -/
def Dev.writePage (d : Dev) (path : Path) (p : Page) (off : Nat) (w lo : Word) : Dev :=
  if off < 0x80 then d.headerWrite path p off w
  else match d.actWrite path p off w with
    | some d' => d'
    | none => match p.row? off with
      | some r => d.storeRow path p off r w lo
      | none => d

/-! ### Windows (R688) -/

/-- A guarded write of a window word. -/
def Dev.windowStore (d : Dev) (path : Path) (o : Nat) (ok : Bool) (f : Dev → Dev) : Dev :=
  if ok then f d else d.ignored path o

/-- A write of a window word: tags (R187, R213), core queues (R307), collective descriptors (R466), objects (R310, R317),
stream descriptors (R246), forecast records (R373) and fingerprint entries (R508). Writes of the object, descriptor and
tag windows count as host actions while a tile runs (R495). The sync and queue units of a fenced core refuse theirs (R567). -/
def Dev.writeWindow (d : Dev) (path : Path) (o : Nat) (w : Word) : Dev :=
  match placeOf o with
  | .tagWindow c off =>
    if off < 8 then d else
    d.windowStore path o (d.coreHalted c) fun d => (d.wr o (if off % 8 = 4 then w &&& 0xFF07#32 else w)).hostAct
  | .cqWindow c off =>
    if off % 8 = 4 || d.isFenced (.core c) then d else d.windowStore path o (d.coreHalted c) fun d =>
      let d := d.wr o (w &&& 0x3FFF#32)
      if fld w 0 2 = 2 && d.coreQOf c (off / 8) ≠ [] then d.hifEvent 2 else d
  | .collWindow c off =>
    let ok := (d.collRun c (off / 64)).state ≠ .running && d.coreHalted c
    if ok then (d.collDescWrite path c off w).hostAct else d.collDescWrite path c off w
  | .syncWindow c off =>
    if d.isFenced (.core c) then d else
    d.windowStore path o (d.coreHalted c) fun d =>
      (if off % 8 = 0 then d.setObj c (off / 8) w else d.wr o (w &&& 0x7FFF#32)).hostAct
  | .streamWindow c off =>
    if 56 ≤ off % 64 then d else
    d.windowStore path o (d.ctxState c (off / 64) ≠ 1) fun d => (d.wr o w).hostAct
  | .fcWindow _ => d.windowStore path o (!d.fc.armed) fun d => d.wr o w
  | .fpWindow off =>
    d.windowStore path o d.allHalted fun d => d.wr o (match off % 16 with
      | 0 => w &&& 0xFFFFFF01#32
      | 12 => w
      | _ => w &&& 0xFFFFFFFC#32)
  | _ => d

/-! ### Accesses -/

/-- A write of four aligned bytes at BAR0 offset `o`, with the low word that the path held for it. -/
def Dev.writeReg (d : Dev) (path : Path) (o : Nat) (w lo : Word) : Dev :=
  match placeOf o with
  | .reserved => d.badAccess o true true
  | .page p off =>
    if !d.pageUp p then d
    else if !p.hasReg off then d.badAccess o true true
    else if 0x80 ≤ off && !d.pageAnswers p then d
    else d.writePage path p off w lo
  | pl => if d.windowAnswers pl then d.writeWindow path o w else d

/-- A write of BAR4 (R627): doorbells, the MSI-X table and RESULT_ACK. -/
def Dev.writeBar4 (d : Dev) (o : Nat) (w : Word) : Dev :=
  if !d.hostUp then d
  else if o < 0x40000 then
    match o % 0x1000 with
    | 0 => d.cmdTail (o / 0x1000) w
    | 4 => d.cplHead (o / 0x1000) w
    | _ => d.badAccess o true true
  else if 0x80000 ≤ o && o < 0x88000 then d.msixWrite (o - 0x80000) w
  else if 0x88000 ≤ o && o < 0x88100 then d
  else if 0x1000000 ≤ o && o < 0x2000000 then
    if o % 0x1000 = 8 then d.resultAck ((o - 0x1000000) / 0x1000) w else d
  else d.badAccess o true true

/-- The low word held on a path for the high word at `o` (R681). -/
def Dev.heldFor (d : Dev) (path : Path) (o : Nat) : Word :=
  match d.heldLo.get? (pathNo path) with
  | some (l, w) => if l + 4 = o then w else 0
  | none => 0

/-- REGISTER_WRITE: a write of `size` bytes at an offset through a path (R75, R628, R677). -/
def Dev.registerWrite (d : Dev) (path : Path) (o size : Nat) (w : Word) : Dev :=
  if d.mc.stage = .off then d
  else match path with
    | .tileLocal => match placeOf o with
      | .page (.tile t) off =>
        if size = 4 && o % 4 = 0 && d.pageAnswers (.tile t) then d.localWrite t ((d.tile t).sel.getD false) off w else d
      | _ => d
    | .bar4 => if size = 4 && o % 4 = 0 then d.writeBar4 o w else d.badAccess o true false
    | p =>
      let lo := d.heldFor p o
      let d := d.dropHeld p
      if size ≠ 4 || o % 4 ≠ 0 then d.badAccess o true false
      else if 2 ^ 26 ≤ o then d.badAccess o true true
      else d.writeReg p o w lo

end Sys2Proof.Machine
end

