-- ==== Sys2Proof/Machine/Bundle.lean ====
section
/-! DEFINITION. What the meanings of the commands share: the slots of a bundle brought to the sequencer (R55, R62), and the conditions
under which a part of the package acts at all (R357, R571, R621, R671 to R675). -/

namespace Sys2Proof.Machine

/-- What a slot's instruction asks for and does; none for a command that is no slot. -/
def semOf (i : Instr) : Option (View → SlotSem) :=
  match i with
  | .nop _ slot rsv => some fun v => semNop v slot rsv
  | .alu _ sD sA sB fn => some fun v => semAlu v sD sA sB fn
  | .mul _ sD sA sB fn => some fun v => semMul v sD sA sB fn
  | .addi _ sD sA imm => some fun v => semAddi v sD sA imm
  | .andi _ sD sA imm => some fun v => semAndi v sD sA imm
  | .ori _ sD sA imm => some fun v => semOri v sD sA imm
  | .xori _ sD sA imm => some fun v => semXori v sD sA imm
  | .shifti _ sD sA kind amount rsv => some fun v => semShifti v sD sA kind amount rsv
  | .slti _ sD sA imm => some fun v => semSlti v sD sA imm
  | .lui _ sD imm => some fun v => semLui v sD imm
  | .br _ sA sB cond target => some fun v => semBr v sA sB cond target
  | .brp _ p all target rsv => some fun v => semBrp v p all target rsv
  | .call _ sD target rsv => some fun v => semCall v sD target rsv
  | .jr _ sA rsv => some fun v => semJr v sA rsv
  | .halt _ rsv => some fun v => semHalt v rsv
  | .trap _ imm rsv => some fun v => semTrap v imm rsv
  | .aaddi _ aD aA imm => some fun v => semAaddi v aD aA imm
  | .a2addi _ aD aA dr dc rsv => some fun v => semA2addi v aD aA dr dc rsv
  | .amov _ aD sA rsv => some fun v => semAmov v aD sA rsv
  | .aread _ sD aA rsv => some fun v => semAread v sD aA rsv
  | .a2set _ aD sA sB rsv => some fun v => semA2set v aD sA sB rsv
  | .aadd _ aD aA sB rsv => some fun v => semAadd v aD aA sB rsv
  | .a2add _ aD aA sB rsv => some fun v => semA2add v aD aA sB rsv
  | .csw _ rsv => some fun v => semCsw v rsv
  | .ltrd _ sD sL rsv => some fun v => semLtrd v sD sL rsv
  | .ltwr _ sL sV rsv => some fun v => semLtwr v sL sV rsv
  | .ldw _ sD aB u imm => some fun v => semLdw v sD aB u imm
  | .ldh _ sD aB u imm => some fun v => semLdh v sD aB u imm
  | .ldhu _ sD aB u imm => some fun v => semLdhu v sD aB u imm
  | .ldb _ sD aB u imm => some fun v => semLdb v sD aB u imm
  | .ldbu _ sD aB u imm => some fun v => semLdbu v sD aB u imm
  | .stw _ sA aB u imm => some fun v => semStw v sA aB u imm
  | .sth _ sA aB u imm => some fun v => semSth v sA aB u imm
  | .stb _ sA aB u imm => some fun v => semStb v sA aB u imm
  | .ldvW _ vD aB u p imm rsv => some fun v => semLdvW v vD aB u p imm rsv
  | .ldvHu _ vD aB u p imm rsv => some fun v => semLdvHu v vD aB u p imm rsv
  | .ldvB _ vD aB u p imm rsv => some fun v => semLdvB v vD aB u p imm rsv
  | .stvW _ vA aB u p imm rsv => some fun v => semStvW v vA aB u p imm rsv
  | .stvH _ vA aB u p imm rsv => some fun v => semStvH v vA aB u p imm rsv
  | .stvB _ vA aB u p imm rsv => some fun v => semStvB v vA aB u p imm rsv
  | .ldv2 _ vD aB sP dir p rsv => some fun v => semLdv2 v vD aB sP dir p rsv
  | .stv2 _ vA aB sP dir p rsv => some fun v => semStv2 v vA aB sP dir p rsv
  | .sendReq _ vA sDst len rsv => some fun v => semSendReq v vA sDst len rsv
  | .sendRpl _ vA sDst len rsv => some fun v => semSendRpl v vA sDst len rsv
  | .qrd _ dest qn kind rsv => some fun v => semQrd v dest qn kind rsv
  | .qcnt _ sD qn kind rsv => some fun v => semQcnt v sD qn kind rsv
  | .sadd _ sD sObj sVal rsv => some fun v => semSadd v sD sObj sVal rsv
  | .sset _ sD sObj sVal rsv => some fun v => semSset v sD sObj sVal rsv
  | .scas _ sD sObj sExp sNew rsv => some fun v => semScas v sD sObj sExp sNew rsv
  | .watch _ sObj sTgt cond qn rsv => some fun v => semWatch v sObj sTgt cond qn rsv
  | .bara _ sBar qn rsv => some fun v => semBara v sBar qn rsv
  | .sstart _ sD sCtx rsv => some fun v => semSstart v sD sCtx rsv
  | .sstop _ sD sCtx rsv => some fun v => semSstop v sD sCtx rsv
  | .rstat _ sD rp rsv => some fun v => semRstat v sD rp rsv
  | .rldv _ vD rp p off rsv => some fun v => semRldv v vD rp p off rsv
  | .rrel _ rp rsv => some fun v => semRrel v rp rsv
  | .rstv _ vA rp p off rsv => some fun v => semRstv v vA rp p off rsv
  | .rpub _ rp sLen rsv => some fun v => semRpub v rp sLen rsv
  | .put _ vA n len lc lcEn rsv => some fun v => semPut v vA n len lc lcEn rsv
  | .putg _ vA n len lc lcEn rsv => some fun v => semPutg v vA n len lc lcEn rsv
  | .waitc _ lc sTgt cond rsv => some fun v => semWaitc v lc sTgt cond rsv
  | .lwatch _ lc sTgt cond qn rsv => some fun v => semLwatch v lc sTgt cond qn rsv
  | .lcop _ sD lc sVal fn rsv => some fun v => semLcop v sD lc sVal fn rsv
  | .tpost _ n sId kind rsv => some fun v => semTpost v n sId kind rsv
  | .vfp _ vD vA vB p fn => some fun v => semVfp v vD vA vB p fn
  | .vfma _ vD vA vB vC p rsv => some fun v => semVfma v vD vA vB vC p rsv
  | .vint _ vD vA vB p fn => some fun v => semVint v vD vA vB p fn
  | .vsop _ vD vA sB p fn => some fun v => semVsop v vD vA sB p fn
  | .vcmp _ pD vA vB p cond rsv => some fun v => semVcmp v pD vA vB p cond rsv
  | .vsel _ vD vA vB p rsv => some fun v => semVsel v vD vA vB p rsv
  | .vcvt _ vD vA sB p fn => some fun v => semVcvt v vD vA sB p fn
  | .vred _ sD vA p fn rsv => some fun v => semVred v sD vA p fn rsv
  | .vext _ sD vA sB rsv => some fun v => semVext v sD vA sB rsv
  | .vins _ vD sA sB rsv => some fun v => semVins v vD sA sB rsv
  | .vmov _ vD vA p rsv => some fun v => semVmov v vD vA p rsv
  | .viota _ vD sB p rsv => some fun v => semViota v vD sB p rsv
  | .plogic _ pD pA pB fn rsv => some fun v => semPlogic v pD pA pB fn rsv
  | .pmov _ pD sA sB rsv => some fun v => semPmov v pD sA sB rsv
  | .vcvtt _ vD vA vO n p fn => some fun v => semVcvtt v vD vA vO n p fn
  | .updx _ vD vA sL p rsv => some fun v => semUpdx v vD vA sL p rsv
  | .vwop _ vD vA sB p fn => some fun v => semVwop v vD vA sB p fn
  | .vcrc _ n vA len rsv => some fun v => semVcrc v n vA len rsv
  | .mzero _ g type rsv => some fun v => semMzero v g type rsv
  | .mmaBf16 _ g aA aB sK rsv => some fun v => semMmaBf16 v g aA aB sK rsv
  | .mmaI8 _ g aA aB sK rsv => some fun v => semMmaI8 v g aA aB sK rsv
  | .mst _ g aD sP sS fmt rsv => some fun v => semMst v g aD sP sS fmt rsv
  | .msat _ g sD rsv => some fun v => semMsat v g sD rsv
  | .mopen _ g type panel rsv => some fun v => semMopen v g type panel rsv
  | .mmaf _ g aA aB sK fa fb rsv => some fun v => semMmaf v g aA aB sK fa fb rsv
  | .mclose _ g aC sS rsv => some fun v => semMclose v g aC sS rsv
  | .msatc _ g sD rsv => some fun v => semMsatc v g sD rsv
  | .reservedOpcode _ slot _ => some fun v => semReserved v slot
  | _ => none

/-- The bundle that instruction memory holds where the selected context of a tile stands (R74, R87); an unwritten one is four NOPs. -/
def Dev.fetched (d : Dev) (t : Fin 1632) : List Instr :=
  match (d.tile t.val).sel with
  | some bg => decodeBundle t ((d.tile t.val).imem.getD (d.ctx t.val bg).pc 0)
  | none => []

/-- A slot reaches the sequencer of its tile: it joins the slots of its bundle, and the last one offers the bundle for issue. -/
def Dev.runSlot (d : Dev) (at_ : At) (i : Instr) : Dev :=
  let t := at_.tile.val
  if at_.more then d.modTile t fun x => { x with slots := x.slots ++ [i] }
  else
    let slots := (d.tile t).slots ++ [i]
    let d := if (d.tile t).slots = [] then d else d.modTile t fun x => { x with slots := [] }
    d.offerBundle t fun v => slots.filterMap fun j => (semOf j.decoded).map fun f => f v

/-- A command's effect on the package; the queue of the commands that wait stays. -/
def State.on (s : State) (f : Dev → Dev) : State := { s with dev := f s.dev }

/-- The main domain is out of reset and clocked (R571, R671). -/
def Dev.ifUp (d : Dev) (f : Dev → Dev) : Dev := if d.mainUp then f d else d

def Dev.ifCore (d : Dev) (f : Dev → Dev) : Dev := if d.coreUp then f d else d

/-- The fabric ports are clocked (R621). -/
def Dev.ifClocked (d : Dev) (f : Dev → Dev) : Dev := if d.clocked then f d else d

/-- A host write of a command register of a page (R680, R681). -/
def Dev.regCmd (d : Dev) (p : Page) (f : Dev → Dev) : Dev :=
  let d := d.dropHeld .bar0
  if d.pageAnswers p then f d else d

/-- A write of FORCE_CMD through BAR0 or the management interface (R338). -/
def Dev.debugCmd (d : Dev) (core : Nat) (mgmt : Bool) (f : Dev → Dev) : Dev :=
  let d := d.dropHeld (if mgmt then .mgmt else .bar0)
  if d.pageAnswers (.debug core) then f d else d

def natsOf (l : List (Fin 1632)) : List Nat := l.map fun x => x.val
def pairsOf {n : Nat} (l : List (Fin n × List Byte)) : List (Nat × List Byte) := l.map fun x => (x.1.val, x.2)

/-- The counters of nanoseconds of one ns: the ports', CNT_THROTTLE_NS and CNT_DLV_HELD_NS (R421, R611, R655). -/
def Dev.countNs (d : Dev) : Dev :=
  let d := (List.range 12).foldl Dev.portNs d
  let d := if d.pwr.throttled then d.bumpAlways .pwr 0xB8 1 else d
  if d.bundleHeld then d.bump .hif 0xE0 1 else d

/-- No command waits: one ft of fabric time passes while the time base runs, the counters of nanoseconds follow, and the die network
takes the host injections that wait for it (R301), and the copy engine a round of segments (R637). A soft reset has ended by then (R684). -/
def Dev.idle (d : Dev) : Dev :=
  (({ d with softBusy := [] } : Dev).ifUp fun d => d.tick.countNs).ifCore fun d => d.takeInjections.copyRound

end Sys2Proof.Machine
end

