-- ==== Sys2Proof/Machine/ExecCore.lean ====
section
/-! DEFINITION. The meanings of the events and commands of the tiles and core units: scratchpad and pool (03, 08), streams (09), queues (10) and
sync units (11). -/

namespace Sys2Proof.Machine

/-! ### Tile, pool and scratchpad -/

/-- WCB_IDLE_FLUSH (R223): An entry that has received no store for 64 cycles flushes. -/
def execWcbIdleFlush (tile : Fin 1632) (entry : Fin 4) (s : State) : Host.Outcome State Fault Refusal :=
  .next (s.on fun d => d.ifCore fun d => d.wcbIdle tile entry)

/-- PREEMPT_SWITCH (R59): With fg_preempt set, the sequencer switches from background to a foreground that can issue.
-/
def execPreemptSwitch (tile : Fin 1632) (s : State) : Host.Outcome State Fault Refusal :=
  .next (s.on fun d => d.ifCore fun d => d.preempt tile)

/-- STALL_SWITCH (R59): With switch_mode set, a context stalled for stall_thresh cycles yields to the other. -/
def execStallSwitch (tile : Fin 1632) (s : State) : Host.Outcome State Fault Refusal :=
  .next (s.on fun d => d.ifCore fun d => d.stallYield tile)

/-- CTX_RUN_WRITE (R59): A write to CTX_CTRL run bits starts or halts a context at the next bundle boundary. -/
def execCtxRunWrite (tile : Fin 1632) (value : Word) (s : State) : Host.Outcome State Fault Refusal :=
  .next (s.on fun d => (d.dropHeld .bar0) |> fun d => d.writeCtxCtrl tile value)

/-- CNT_CLEAR (R84): Writing CNT_CTRL.clear zeroes all eleven tile counters. -/
def execCntClear (path : Path) (tile : Fin 1632) (value : Word) (s : State) : Host.Outcome State Fault Refusal :=
  .next (s.on fun d => (d.dropHeld path).cntWrite tile value)

/-- COUNTER_LATCH_READ (R84): A read of a 64-bit counter's low word latches its high word for that path. -/
def execCounterLatchRead (path : Path) (access : ReadAt) (s : State) : Host.Outcome State Fault Refusal :=
  .next (s.on fun d => d.readCmd4 path access.off.toNat access.size)

/-- POOL_WINDOW_CLOSE (R233): A pool merge window closes after 8 cycles, reads the line once and broadcasts it to
every tile in the window. -/
def execPoolWindowClose (core : Fin 8) (line : BitVec 18) (s : State) : Host.Outcome State Fault Refusal :=
  .next (s.on fun d => d.ifCore fun d => d.poolClose core line.toNat)

/-- PUT_ARRIVAL (R228): An arriving data write is checked against the landing window, written and counted on its
landing counter. -/
def execPutArrival (i : Nat) (s : State) : Host.Outcome State Fault Refusal :=
  .next (s.on fun d => d.ifCore fun d => d.putArrival i)

/-- MCAST_WRITE (R237): A management multicast write is accepted by a halted tile or discarded and counted. -/
def execMcastWrite (tiles : List (Fin 1632)) (dest : McastTo) (data : List Byte)
    (s : State) : Host.Outcome State Fault Refusal :=
  .next (s.on fun d => d.mcast tiles dest data)

/-! ### Streams -/

/-- SEGMENT_GRANT (R265): Each cycle the stream engine grants up to two segments to eligible stages with the smallest
time-to-dry. -/
def execSegmentGrant (core : Fin 8) (s : State) : Host.Outcome State Fault Refusal :=
  .next (s.on fun d => d.ifCore fun d => d.segmentGrant core)

/-- SEGMENT_COMPLETE (R267): A segment's data or acknowledgement returns, writing its destination, ring fill or
landing count. -/
def execSegmentComplete (i : Nat) (bad : Bool) (s : State) : Host.Outcome State Fault Refusal :=
  .next (s.on fun d => d.ifCore fun d => d.segmentComplete i bad)

/-- STAGE_COMPLETE (R270): A stage whose writes are all acknowledged enters DONE and signals its completion object. -/
def execStageComplete (core : Fin 8) (ctx : Fin 1024) (s : State) : Host.Outcome State Fault Refusal :=
  .next (s.on fun d => d.ifCore fun d => (d.stageComplete core ctx).fcSettle)

/-- STREAM_UNDERRUN (R262): A ring instruction that has waited STR_STALL_LIMIT cycles traps. -/
def execStreamUnderrun (tile : Fin 1632) (rp : Fin 8) (output : Bool) (s : State) : Host.Outcome State Fault Refusal :=
  .next (s.on fun d => d.ifCore fun d => d.streamUnderrun tile rp output)

/-- STR_RET_CLEAR (R276): Writing STR_RET_CLEAR clears every retention entry. -/
def execStrRetClear (core : Fin 8) (value : Word) (s : State) : Host.Outcome State Fault Refusal :=
  .next (s.on fun d => d.regCmd (.stream core) fun d => if bit value 0 then d.retClear core else d)

/-! ### Queues -/

/-- QUEUE_ARRIVAL (R286): A message at a tile's class ingress is placed in its ring, with a pad record if needed, or
held. -/
def execQueueArrival (i : Nat) (s : State) : Host.Outcome State Fault Refusal :=
  .next (s.on fun d => d.ifCore fun d => d.queueArrival i)

/-- QUEUE_SPILL (R294): A message waiting QSPILL_WAIT cycles moves to a spill cell and its queue enters spill mode. -/
def execQueueSpill (tile : Fin 1632) (reply : Bool) (s : State) : Host.Outcome State Fault Refusal :=
  .next (s.on fun d => d.ifCore fun d => d.queueSpill tile reply)

/-- SPILL_RETURN (R295): The oldest spilled message returns to its ring when the ring has space. -/
def execSpillReturn (tile : Fin 1632) (queue : Fin 16) (s : State) : Host.Outcome State Fault Refusal :=
  .next (s.on fun d => d.ifCore fun d => d.spillReturn tile queue)

/-- CORE_QUEUE_STORE (R299): A message sent to a core queue is stored in a spill cell. -/
def execCoreQueueStore (i : Nat) (s : State) : Host.Outcome State Fault Refusal :=
  .next (s.on fun d => d.ifCore fun d => d.coreQueueStore i)

/-- CORE_QUEUE_FORWARD (R299): A core queue bound to a tile queue forwards its oldest message once the previous one is
accepted. -/
def execCoreQueueForward (core : Fin 8) (queue : Fin 1024) (s : State) : Host.Outcome State Fault Refusal :=
  .next (s.on fun d => d.ifCore fun d => d.coreQueueForward core queue)

/-- CQ_POP (R300): Removes the oldest message of a host-bound core queue into CQ_DATA. -/
def execCqPop (core : Fin 8) (value : Word) (s : State) : Host.Outcome State Fault Refusal :=
  .next (s.on fun d => d.regCmd (.queue core) fun d => d.cqPop core value)

/-- QINJ_CMD (R301): Sends a host-injected message to a queue. -/
def execQinjCmd (core : Fin 8) (value : Word) (s : State) : Host.Outcome State Fault Refusal :=
  .next (s.on fun d => d.regCmd (.queue core) fun d => d.qinjCmd core value)

/-- QUEUE_DEADLOCK_SUSPECT (R303): Two tiles mutually blocked for QDL_THRESH cycles are recorded and reported. -/
def execQueueDeadlockSuspect (x y : Fin 1632) (replyX replyY : Bool) (s : State) : Host.Outcome State Fault Refusal :=
  .next (s.on fun d => d.ifCore fun d => d.queueDeadlock x y replyX replyY)

/-- CHANNEL_LINE_FLUSH (R304): A channel counter line flushes to the telemetry aggregator. -/
def execChannelLineFlush (i : Nat) (s : State) : Host.Outcome State Fault Refusal :=
  .next (s.on fun d => d.ifCore fun d => d.channelFlush i)

/-! ### Synchronisation -/

/-- SYNC_OP_APPLY (R311): A sync operation reaches its sync unit and is applied as one read-modify-write, evaluating
watches. -/
def execSyncOpApply (i : Nat) (s : State) : Host.Outcome State Fault Refusal :=
  .next (s.on fun d => d.ifCore fun d => (d.syncOpApply i).fcSettle)

/-- BARRIER_ARRIVE (R327): An arrival counts in its generation's slot at a tree level and passes upward when the slot
completes. -/
def execBarrierArrive (i : Nat) (s : State) : Host.Outcome State Fault Refusal :=
  .next (s.on fun d => d.ifCore fun d => d.barrierArrive i)

/-- BARRIER_RELEASE (R327): A release passes down the tree, resetting slots and sending release messages to arrived
tiles. -/
def execBarrierRelease (i : Nat) (s : State) : Host.Outcome State Fault Refusal :=
  .next (s.on fun d => d.ifCore fun d => d.barrierRelease i)

/-- BARRIER_TIMEOUT (R331): A slot not released for BAR_TIMEOUT cycles raises BARRIER_TIMEOUT. -/
def execBarrierTimeout (core : Fin 8) (bar : Fin 256) (gen : Bool) (level : Fin 5) (row : Fin 12)
    (s : State) : Host.Outcome State Fault Refusal :=
  .next (s.on fun d => d.ifCore fun d => d.barrierTimeout core bar gen level row)

/-- ARRIVE (R332): A fabric ARRIVE from a child package is counted at the fabric level. -/
def execArrive (src : PktSrc) (s : State) : Host.Outcome State Fault Refusal :=
  .next (s.on fun d => d.ifCore fun d => (d.arriveRow src).fcSettle)

/-- RELEASE (R332): A fabric RELEASE from the parent releases the die level and is sent to children. -/
def execRelease (src : PktSrc) (s : State) : Host.Outcome State Fault Refusal :=
  .next (s.on fun d => d.ifCore fun d => (d.releaseJet src).fcSettle)

/-- BAR_RESET (R334): Clears the slots, round number and tile state of a barrier or of all barriers in the core. -/
def execBarReset (core : Fin 8) (value : Word) (s : State) : Host.Outcome State Fault Refusal :=
  .next (s.on fun d => (d.dropHeld .bar0).guarded .bar0 (.sync core) 0xAC (d.coreHalted core) fun d => d.barReset core value)

/-- WATCH_CLEAR (R340): Removes every watch at the sync unit without a message. -/
def execWatchClear (core : Fin 8) (value : Word) (s : State) : Host.Outcome State Fault Refusal :=
  .next (s.on fun d => (d.dropHeld .bar0).guarded .bar0 (.sync core) 0x8C (d.coreHalted core) fun d => d.watchClear core value)

/-- HOP_ADD (R323): Host operation adding HOP_VAL to an object. -/
def execHopAdd (core : Fin 8) (s : State) : Host.Outcome State Fault Refusal :=
  .next (s.on fun d => d.regCmd (.sync core) fun d => (d.hopCmd core 0).fcSettle)

/-- HOP_SET (R323): Host operation setting an object to HOP_VAL. -/
def execHopSet (core : Fin 8) (s : State) : Host.Outcome State Fault Refusal :=
  .next (s.on fun d => d.regCmd (.sync core) fun d => (d.hopCmd core 1).fcSettle)

/-- FORCE_SET (R338): Forces an object to FORCE_VAL and logs it. -/
def execForceSet (core : Fin 8) (mgmt : Bool) (s : State) : Host.Outcome State Fault Refusal :=
  .next (s.on fun d => d.debugCmd core mgmt fun d => (d.forceSet core mgmt).fcSettle)

/-- FORCE_ADD (R338): Forces an add of FORCE_VAL to an object and logs it. -/
def execForceAdd (core : Fin 8) (mgmt : Bool) (s : State) : Host.Outcome State Fault Refusal :=
  .next (s.on fun d => d.debugCmd core mgmt fun d => (d.forceAdd core mgmt).fcSettle)

/-- FORCE_RELEASE (R338): Forces the release of a barrier slot at the highest level held in the core. -/
def execForceRelease (core : Fin 8) (mgmt : Bool) (bar : Fin 256) (gen : Bool)
    (s : State) : Host.Outcome State Fault Refusal :=
  .next (s.on fun d => d.debugCmd core mgmt fun d => (d.forceRelease core mgmt bar gen).fcSettle)

/-- REALIGN_APPLY (R335): At the release of barrier 254 each sync unit zeroes realign objects, keeps pair differences
and removes their watches. -/
def execRealignApply (s : State) : Host.Outcome State Fault Refusal :=
  .next (s.on fun d => d.ifCore fun d => d.realignApply.fcSettle)

end Sys2Proof.Machine
end

