-- ==== Sys2Proof/Machine/ExecFabric.lean ====
section
/-! DEFINITION. The meanings of the events and commands of fabric time and the forecast (13), the links (14), the global memory space (15)
and the collectives (16). -/

namespace Sys2Proof.Machine

/-! ### Fabric time and the forecast -/

/-- TSYNC_REQ_SEND (R365): Every TMB_INTERVAL a disciplined child sends TSYNC_REQ through its parent port. -/
def execTsyncReqSend (s : State) : Host.Outcome State Fault Refusal :=
  .next (s.on fun d => d.ifUp fun d => d.tsyncSend)

/-- TSYNC_REQ (R365): A parent answers a TSYNC_REQ with TSYNC_RPL carrying t2, t3 and its state. -/
def execTsyncReq (port : Fin 12) (s : State) : Host.Outcome State Fault Refusal :=
  .next (s.on fun d => d.ifClocked fun d => d.tsyncReq port)

/-- TSYNC_RPL (R366): A child accepts or rejects a reply and corrects fabric time from the smallest-delay sample. -/
def execTsyncRpl (port : Fin 12) (s : State) : Host.Outcome State Fault Refusal :=
  .next (s.on fun d => d.ifClocked fun d => d.tsyncRpl port)

/-- TSYNC_LOST (R366): A request with no accepted reply within 50 us is counted lost. -/
def execTsyncLost (seq : BitVec 16) (s : State) : Host.Outcome State Fault Refusal :=
  .next (s.on fun d => d.ifUp fun d => d.tsyncLost seq.toNat)

/-- TIMEBASE_LOST (R363): No TIMEBASE edge for 1 us sends the time base to LOST on its oscillator. -/
def execTimebaseLost (s : State) : Host.Outcome State Fault Refusal :=
  .next (s.on fun d => d.timebaseLost)

/-- HOLDOVER_EXPIRE (R368): HOLDOVER lasting TMB_HOLDOVER_MAX enters LOST. -/
def execHoldoverExpire (s : State) : Host.Outcome State Fault Refusal :=
  .next (s.on fun d => d.ifUp fun d => d.holdoverExpire)

/-- EPOCH_EDGE (R364): An EPOCH rising edge while armed loads fabric time with TMB_EPOCH_VAL. -/
def execEpochEdge (s : State) : Host.Outcome State Fault Refusal :=
  .next (s.on fun d => d.epochEdge)

/-- DISC_ENABLE (R368): Writing TMB_CTRL.en_disc enters MASTER or ACQUIRE, or FREE when cleared. -/
def execDiscEnable (path : Path) (value : Word) (s : State) : Host.Outcome State Fault Refusal :=
  .next (s.on fun d => (d.dropHeld path).tmbCtrl path value)

/-- FC_ARM (R372): Writing arm = 1 checks the records and time state and arms the forecast. -/
def execFcArm (s : State) : Host.Outcome State Fault Refusal :=
  .next (s.on fun d => (d.dropHeld .bar0) |> fun d => d.fcArm)

/-- FC_DISARM (R373): Writing arm = 0 disarms the forecast at the end of the current superstep. -/
def execFcDisarm (s : State) : Host.Outcome State Fault Refusal :=
  .next (s.on fun d => (d.dropHeld .bar0) |> fun d => d.fcDisarm)

/-- FC_CLR (R390): Writing FC_CTRL.clr zeroes FC_SLIP_CNT and FC_MIN_MARGIN. -/
def execFcClr (s : State) : Host.Outcome State Fault Refusal :=
  .next (s.on fun d => (d.dropHeld .bar0) |> fun d => d.fcClr)

/-- SUPERSTEP_ORIGIN (R23): At origin T0 a superstep starts: route set, clock changes and step advance apply. -/
def execSuperstepOrigin (s : State) : Host.Outcome State Fault Refusal :=
  .next (s.on fun d => d.ifCore fun d => d.superstepOrigin)

/-- SLOT_OPEN (R374): At a slot's open time the forecast unit increments every bound tile's named landing counter. -/
def execSlotOpen (s : State) : Host.Outcome State Fault Refusal :=
  .next (s.on fun d => d.ifCore fun d => d.slotOpen.fcSettle)

/-- SLIP_DECLARE (R381): At the first sample edge after a missed deadline the package enters slip mode, drives LULL_N
and sends SLIP. -/
def execSlipDeclare (s : State) : Host.Outcome State Fault Refusal :=
  .next (s.on fun d => d.ifCore fun d => d.slipDeclare)

/-- LULL_SAMPLE (R382): An armed package sampling LULL_N fall enters slip mode with cause REMOTE. -/
def execLullSample (low : Bool) (s : State) : Host.Outcome State Fault Refusal :=
  .next (s.on fun d => d.ifCore fun d => d.lullSample low)

/-- SLIP (R383): A SLIP message is forwarded on the tree and puts the package in slip mode for the named superstep. -/
def execSlip (src : PktSrc) (s : State) : Host.Outcome State Fault Refusal :=
  .next (s.on fun d => d.ifCore fun d => d.slipJet src)

/-- STEP_DEADLINE (R389): A superstep not ended FC_STEP_LIMIT after its forecast end disarms the forecast. -/
def execStepDeadline (s : State) : Host.Outcome State Fault Refusal :=
  .next (s.on fun d => d.ifCore fun d => d.stepDeadline)

/-! ### Links -/

/-- DATA_FRAME (R404): A received DATA frame is accepted in order, discarded as duplicate or gap, or NAKed. -/
def execDataFrame (port : Fin 12) (raw : BitVec 2048) (fec : FecNote) (s : State) : Host.Outcome State Fault Refusal :=
  .next (s.on fun d => d.ifClocked fun d => d.dataFrame port raw fec)

/-- NULL_FRAME (R404): A received NULL frame supplies ack and credit and triggers a NAK if seq differs from E. -/
def execNullFrame (port : Fin 12) (raw : BitVec 2048) (fec : FecNote) (s : State) : Host.Outcome State Fault Refusal :=
  .next (s.on fun d => d.ifClocked fun d => d.nullFrame port raw fec)

/-- NAK (R407): A received NAK starts or restarts a replay from ack + 1. -/
def execNak (port : Fin 12) (raw : BitVec 2048) (fec : FecNote) (s : State) : Host.Outcome State Fault Refusal :=
  .next (s.on fun d => d.ifClocked fun d => d.nakFrame port raw fec)

/-- EXCH (R415): A received EXCH record reconciles numbering, credit and replay and may enter ACTIVE. -/
def execExch (port : Fin 12) (raw : BitVec 2048) (fec : FecNote) (s : State) : Host.Outcome State Fault Refusal :=
  .next (s.on fun d => d.ifClocked fun d => d.exchFrame port raw fec)

/-- FRAME_SEND (R411): At each frame boundary the sender picks NAK, replay, new DATA by VC priority, or NULL. -/
def execFrameSend (port : Fin 12) (s : State) : Host.Outcome State Fault Refusal :=
  .next (s.on fun d => d.ifClocked fun d => d.frameSend port)

/-- NAK_REPEAT (R406): A NAK outstanding 2 us whose condition still holds is sent again. -/
def execNakRepeat (port : Fin 12) (s : State) : Host.Outcome State Fault Refusal :=
  .next (s.on fun d => d.ifClocked fun d => d.nakRepeat port)

/-- ACK_TIMEOUT (R407): FP_ACK_TIMEOUT with unacknowledged frames starts a replay. -/
def execAckTimeout (port : Fin 12) (s : State) : Host.Outcome State Fault Refusal :=
  .next (s.on fun d => d.ifClocked fun d => d.ackTimeout port)

/-- RX_SILENCE (R416): A lane decoding no codeword starts silence and holds any partial frame. -/
def execRxSilence (port : Fin 12) (held : Bool) (signal lock : Byte) (s : State) : Host.Outcome State Fault Refusal :=
  .next (s.on fun d => d.ifClocked fun d => d.rxSilence port held signal lock)

/-- RX_HOLD_EXPIRE (R416): After 2 us of silence the partial frame is discarded and a NAK sent. -/
def execRxHoldExpire (port : Fin 12) (s : State) : Host.Outcome State Fault Refusal :=
  .next (s.on fun d => d.ifClocked fun d => d.rxHoldExpire port)

/-- SILENCE_DOWN (R413): 50 us of silence takes an ACTIVE link DOWN. -/
def execSilenceDown (port : Fin 12) (s : State) : Host.Outcome State Fault Refusal :=
  .next (s.on fun d => d.ifClocked fun d => d.silenceDown port)

/-- TRAINING_PATTERN_RX (R413): An ACTIVE link receiving the training pattern goes DOWN. -/
def execTrainingPatternRx (port : Fin 12) (s : State) : Host.Outcome State Fault Refusal :=
  .next (s.on fun d => d.ifClocked fun d => d.trainingPattern port)

/-- SIGNAL_DETECT (R412): Signal on all lanes at both ends leaves DETECT for ALIGN or EQUALIZE. -/
def execSignalDetect (at_ : DetectAt) (s : State) : Host.Outcome State Fault Refusal :=
  .next (s.on fun d => (d.setRef at_.port at_.ref).ifClocked fun d => d.signalDetect at_.port)

/-- EQUALIZE_DONE (R412): Both ends report equalisation complete and enter full ALIGN. -/
def execEqualizeDone (port : Fin 12) (s : State) : Host.Outcome State Fault Refusal :=
  .next (s.on fun d => d.ifClocked fun d => d.equalizeDone port)

/-- ALIGN_DONE (R412): Every lane identified, deskewed and locked at both ends enters EXCHANGE. -/
def execAlignDone (port : Fin 12) (s : State) : Host.Outcome State Fault Refusal :=
  .next (s.on fun d => d.ifClocked fun d => d.alignDone port)

/-- EXCH_SEND (R415): In EXCHANGE each end sends an EXCH frame every 1 us. -/
def execExchSend (port : Fin 12) (s : State) : Host.Outcome State Fault Refusal :=
  .next (s.on fun d => d.ifClocked fun d => d.exchSend port)

/-- TRAIN_TIMEOUT (R412): A training state timeout returns to DETECT or EQUALIZE and counts a failure. -/
def execTrainTimeout (port : Fin 12) (s : State) : Host.Outcome State Fault Refusal :=
  .next (s.on fun d => d.ifClocked fun d => d.trainTimeout port)

/-- DOWN_EXPIRE (R412): After 2 us in DOWN the link enters DETECT. -/
def execDownExpire (port : Fin 12) (s : State) : Host.Outcome State Fault Refusal :=
  .next (s.on fun d => d.ifClocked fun d => d.downExpire port)

/-- TRAIN_EN_WRITE (R412): Writing FP_CTRL.train_en starts training or enters DISABLED. -/
def execTrainEnWrite (port : Fin 12) (value : Word) (s : State) : Host.Outcome State Fault Refusal :=
  .next (s.on fun d => (d.dropHeld .bar0) |> fun d => d.trainEn port value)

/-- RETRAIN (R413): FP_CMD.retrain takes the link DOWN. -/
def execRetrain (port : Fin 12) (s : State) : Host.Outcome State Fault Refusal :=
  .next (s.on fun d => (d.dropHeld .bar0) |> fun d => d.retrain port)

/-- FLUSH (R418): FP_CMD.flush discards the retry buffer and restarts numbering. -/
def execFlush (port : Fin 12) (s : State) : Host.Outcome State Fault Refusal :=
  .next (s.on fun d => (d.dropHeld .bar0) |> fun d => d.flushPort port)

/-! ### Global memory -/

/-- RD (R432): A read request is served at its destination with RDR parts or ERR. -/
def execRd (src : PktSrc) (s : State) : Host.Outcome State Fault Refusal :=
  .next (s.on fun d => d.ifClocked fun d => d.serveRd src)

/-- WR (R432): A write request is applied at its destination and answered with ACK or ERR. -/
def execWr (src : PktSrc) (s : State) : Host.Outcome State Fault Refusal :=
  .next (s.on fun d => d.ifClocked fun d => d.serveWr src)

/-- WRL (R432): A write with landing count is applied, the counter incremented, and ACK sent. -/
def execWrl (src : PktSrc) (s : State) : Host.Outcome State Fault Refusal :=
  .next (s.on fun d => d.ifClocked fun d => d.serveWrl src)

/-- ADD (R433): An atomic add request adds each addend to its word and is acknowledged. -/
def execAdd (src : PktSrc) (s : State) : Host.Outcome State Fault Refusal :=
  .next (s.on fun d => d.ifClocked fun d => d.serveAdd src)

/-- RDR (R436): A read reply delivers data to its outstanding entry. -/
def execRdr (src : PktSrc) (s : State) : Host.Outcome State Fault Refusal :=
  .next (s.on fun d => d.ifClocked fun d => d.replyRdr src)

/-- ACK (R436): An acknowledgement completes its packet of an outstanding entry. -/
def execAck (src : PktSrc) (s : State) : Host.Outcome State Fault Refusal :=
  .next (s.on fun d => d.ifClocked fun d => d.replyAck src)

/-- ERR (R435): An error reply acts on its issuer: stream abort, REMOTE_ERROR or RQ_STAT. -/
def execErr (src : PktSrc) (s : State) : Host.Outcome State Fault Refusal :=
  .next (s.on fun d => d.ifClocked fun d => d.replyErr src)

/-- PACKET_FORWARD (R438): A package routes a packet by override, route set and ttl, or drops it with NO_ROUTE. -/
def execPacketForward (port : Fin 12) (vc : Fin 4) (s : State) : Host.Outcome State Fault Refusal :=
  .next (s.on fun d => d.ifClocked fun d => d.packetForward port vc)

/-- FAB_EPOCH_WRITE (R447): Writing FAB_EPOCH activates staged items, completes outstanding requests with EPOCH and
aborts collectives. -/
def execFabEpochWrite (value : Word) (s : State) : Host.Outcome State Fault Refusal :=
  .next (s.on fun d => (d.dropHeld .bar0) |> fun d => d.fabEpochWrite value)

/-- PROBE_START (R455): TKO_CMD.probe sends PROBE out of every PROBING entry's port. -/
def execProbeStart (s : State) : Host.Outcome State Fault Refusal :=
  .next (s.on fun d => (d.dropHeld .bar0) |> fun d => d.probeStart)

/-- PROBE (R456): A package whose position is the PROBE's dst answers with PROBE_ACK. -/
def execProbe (src : PktSrc) (s : State) : Host.Outcome State Fault Refusal :=
  .next (s.on fun d => d.ifClocked fun d => d.probe src)

/-- PROBE_ACK (R457): A matching PROBE_ACK confirms its override entry; others are dropped. -/
def execProbeAck (src : PktSrc) (s : State) : Host.Outcome State Fault Refusal :=
  .next (s.on fun d => d.ifClocked fun d => d.probeAck src)

/-- PROBE_TIMEOUT (R455): A probe timer expiry retries with the next seq or fails the entry. -/
def execProbeTimeout (entry : Fin 64) (s : State) : Host.Outcome State Fault Refusal :=
  .next (s.on fun d => d.ifClocked fun d => d.probeTimeout entry)

/-- RQ_READ (R458): RQ_CMD 0 reads 32 bits at RQ_ADDR. -/
def execRqRead (s : State) : Host.Outcome State Fault Refusal :=
  .next (s.on fun d => d.regCmd .fab fun d => d.rqCmd 0)

/-- RQ_WRITE (R458): RQ_CMD 1 writes 32 bits at RQ_ADDR. -/
def execRqWrite (s : State) : Host.Outcome State Fault Refusal :=
  .next (s.on fun d => d.regCmd .fab fun d => d.rqCmd 1)

/-- RQ_ADD (R458): RQ_CMD 2 issues an ADD fn 0 at RQ_ADDR. -/
def execRqAdd (s : State) : Host.Outcome State Fault Refusal :=
  .next (s.on fun d => d.regCmd .fab fun d => d.rqCmd 2)

/-! ### Collectives -/

/-- COLL_DESC_WRITE (R466): A write to a collective descriptor sets it IDLE and clears its arrival counts. -/
def execCollDescWrite (path : Path) (core : Fin 8) (off : BitVec 12) (value : Word)
    (s : State) : Host.Outcome State Fault Refusal :=
  .next (s.on fun d => (d.dropHeld path).writeReg path (collAddr core 0 + off.toNat / 4 * 4) value 0)

/-- COLL_START (R467): A descriptor whose ready object and slot allow starts, consuming ready_target, or is refused.
-/
def execCollStart (core : Fin 8) (desc : Fin 64) (s : State) : Host.Outcome State Fault Refusal :=
  .next (s.on fun d => d.ifCore fun d => d.collStart core desc)

/-- MAXE (R477): An owner counts local exponents and, when all are in, forms emax and sends EGATH. -/
def execMaxe (src : PktSrc) (s : State) : Host.Outcome State Fault Refusal :=
  .next (s.on fun d => d.ifClocked fun d => d.maxe src)

/-- EGATH (R479): A contributor receiving agreed exponents converts the block to W and sends WADD. -/
def execEgath (src : PktSrc) (s : State) : Host.Outcome State Fault Refusal :=
  .next (s.on fun d => d.ifClocked fun d => d.egath src)

/-- WADD (R481): An owner adds W parts and, when all arrive, sends WGATH. -/
def execWadd (src : PktSrc) (s : State) : Host.Outcome State Fault Refusal :=
  .next (s.on fun d => d.ifClocked fun d => d.wadd src)

/-- WGATH (R482): A contributor converts summed W values to FP32 and writes dst. -/
def execWgath (src : PktSrc) (s : State) : Host.Outcome State Fault Refusal :=
  .next (s.on fun d => d.ifClocked fun d => d.wgath src)

/-- VMAX (R474): An owner combines MAX contributions and sends the result by VPUT. -/
def execVmax (src : PktSrc) (s : State) : Host.Outcome State Fault Refusal :=
  .next (s.on fun d => d.ifClocked fun d => d.vmax src)

/-- VSUM (R473): An owner adds ISUM or REDUCE_SCATTER addends and sends or keeps the result. -/
def execVsum (src : PktSrc) (s : State) : Host.Outcome State Fault Refusal :=
  .next (s.on fun d => d.ifClocked fun d => d.vsum src)

/-- VPUT (R473): Arriving data are written at the block's offset in dst or the staging array. -/
def execVput (src : PktSrc) (s : State) : Host.Outcome State Fault Refusal :=
  .next (s.on fun d => d.ifClocked fun d => d.vput src)

/-- COLL_COMPLETE (R471): A descriptor whose writes and packets are all acknowledged enters DONE and signals. -/
def execCollComplete (core : Fin 8) (desc : Fin 64) (s : State) : Host.Outcome State Fault Refusal :=
  .next (s.on fun d => d.ifCore fun d => (d.collComplete core desc).fcSettle)

end Sys2Proof.Machine
end

