-- ==== Sys2Proof/Machine/ExecSystem.lean ====
section
/-! DEFINITION. The meanings of the events and commands of step commit and telemetry (17, 19), fault collection (20), the recorder (21), power
(22), the host interface (23), start-up (24) and register accesses (25). -/

namespace Sys2Proof.Machine

/-! ### Commit and telemetry -/

/-- FINGERPRINT_POST (R506): A posted fingerprint piece is stored in its entry or ignored or marked conflicted. -/
def execFingerprintPost (i : Nat) (s : State) : Host.Outcome State Fault Refusal :=
  .next (s.on fun d => d.ifUp fun d => d.fingerprintPost i)

/-- BAROMETER_FLUSH (R208): A flushed Barometer line adds into the aggregator bank of its parity. -/
def execBarometerFlush (i : Nat) (s : State) : Host.Outcome State Fault Refusal :=
  .next (s.on fun d => d.ifUp fun d => d.barometerFlush i)

/-- COMMIT_BEGIN (R30): After the commit barrier releases, the package flushes telemetry, computes fingerprints,
writes the journal and keystone. -/
def execCommitBegin (s : State) : Host.Outcome State Fault Refusal :=
  .next (s.on fun d => d.ifCore fun d => d.commitBegin)

/-- FGP_DRAIN_DONE (R505): When every tile's drain marker has arrived the fingerprint bank closes and digests are
computed. -/
def execFgpDrainDone (longReduction : Bool) (s : State) : Host.Outcome State Fault Refusal :=
  .next (s.on fun d => d.ifUp fun d => d.fgpDrainDone longReduction)

/-- KEYSTONE_ACK (R548): A keystone target acknowledges its slot write. -/
def execKeystoneAck (target : Fin 3) (s : State) : Host.Outcome State Fault Refusal :=
  .next (s.on fun d => d.ifUp fun d => d.keystoneAck target)

/-- COMMIT_EFFECT (R30): When all keystone copies are acknowledged the commit takes effect, releasing gradients and
delivering records. -/
def execCommitEffect (s : State) : Host.Outcome State Fault Refusal :=
  .next (s.on fun d => d.ifUp fun d => d.commitEffect)

/-- KEYSTONE_TIMEOUT (R549): A target not acknowledging within KS_TIMEOUT fails and holds the commit. -/
def execKeystoneTimeout (target : Fin 3) (s : State) : Host.Outcome State Fault Refusal :=
  .next (s.on fun d => d.ifUp fun d => d.keystoneTimeout target)

/-- KS_RETRY (R549): KS_CMD.retry rewrites only the failed keystone targets. -/
def execKsRetry (value : Word) (s : State) : Host.Outcome State Fault Refusal :=
  .next (s.on fun d => (d.dropHeld .bar0) |> fun d => d.ksRetry value)

/-- RERUN (R534): RSL_CMD.rerun counts a rerun and clears ratio accumulators and the fingerprint bank. -/
def execRerun (path : Path) (value : Word) (s : State) : Host.Outcome State Fault Refusal :=
  .next (s.on fun d => (d.dropHeld path).rerun path value)

/-- SNAPSHOT_DONE (R545): A snapshot completes and SNAP_STEP takes the step, or it fails. -/
def execSnapshotDone (s : State) : Host.Outcome State Fault Refusal :=
  .next (s.on fun d => d.ifUp fun d => d.snapshotDone)

/-- STEP_BUNDLE_DELIVER (R654): A committed step's bundle is written to the delivery ring when it fits. -/
def execStepBundleDeliver (s : State) : Host.Outcome State Fault Refusal :=
  .next (s.on fun d => d.ifUp fun d => d.stepBundleDeliver)

/-- DLV_HELD (R655): A bundle held for more than 1 ms raises DLV_HELD. -/
def execDlvHeld (s : State) : Host.Outcome State Fault Refusal :=
  .next (s.on fun d => d.ifUp fun d => d.dlvHeld)

/-! ### Faults -/

/-- FAULT_EVENT (R562): An error source event reaches the collector and acts at its effective severity. -/
def execFaultEvent (page : BitVec 13) (src : Fin 32) (detail : Nat) (s : State) : Host.Outcome State Fault Refusal :=
  .next (s.on fun d => d.faultEvent page.toNat src detail)

/-- RAIL (R556): A dual-rail fault onset raises RAIL for the failing page. -/
def execRail (page : BitVec 13) (rails : RailPair) (s : State) : Host.Outcome State Fault Refusal :=
  .next (s.on fun d => d.ifUp fun d => if rails.lasts then d.rail page.toNat rails.src else d.railEnd page.toNat rails.src)

/-- DEWPOINT_WINDOW_END (R560): A dew-point window ends and its count returns to 0. -/
def execDewpointWindowEnd (page : BitVec 13) (reg : Fin 4) (s : State) : Host.Outcome State Fault Refusal :=
  .next (s.on fun d => d.ifUp fun d => d.dewEnd page.toNat reg)

/-- FENCE_SEQUENCE (R567): The collector starts the next queued fence sequence. -/
def execFenceSequence (s : State) : Host.Outcome State Fault Refusal :=
  .next (s.on fun d => d.ifUp fun d => d.fenceStart)

/-- FENCE_COMPLETE (R567): A fence sequence completes and the next queued one may start. -/
def execFenceComplete (s : State) : Host.Outcome State Fault Refusal :=
  .next (s.on fun d => d.ifUp fun d => d.fenceComplete)

/-- FENCE_TIMEOUT (R569): A fence sequence exceeding its bound resets the package. -/
def execFenceTimeout (s : State) : Host.Outcome State Fault Refusal :=
  .next (s.on fun d => d.ifUp fun d => d.fenceTimeout)

/-- UNFENCE (R570): FLT_CMD.unfence clears a unit's fence when its conditions hold. -/
def execUnfence (s : State) : Host.Outcome State Fault Refusal :=
  .next (s.on fun d => (d.dropHeld .bar0) |> fun d => d.fltCmd .bar0 1)

/-- FENCE (R570): FLT_CMD.fence queues a host-initiated fence of FLT_UNIT. -/
def execFence (s : State) : Host.Outcome State Fault Refusal :=
  .next (s.on fun d => (d.dropHeld .bar0) |> fun d => d.fltCmd .bar0 2)

/-- CLR_CNT (R583): FLT_CMD.clr_cnt zeroes the counts of the selected page. -/
def execClrCnt (s : State) : Host.Outcome State Fault Refusal :=
  .next (s.on fun d => (d.dropHeld .bar0) |> fun d => d.fltCmd .bar0 4)

/-- ACK_RESET (R571): FLT_CMD.ack_reset ends the RESET hold. -/
def execAckReset (path : Path) (s : State) : Host.Outcome State Fault Refusal :=
  .next (s.on fun d => (d.dropHeld path).fltCmd path 8)

/-- HEALTH_WRITE (R578): A host write of 01 to a health field marks the unit SUSPECT. -/
def execHealthWrite (off : BitVec 12) (value : Word) (s : State) : Host.Outcome State Fault Refusal :=
  .next (s.on fun d => (d.dropHeld .bar0) |> fun d => d.healthWrite .bar0 (off.toNat / 4 * 4) value)

/-- CHECKRUN (R580): After a commit the checkrun engines test selected tiles and compare with known answers. -/
def execCheckrun (fails memFails : List (Fin 1632)) (left : List (Fin 1632 × List Byte)) (top : List (Fin 8 × List Byte))
    (s : State) : Host.Outcome State Fault Refusal :=
  .next (s.on fun d => d.ifUp fun d =>
    d.checkrun (natsOf fails) (natsOf memFails) (pairsOf left) (pairsOf top))

/-- REPORT_RESEND (R576): An unanswered management report is resent after 100 ms, or discarded after two resends. -/
def execReportResend (seq : Byte) (s : State) : Host.Outcome State Fault Refusal :=
  .next (s.on fun d => d.reportResend seq)

/-- REPORT_RESPONSE (R576): A response to a management report frees its place. -/
def execReportResponse (seq : Byte) (s : State) : Host.Outcome State Fault Refusal :=
  .next (s.on fun d => d.reportResponse seq)

/-! ### Recorder -/

/-- EVR_RECORD_WRITE (R590): The MC writes the next queued event to the circular area, erasing ahead when needed. -/
def execEvrRecordWrite (readBack : Option (List Byte)) (eraseOk : Bool)
    (s : State) : Host.Outcome State Fault Refusal :=
  .next (s.on fun d => d.recordWrite readBack eraseOk)

/-- MINUTE_TICK (R588): Each full minute with PWR_OK high adds one operating minute. -/
def execMinuteTick (s : State) : Host.Outcome State Fault Refusal :=
  .next (s.on fun d => d.minuteTick)

/-- COUNTER_APPEND (R588): Every 15 minutes the MC appends the counts to the counter area. -/
def execCounterAppend (s : State) : Host.Outcome State Fault Refusal :=
  .next (s.on fun d => d.counterAppend)

/-- CHAL (R594): EVR_CMD.chal issues a 32-byte challenge. -/
def execChal (mgmt : Bool) (s : State) : Host.Outcome State Fault Refusal :=
  .next (s.on fun d => if mgmt then d.chalIssue true else (d.dropHeld .bar0).evrCmd 1 ClearRun.clean)

/-- CLEAR (R594): EVR_CMD.clear verifies the response and erases the circular area or denies. -/
def execClear (order : ClearOrder) (s : State) : Host.Outcome State Fault Refusal :=
  .next (s.on fun d => match order.msg with
    | some m => d.clearCmd (some m) order.run
    | none => (d.dropHeld .bar0).evrCmd 2 order.run)

/-- CHALLENGE_EXPIRE (R594): A challenge expires after 60 s. -/
def execChallengeExpire (s : State) : Host.Outcome State Fault Refusal :=
  .next (s.on fun d => d.chalExpire)

/-- KEY_SET (R595): The clearing key is provisioned or replaced over the management interface. -/
def execKeySet (key : List Byte) (id : DWord) (resp : List Byte) (s : State) : Host.Outcome State Fault Refusal :=
  .next (s.on fun d => d.keySet key id resp)

/-- EVR_READ_MSG (R596): A management message returns 1 to 16 raw recorder slots. -/
def execEvrReadMsg (circular : Bool) (first : BitVec 13) (more : Fin 16)
    (s : State) : Host.Outcome State Fault Refusal :=
  .next (s.on fun d => d.evrReadMsg circular first.toNat more)

/-- EVR_WIN_SEL (R596): A write copies 32 recorder slots into EVR_WIN. -/
def execEvrWinSel (value : Word) (s : State) : Host.Outcome State Fault Refusal :=
  .next (s.on fun d => (d.dropHeld .bar0) |> fun d => d.evrWinSel value)

/-! ### Power -/

/-- GUST_PERIOD (R606): Every 2 us Gust divides the budget among rest, links, memory ports and cores. -/
def execGustPeriod (energy estimate gated : List Nat) (avgW : Nat) (s : State) : Host.Outcome State Fault Refusal :=
  .next (s.on fun d => d.ifUp fun d => d.gustPeriod energy estimate gated avgW)

/-- GRANT_SPENT (R609): A core or memory port that has spent its grant is held until the period ends. -/
def execGrantSpent (consumer : Fin 16) (cycles : Nat) (s : State) : Host.Outcome State Fault Refusal :=
  .next (s.on fun d => d.ifUp fun d => d.grantSpent consumer cycles)

/-- THROTTLE_EXT (R611): THROTTLE_N sampled low while not driven starts an emergency throttle. -/
def execThrottleExt (s : State) : Host.Outcome State Fault Refusal :=
  .next (s.on fun d => d.throttleExt)

/-- SENSOR_READ (R616): Every 10 us temperatures are read and thresholds applied. -/
def execSensorRead (readings : List (Fin 46 × BitVec 12)) (s : State) : Host.Outcome State Fault Refusal :=
  .next (s.on fun d => d.sensorRead (readings.map fun r => (r.1.val, r.2.toNat)))

/-- SENSOR_FAIL (R615): A sensor reporting nothing for 100 us fails and reads the trip value. -/
def execSensorFail (sensor : Fin 46) (s : State) : Host.Outcome State Fault Refusal :=
  .next (s.on fun d => d.sensorFail sensor)

/-- THROTTLE_RELEASE (R613): After 100 us with no cause the throttle is released. -/
def execThrottleRelease (s : State) : Host.Outcome State Fault Refusal :=
  .next (s.on fun d => d.ifUp fun d => d.throttleRelease)

/-- CALM (R620): PWR_CMD.calm enters Calm when every condition holds, or is refused. -/
def execCalm (s : State) : Host.Outcome State Fault Refusal :=
  .next (s.on fun d => (d.dropHeld .bar0) |> fun d => d.calmCmd)

/-- WAKE (R621): PWR_CMD.wake restarts clocks and leaves self-refresh. -/
def execWake (s : State) : Host.Outcome State Fault Refusal :=
  .next (s.on fun d => (d.dropHeld .bar0) |> fun d => d.wakeCmd)

/-- CALM_ENTERED (R620): Calm entry completes and the state reads CALM. -/
def execCalmEntered (s : State) : Host.Outcome State Fault Refusal :=
  .next (s.on fun d => d.ifUp fun d => d.calmEntered)

/-- WAKE_DONE (R621): Wake completes and the state reads RUN. -/
def execWakeDone (s : State) : Host.Outcome State Fault Refusal :=
  .next (s.on fun d => d.ifUp fun d => d.wakeDone)

/-- CLK_CAP_WRITE (R605): A PWR_CLK_CAP write sets the tile clock within 10 us while disarmed. -/
def execClkCapWrite (value : Word) (s : State) : Host.Outcome State Fault Refusal :=
  .next (s.on fun d => (d.dropHeld .bar0) |> fun d => d.clkCapWrite value)

/-- HBM_REFRESH_DUE (R379): A due refresh is deferred as debt or performed at once, stalling the port. -/
def execHbmRefreshDue (port : Fin 8) (s : State) : Host.Outcome State Fault Refusal :=
  .next (s.on fun d => d.ifUp fun d => (d.refreshDue port).fcSettle)

/-- THROTTLE_N_HIGH (R613): THROTTLE_N has been high for 10 us and cause EXT of the emergency throttle clears. -/
def execThrottleNHigh (s : State) : Host.Outcome State Fault Refusal :=
  .next (s.on fun d => d.throttleHigh)

/-! ### Host interface -/

/-- CMD_TAIL (R636): A doorbell write tells the device new commands are in the ring. -/
def execCmdTail (ring : Fin 64) (index : Word) (s : State) : Host.Outcome State Fault Refusal :=
  .next (s.on fun d => d.cmdTail ring index)

/-- CPL_HEAD (R644): A doorbell write releases completion entries. -/
def execCplHead (ring : Fin 64) (index : Word) (s : State) : Host.Outcome State Fault Refusal :=
  .next (s.on fun d => d.cplHead ring index)

/-- RING_ENABLE (R635): Enabling a command ring resets its head, tail, sequence and phase. -/
def execRingEnable (path : Path) (ring : Fin 64) (value : Word) (s : State) : Host.Outcome State Fault Refusal :=
  .next (s.on fun d => (d.dropHeld path).ringCfgWrite path ring value)

/-- CMD_NOP (R639): Host command NOP completes with its value. -/
def execCmdNop (ring : Fin 64) (opcode : Byte) (cmd : HostCmd) (s : State) : Host.Outcome State Fault Refusal :=
  .next (s.on fun d => d.cmdNop ring opcode cmd)

/-- COPY_H2D (R639): Copies bytes from host memory to HBM. -/
def execCopyH2d (ring : Fin 64) (cmd : HostCmd) (data : List Byte) (s : State) : Host.Outcome State Fault Refusal :=
  .next (s.on fun d => d.copyH2d ring cmd data)

/-- COPY_D2H (R639): Copies bytes from HBM to host memory. -/
def execCopyD2h (ring : Fin 64) (cmd : HostRead) (s : State) : Host.Outcome State Fault Refusal :=
  .next (s.on fun d => d.copyD2h ring cmd)

/-- FILL (R639): Fills HBM with a 32-bit value. -/
def execFill (ring : Fin 64) (cmd : HostCmd) (s : State) : Host.Outcome State Fault Refusal :=
  .next (s.on fun d => d.fill ring cmd)

/-- CRC (R639): Computes CRC-64 over HBM bytes. -/
def execCrc (ring : Fin 64) (cmd : HostRead) (s : State) : Host.Outcome State Fault Refusal :=
  .next (s.on fun d => d.crcCmd ring cmd)

/-- SYNC (R639): Adds or sets a sync object from a command ring. -/
def execSync (ring : Fin 64) (cmd : HostCmd) (s : State) : Host.Outcome State Fault Refusal :=
  .next (s.on fun d => (d.syncCmd ring cmd).fcSettle)

/-- WAIT (R639): Waits until a sync object meets a value. -/
def execWait (ring : Fin 64) (cmd : HostCmd) (s : State) : Host.Outcome State Fault Refusal :=
  .next (s.on fun d => d.waitCmd ring cmd)

/-- WAIT_COMPLETE (R639): A WAIT whose object meets its condition completes. -/
def execWaitComplete (ring : Fin 64) (s : State) : Host.Outcome State Fault Refusal :=
  .next (s.on fun d => d.waitComplete ring)

/-- WAIT_TIMEOUT (R641): A WAIT whose timeout passes completes with TIMEOUT. -/
def execWaitTimeout (ring : Fin 64) (s : State) : Host.Outcome State Fault Refusal :=
  .next (s.on fun d => d.waitTimeout ring)

/-- READ (R639): Copies HBM bytes into a result page. -/
def execRead (ring : Fin 64) (cmd : HostRead) (s : State) : Host.Outcome State Fault Refusal :=
  .next (s.on fun d => d.readCmd ring cmd)

/-- TIME (R639): Completes with the fabric time. -/
def execTime (ring : Fin 64) (cmd : HostCmd) (s : State) : Host.Outcome State Fault Refusal :=
  .next (s.on fun d => d.timeCmd ring cmd)

/-- IRQ_TIMER (R645): Pending completions send the MSI-X message when the coalescing time passes. -/
def execIrqTimer (ring : Fin 64) (s : State) : Host.Outcome State Fault Refusal :=
  .next (s.on fun d => d.irqTimer ring)

/-- RESULT_ACK (R649): A matching acknowledgement invalidates a result page. -/
def execResultAck (page : BitVec 12) (seq : Word) (s : State) : Host.Outcome State Fault Refusal :=
  .next (s.on fun d => d.resultAck page.toNat seq)

/-- DLV_ENABLE (R651): Enabling delivery resets head, tail and phase. -/
def execDlvEnable (value : Word) (s : State) : Host.Outcome State Fault Refusal :=
  .next (s.on fun d => (d.dropHeld .bar0) |> fun d => d.hifCtrl value)

/-- BAR2_READ (R631): A host read through the HBM window. -/
def execBar2Read (off : BitVec 36) (span : ReadSpan) (s : State) : Host.Outcome State Fault Refusal :=
  .next (s.on fun d => d.bar2Read off.toNat span.n.toNat span.bad)

/-- BAR2_WRITE (R631): A host write through the HBM window. -/
def execBar2Write (off : BitVec 36) (data : List Byte) (s : State) : Host.Outcome State Fault Refusal :=
  .next (s.on fun d => d.bar2Write off.toNat data)

/-- FUNCTION_LEVEL_RESET (R630): Resets the HIF page, doorbells, result pages and MSI-X entries. -/
def execFunctionLevelReset (s : State) : Host.Outcome State Fault Refusal :=
  .next (s.on fun d => if d.pins.perstN && d.mc.stage ≠ .off && !d.mc.railLost then d.flr else d)

/-! ### Start-up -/

/-- POWER_UP (R670): PWR_OK rising boots the MC and samples the straps. -/
def execPowerUp (cool1 cool2 : BitVec 2) (bootSel : Bool) (levels : PinLevels)
    (s : State) : Host.Outcome State Fault Refusal :=
  .next (s.on fun d => d.powerUp cool1 cool2 bootSel levels.i3cAddr levels.fref)

/-- POWER_DOWN (R662): PWR_OK falling resets everything but flash and fuses. -/
def execPowerDown (s : State) : Host.Outcome State Fault Refusal :=
  .next (s.on fun d => d.powerDown)

/-- RAIL_LOSS (R663): A main rail below 90% for 2 us resets the main domain. -/
def execRailLoss (s : State) : Host.Outcome State Fault Refusal :=
  .next (s.on fun d => d.railLoss)

/-- PERST_ASSERT (R664): PERST_N low resets the main domain and host port. -/
def execPerstAssert (s : State) : Host.Outcome State Fault Refusal :=
  .next (s.on fun d => d.perstAssert)

/-- PERST_DEASSERT (R671): PERST_N high starts start-up from stage 2 and PCIe training. -/
def execPerstDeassert (link : BitVec 9) (s : State) : Host.Outcome State Fault Refusal :=
  .next (s.on fun d => d.perstDeassert link.toNat)

/-- MC_BOOT (R670): MC boot completes with a verified image or recovery. -/
def execMcBoot (flash : BootFlash) (s : State) : Host.Outcome State Fault Refusal :=
  .next (s.on fun d => d.mcBoot flash)

/-- FUSE (R671): Fuse read and repair complete. -/
def execFuse (ok : Bool) (s : State) : Host.Outcome State Fault Refusal :=
  .next (s.on fun d => d.fuseStage ok)

/-- SRAM_INIT (R671): Array zeroing completes. -/
def execSramInit (s : State) : Host.Outcome State Fault Refusal :=
  .next (s.on fun d => d.sramInit)

/-- HBM_TRAIN (R672): Memory port training completes, fencing failed stacks. -/
def execHbmTrain (failed : BitVec 8) (lanes : List Byte) (s : State) : Host.Outcome State Fault Refusal :=
  .next (s.on fun d => d.hbmTrain failed lanes)

/-- HBM_ZERO (R671): HBM zeroing completes. -/
def execHbmZero (s : State) : Host.Outcome State Fault Refusal :=
  .next (s.on fun d => d.hbmZero)

/-- TILE_FW (R671): Tile firmware load and start-up checkruns complete. -/
def execTileFw (version : Word) (fails memFails : List (Fin 1632)) (left : List (Fin 1632 × List Byte)) (top : List (Fin 8 × List Byte))
    (s : State) : Host.Outcome State Fault Refusal :=
  .next (s.on fun d => d.tileFw version (natsOf fails) (natsOf memFails) (pairsOf left) (pairsOf top))

/-- JTAG_TRST (R664): JTAG_TRST_N low resets the TAP controller. -/
def execJtagTrst (s : State) : Host.Outcome State Fault Refusal :=
  .next (s.on fun d => d.jtagTrst)

/-- CONFIGURATION_REQUEST (R674): A PCIe configuration request is answered with Request Retry Status before HOST_EN,
or completed, which moves start-up from HOST_EN to READY. -/
def execConfigurationRequest (ms : BitVec 16) (s : State) : Host.Outcome State Fault Refusal :=
  .next (s.on fun d => d.configRequest ms.toNat)

/-- FIRMWARE_UPDATE (R670): A PLDM firmware update image is received over I3C, verified and activated, and the MC
records FW_UPDATE. -/
def execFirmwareUpdate (tileFirmware : Bool) (version : Word) (cleared : List (BitVec 13))
    (s : State) : Host.Outcome State Fault Refusal :=
  .next (s.on fun d => d.firmwareUpdate tileFirmware version (cleared.map fun u => u.toNat))

/-- SMBUS_FALLBACK (R711): The bus controller assigns no dynamic address within 50 ms of stage 2, and the management
interface falls back to SMBus at the static address. -/
def execSmbusFallback (s : State) : Host.Outcome State Fault Refusal :=
  .next (s.on fun d => d.smbusFallback)

/-- TIMEBASE_RETURN (R363): TIMEBASE edges arrive again after TIMEBASE_LOST, so the time base leaves its internal
oscillator, TMB_STAT shows TIMEBASE present and EPOCH edges take effect again. -/
def execTimebaseReturn (s : State) : Host.Outcome State Fault Refusal :=
  .next (s.on fun d => d.timebaseReturn)

/-! ### Register accesses -/

/-- BLK_CTRL_EN (R682): Writing BLK_CTRL.en enables or disables a block with its chapter's effect. -/
def execBlkCtrlEn (path : Path) (off : BitVec 26) (value : Word) (s : State) : Host.Outcome State Fault Refusal :=
  .next (s.on fun d => d.registerWrite path (off.toNat / 0x1000 * 0x1000 + blkCtrl) 4 value)

/-- SOFT_RESET (R684): BLK_CTRL.soft_reset resets one block's state under its condition. -/
def execSoftReset (path : Path) (off : BitVec 26) (value : Word) (s : State) : Host.Outcome State Fault Refusal :=
  .next (s.on fun d => d.registerWrite path (off.toNat / 0x1000 * 0x1000 + blkCtrl) 4 (value ||| 2#32))

/-- REGISTER_WRITE (R680): A write to a register without its own row stores its fields or is ignored and counted. -/
def execRegisterWrite (path : Path) (off : BitVec 28) (size : Nat) (value : Word)
    (s : State) : Host.Outcome State Fault Refusal :=
  .next (s.on fun d => d.registerWrite path off.toNat size value)

end Sys2Proof.Machine
end

