-- ==== Sys2Proof/Machine/ExecTile.lean ====
section
/-! DEFINITION. The meanings of the tile instructions, one definition each: a slot joins its bundle, and the last slot of a bundle offers it
for issue (R55 to R166). What a slot does stands in the sem definition of its family. -/

namespace Sys2Proof.Machine

/-! ### S slot -/

/-- NOP (R88): A slot whose opcode and every other bit are 0 does nothing. -/
def execNop (at_ : At) (slot : Fin 4) (rsv : BitVec 26) (s : State) : Host.Outcome State Fault Refusal :=
  .next (s.on fun d => d.runSlot at_ (.nop at_ slot rsv))

/-- ALU (R93): Scalar arithmetic, logic, shift or compare of sA and sB, chosen by fn, written to sD. -/
def execAlu (at_ : At) (sD sA sB : BitVec 6) (fn : BitVec 8) (s : State) : Host.Outcome State Fault Refusal :=
  .next (s.on fun d => d.runSlot at_ (.alu at_ sD sA sB fn))

/-- MUL (R93): Scalar multiply writing the low 32 bits, or the signed or unsigned high 32 bits, of the product. -/
def execMul (at_ : At) (sD sA sB : BitVec 6) (fn : BitVec 8) (s : State) : Host.Outcome State Fault Refusal :=
  .next (s.on fun d => d.runSlot at_ (.mul at_ sD sA sB fn))

/-- ADDI (R93): sD = sA plus the sign-extended 14-bit immediate. -/
def execAddi (at_ : At) (sD sA : BitVec 6) (imm : BitVec 14) (s : State) : Host.Outcome State Fault Refusal :=
  .next (s.on fun d => d.runSlot at_ (.addi at_ sD sA imm))

/-- ANDI (R93): sD = sA AND the zero-extended immediate. -/
def execAndi (at_ : At) (sD sA : BitVec 6) (imm : BitVec 14) (s : State) : Host.Outcome State Fault Refusal :=
  .next (s.on fun d => d.runSlot at_ (.andi at_ sD sA imm))

/-- ORI (R93): sD = sA OR the zero-extended immediate. -/
def execOri (at_ : At) (sD sA : BitVec 6) (imm : BitVec 14) (s : State) : Host.Outcome State Fault Refusal :=
  .next (s.on fun d => d.runSlot at_ (.ori at_ sD sA imm))

/-- XORI (R93): sD = sA XOR the zero-extended immediate. -/
def execXori (at_ : At) (sD sA : BitVec 6) (imm : BitVec 14) (s : State) : Host.Outcome State Fault Refusal :=
  .next (s.on fun d => d.runSlot at_ (.xori at_ sD sA imm))

/-- SHIFTI (R93): Shifts sA left, right logical or right arithmetic by an immediate amount. -/
def execShifti (at_ : At) (sD sA : BitVec 6) (kind : BitVec 2) (amount : BitVec 5) (rsv : BitVec 7)
    (s : State) : Host.Outcome State Fault Refusal :=
  .next (s.on fun d => d.runSlot at_ (.shifti at_ sD sA kind amount rsv))

/-- SLTI (R93): Writes 1 to sD when sA is signed-less than the immediate, and 0 otherwise. -/
def execSlti (at_ : At) (sD sA : BitVec 6) (imm : BitVec 14) (s : State) : Host.Outcome State Fault Refusal :=
  .next (s.on fun d => d.runSlot at_ (.slti at_ sD sA imm))

/-- LUI (R93): Loads a 20-bit immediate shifted left by 12 into sD. -/
def execLui (at_ : At) (sD : BitVec 6) (imm : BitVec 20) (s : State) : Host.Outcome State Fault Refusal :=
  .next (s.on fun d => d.runSlot at_ (.lui at_ sD imm))

/-- BR (R95): Branches to an absolute bundle index when the condition holds for sA and sB. -/
def execBr (at_ : At) (sA sB : BitVec 6) (cond : BitVec 4) (target : BitVec 10)
    (s : State) : Host.Outcome State Fault Refusal :=
  .next (s.on fun d => d.runSlot at_ (.br at_ sA sB cond target))

/-- BRP (R95): Branches when any bit, or every bit, of a predicate register is 1. -/
def execBrp (at_ : At) (p : BitVec 3) (all : Bool) (target : BitVec 10) (rsv : BitVec 12)
    (s : State) : Host.Outcome State Fault Refusal :=
  .next (s.on fun d => d.runSlot at_ (.brp at_ p all target rsv))

/-- CALL (R95): Writes PC + 1 to sD and branches to the target. -/
def execCall (at_ : At) (sD : BitVec 6) (target : BitVec 10) (rsv : BitVec 10)
    (s : State) : Host.Outcome State Fault Refusal :=
  .next (s.on fun d => d.runSlot at_ (.call at_ sD target rsv))

/-- JR (R95): Branches to the bundle index held in sA[9:0]. -/
def execJr (at_ : At) (sA : BitVec 6) (rsv : BitVec 20) (s : State) : Host.Outcome State Fault Refusal :=
  .next (s.on fun d => d.runSlot at_ (.jr at_ sA rsv))

/-- HALT (R96): Clears the running context's run bit once the slots of its bundle have completed. -/
def execHalt (at_ : At) (rsv : BitVec 26) (s : State) : Host.Outcome State Fault Refusal :=
  .next (s.on fun d => d.runSlot at_ (.halt at_ rsv))

/-- TRAP (R96): Raises trap SOFTWARE with the immediate as TRAP_INFO. -/
def execTrap (at_ : At) (imm : BitVec 16) (rsv : BitVec 10) (s : State) : Host.Outcome State Fault Refusal :=
  .next (s.on fun d => d.runSlot at_ (.trap at_ imm rsv))

/-- AADDI (R93): aD = aA plus a sign-extended 18-bit immediate, modulo 2^32. -/
def execAaddi (at_ : At) (aD aA : BitVec 4) (imm : BitVec 18) (s : State) : Host.Outcome State Fault Refusal :=
  .next (s.on fun d => d.runSlot at_ (.aaddi at_ aD aA imm))

/-- A2ADDI (R97): Adds signed row and column deltas to a 2D address register, each half modulo 2^16. -/
def execA2addi (at_ : At) (aD aA : BitVec 4) (dr dc : BitVec 8) (rsv : BitVec 2)
    (s : State) : Host.Outcome State Fault Refusal :=
  .next (s.on fun d => d.runSlot at_ (.a2addi at_ aD aA dr dc rsv))

/-- AMOV (R93): Copies scalar register sA into address register aD. -/
def execAmov (at_ : At) (aD : BitVec 4) (sA : BitVec 6) (rsv : BitVec 16)
    (s : State) : Host.Outcome State Fault Refusal :=
  .next (s.on fun d => d.runSlot at_ (.amov at_ aD sA rsv))

/-- AREAD (R93): Copies address register aA into scalar register sD. -/
def execAread (at_ : At) (sD : BitVec 6) (aA : BitVec 4) (rsv : BitVec 16)
    (s : State) : Host.Outcome State Fault Refusal :=
  .next (s.on fun d => d.runSlot at_ (.aread at_ sD aA rsv))

/-- A2SET (R93): Builds a 2D address from the low halves of sA (row) and sB (column). -/
def execA2set (at_ : At) (aD : BitVec 4) (sA sB : BitVec 6) (rsv : BitVec 10)
    (s : State) : Host.Outcome State Fault Refusal :=
  .next (s.on fun d => d.runSlot at_ (.a2set at_ aD sA sB rsv))

/-- AADD (R93): aD = aA + sB modulo 2^32. -/
def execAadd (at_ : At) (aD aA : BitVec 4) (sB : BitVec 6) (rsv : BitVec 12)
    (s : State) : Host.Outcome State Fault Refusal :=
  .next (s.on fun d => d.runSlot at_ (.aadd at_ aD aA sB rsv))

/-- A2ADD (R97): Adds the row and column halves of sB to a 2D address register. -/
def execA2add (at_ : At) (aD aA : BitVec 4) (sB : BitVec 6) (rsv : BitVec 12)
    (s : State) : Host.Outcome State Fault Refusal :=
  .next (s.on fun d => d.runSlot at_ (.a2add at_ aD aA sB rsv))

/-- CSW (R156): Switches to the other context, under rule 3 of R59, when that context's run bit is set. -/
def execCsw (at_ : At) (rsv : BitVec 26) (s : State) : Host.Outcome State Fault Refusal :=
  .next (s.on fun d => d.runSlot at_ (.csw at_ rsv))

/-- LTRD (R156): Reads a sign-extended layer-table entry into sD. -/
def execLtrd (at_ : At) (sD sL : BitVec 6) (rsv : BitVec 14) (s : State) : Host.Outcome State Fault Refusal :=
  .next (s.on fun d => d.runSlot at_ (.ltrd at_ sD sL rsv))

/-! ### X slot: loads and stores -/

/-- LTWR (R156): Writes a layer-table entry from sV[7:0]. -/
def execLtwr (at_ : At) (sL sV : BitVec 6) (rsv : BitVec 14) (s : State) : Host.Outcome State Fault Refusal :=
  .next (s.on fun d => d.runSlot at_ (.ltwr at_ sL sV rsv))

/-- LDW (R100): Loads 32 bits from scratchpad, core pool window or tile page. -/
def execLdw (at_ : At) (sD : BitVec 6) (aB : BitVec 4) (u : Bool) (imm : BitVec 15)
    (s : State) : Host.Outcome State Fault Refusal :=
  .next (s.on fun d => d.runSlot at_ (.ldw at_ sD aB u imm))

/-- LDH (R100): Loads 16 bits, sign-extended. -/
def execLdh (at_ : At) (sD : BitVec 6) (aB : BitVec 4) (u : Bool) (imm : BitVec 15)
    (s : State) : Host.Outcome State Fault Refusal :=
  .next (s.on fun d => d.runSlot at_ (.ldh at_ sD aB u imm))

/-- LDHU (R100): Loads 16 bits, zero-extended. -/
def execLdhu (at_ : At) (sD : BitVec 6) (aB : BitVec 4) (u : Bool) (imm : BitVec 15)
    (s : State) : Host.Outcome State Fault Refusal :=
  .next (s.on fun d => d.runSlot at_ (.ldhu at_ sD aB u imm))

/-- LDB (R100): Loads 8 bits, sign-extended. -/
def execLdb (at_ : At) (sD : BitVec 6) (aB : BitVec 4) (u : Bool) (imm : BitVec 15)
    (s : State) : Host.Outcome State Fault Refusal :=
  .next (s.on fun d => d.runSlot at_ (.ldb at_ sD aB u imm))

/-- LDBU (R100): Loads 8 bits, zero-extended. -/
def execLdbu (at_ : At) (sD : BitVec 6) (aB : BitVec 4) (u : Bool) (imm : BitVec 15)
    (s : State) : Host.Outcome State Fault Refusal :=
  .next (s.on fun d => d.runSlot at_ (.ldbu at_ sD aB u imm))

/-- STW (R100): Stores 32 bits. -/
def execStw (at_ : At) (sA : BitVec 6) (aB : BitVec 4) (u : Bool) (imm : BitVec 15)
    (s : State) : Host.Outcome State Fault Refusal :=
  .next (s.on fun d => d.runSlot at_ (.stw at_ sA aB u imm))

/-- STH (R222): Stores 16 bits through the write-combining buffer. -/
def execSth (at_ : At) (sA : BitVec 6) (aB : BitVec 4) (u : Bool) (imm : BitVec 15)
    (s : State) : Host.Outcome State Fault Refusal :=
  .next (s.on fun d => d.runSlot at_ (.sth at_ sA aB u imm))

/-- STB (R222): Stores 8 bits through the write-combining buffer. -/
def execStb (at_ : At) (sA : BitVec 6) (aB : BitVec 4) (u : Bool) (imm : BitVec 15)
    (s : State) : Host.Outcome State Fault Refusal :=
  .next (s.on fun d => d.runSlot at_ (.stb at_ sA aB u imm))

/-- LDV_W (R100): Loads 64 words into a vector register, with predication. -/
def execLdvW (at_ : At) (vD : BitVec 5) (aB : BitVec 4) (u : Bool) (p : BitVec 3) (imm : BitVec 12) (rsv : BitVec 1)
    (s : State) : Host.Outcome State Fault Refusal :=
  .next (s.on fun d => d.runSlot at_ (.ldvW at_ vD aB u p imm rsv))

/-- LDV_HU (R100): Loads 64 zero-extended halfwords into a vector register. -/
def execLdvHu (at_ : At) (vD : BitVec 5) (aB : BitVec 4) (u : Bool) (p : BitVec 3) (imm : BitVec 12) (rsv : BitVec 1)
    (s : State) : Host.Outcome State Fault Refusal :=
  .next (s.on fun d => d.runSlot at_ (.ldvHu at_ vD aB u p imm rsv))

/-- LDV_B (R100): Loads 64 sign-extended bytes into a vector register. -/
def execLdvB (at_ : At) (vD : BitVec 5) (aB : BitVec 4) (u : Bool) (p : BitVec 3) (imm : BitVec 12) (rsv : BitVec 1)
    (s : State) : Host.Outcome State Fault Refusal :=
  .next (s.on fun d => d.runSlot at_ (.ldvB at_ vD aB u p imm rsv))

/-- STV_W (R100): Stores the 64 lanes as words. -/
def execStvW (at_ : At) (vA : BitVec 5) (aB : BitVec 4) (u : Bool) (p : BitVec 3) (imm : BitVec 12) (rsv : BitVec 1)
    (s : State) : Host.Outcome State Fault Refusal :=
  .next (s.on fun d => d.runSlot at_ (.stvW at_ vA aB u p imm rsv))

/-- STV_H (R103): Stores the 64 lanes as halfwords, merging partial words at the bank. -/
def execStvH (at_ : At) (vA : BitVec 5) (aB : BitVec 4) (u : Bool) (p : BitVec 3) (imm : BitVec 12) (rsv : BitVec 1)
    (s : State) : Host.Outcome State Fault Refusal :=
  .next (s.on fun d => d.runSlot at_ (.stvH at_ vA aB u p imm rsv))

/-- STV_B (R103): Stores the 64 lanes as bytes, merging partial words at the bank. -/
def execStvB (at_ : At) (vA : BitVec 5) (aB : BitVec 4) (u : Bool) (p : BitVec 3) (imm : BitVec 12) (rsv : BitVec 1)
    (s : State) : Host.Outcome State Fault Refusal :=
  .next (s.on fun d => d.runSlot at_ (.stvB at_ vA aB u p imm rsv))

/-- LDV2 (R98): Loads 64 words along a row or down a column of a scratchpad plane. -/
def execLdv2 (at_ : At) (vD : BitVec 5) (aB : BitVec 4) (sP : BitVec 6) (dir : Bool) (p : BitVec 3) (rsv : BitVec 7)
    (s : State) : Host.Outcome State Fault Refusal :=
  .next (s.on fun d => d.runSlot at_ (.ldv2 at_ vD aB sP dir p rsv))

/-! ### X slot: queues, objects, streams, remote writes -/

/-- STV2 (R98): Stores 64 words along a row or down a column of a scratchpad plane. -/
def execStv2 (at_ : At) (vA : BitVec 5) (aB : BitVec 4) (sP : BitVec 6) (dir : Bool) (p : BitVec 3) (rsv : BitVec 7)
    (s : State) : Host.Outcome State Fault Refusal :=
  .next (s.on fun d => d.runSlot at_ (.stv2 at_ vA aB sP dir p rsv))

/-- SEND_REQ (R105): Sends lanes of vA as a request-class message to a tile or core queue. -/
def execSendReq (at_ : At) (vA : BitVec 5) (sDst len : BitVec 6) (rsv : BitVec 9)
    (s : State) : Host.Outcome State Fault Refusal :=
  .next (s.on fun d => d.runSlot at_ (.sendReq at_ vA sDst len rsv))

/-- SEND_RPL (R105): Sends lanes of vA as a reply-class message. -/
def execSendRpl (at_ : At) (vA : BitVec 5) (sDst len : BitVec 6) (rsv : BitVec 9)
    (s : State) : Host.Outcome State Fault Refusal :=
  .next (s.on fun d => d.runSlot at_ (.sendRpl at_ vA sDst len rsv))

/-- QRD (R68): Pops the head message of a receive queue into a vector or scalar register. -/
def execQrd (at_ : At) (dest : BitVec 6) (qn : BitVec 4) (kind : BitVec 1) (rsv : BitVec 15)
    (s : State) : Host.Outcome State Fault Refusal :=
  .next (s.on fun d => d.runSlot at_ (.qrd at_ dest qn kind rsv))

/-- QCNT (R105): Reads the number of whole messages in a queue, spilled ones included, without popping. -/
def execQcnt (at_ : At) (sD : BitVec 6) (qn : BitVec 4) (kind : BitVec 1) (rsv : BitVec 15)
    (s : State) : Host.Outcome State Fault Refusal :=
  .next (s.on fun d => d.runSlot at_ (.qcnt at_ sD qn kind rsv))

/-- SADD (R108): Adds sVal to a sync object and returns the prior value, or posts the add. -/
def execSadd (at_ : At) (sD sObj sVal : BitVec 6) (rsv : BitVec 8) (s : State) : Host.Outcome State Fault Refusal :=
  .next (s.on fun d => d.runSlot at_ (.sadd at_ sD sObj sVal rsv))

/-- SSET (R108): Sets a sync object and returns the prior value. -/
def execSset (at_ : At) (sD sObj sVal : BitVec 6) (rsv : BitVec 8) (s : State) : Host.Outcome State Fault Refusal :=
  .next (s.on fun d => d.runSlot at_ (.sset at_ sD sObj sVal rsv))

/-- SCAS (R108): Compares a sync object with sExp and sets it to sNew on a match. -/
def execScas (at_ : At) (sD sObj sExp sNew : BitVec 6) (rsv : BitVec 2)
    (s : State) : Host.Outcome State Fault Refusal :=
  .next (s.on fun d => d.runSlot at_ (.scas at_ sD sObj sExp sNew rsv))

/-- WATCH (R317): Registers a watch that sends a message to a reply queue when an object meets its target. -/
def execWatch (at_ : At) (sObj sTgt : BitVec 6) (cond : BitVec 1) (qn : BitVec 4) (rsv : BitVec 9)
    (s : State) : Host.Outcome State Fault Refusal :=
  .next (s.on fun d => d.runSlot at_ (.watch at_ sObj sTgt cond qn rsv))

/-- BARA (R326): Registers arrival at a barrier, toggling the tile's generation bit and raising its pending count. -/
def execBara (at_ : At) (sBar : BitVec 6) (qn : BitVec 4) (rsv : BitVec 16)
    (s : State) : Host.Outcome State Fault Refusal :=
  .next (s.on fun d => d.runSlot at_ (.bara at_ sBar qn rsv))

/-- SSTART (R254): Checks and starts the stream chain whose head context is named, or refuses it with a code. -/
def execSstart (at_ : At) (sD sCtx : BitVec 6) (rsv : BitVec 14) (s : State) : Host.Outcome State Fault Refusal :=
  .next (s.on fun d => d.runSlot at_ (.sstart at_ sD sCtx rsv))

/-- SSTOP (R256): Stops every stage of a running chain after its outstanding segments complete. -/
def execSstop (at_ : At) (sD sCtx : BitVec 6) (rsv : BitVec 14) (s : State) : Host.Outcome State Fault Refusal :=
  .next (s.on fun d => d.runSlot at_ (.sstop at_ sD sCtx rsv))

/-- RSTAT (R258): Reads the state of a ring port into sD. -/
def execRstat (at_ : At) (sD : BitVec 6) (rp : BitVec 3) (rsv : BitVec 17)
    (s : State) : Host.Outcome State Fault Refusal :=
  .next (s.on fun d => d.runSlot at_ (.rstat at_ sD rp rsv))

/-- RLDV (R259): Loads 64 words from the current full slot of an input ring port. -/
def execRldv (at_ : At) (vD : BitVec 5) (rp : BitVec 3) (p : BitVec 3) (off : BitVec 12) (rsv : BitVec 3)
    (s : State) : Host.Outcome State Fault Refusal :=
  .next (s.on fun d => d.runSlot at_ (.rldv at_ vD rp p off rsv))

/-- RREL (R259): Releases the current input slot, returning its credit to the stage. -/
def execRrel (at_ : At) (rp : BitVec 3) (rsv : BitVec 23) (s : State) : Host.Outcome State Fault Refusal :=
  .next (s.on fun d => d.runSlot at_ (.rrel at_ rp rsv))

/-- RSTV (R261): Stores 64 words into the current empty slot of an output ring port. -/
def execRstv (at_ : At) (vA : BitVec 5) (rp : BitVec 3) (p : BitVec 3) (off : BitVec 12) (rsv : BitVec 3)
    (s : State) : Host.Outcome State Fault Refusal :=
  .next (s.on fun d => d.runSlot at_ (.rstv at_ vA rp p off rsv))

/-- RPUB (R261): Publishes the current output slot with a fill of sLen bytes and advances. -/
def execRpub (at_ : At) (rp : BitVec 3) (sLen : BitVec 6) (rsv : BitVec 17)
    (s : State) : Host.Outcome State Fault Refusal :=
  .next (s.on fun d => d.runSlot at_ (.rpub at_ rp sLen rsv))

/-- PUT (R158): Writes len + 1 words of vA to another tile's scratchpad on the package, optionally counting a landing
counter. -/
def execPut (at_ : At) (vA n : BitVec 5) (len lc : BitVec 6) (lcEn : Bool) (rsv : BitVec 3)
    (s : State) : Host.Outcome State Fault Refusal :=
  .next (s.on fun d => d.runSlot at_ (.put at_ vA n len lc lcEn rsv))

/-- PUTG (R159): Writes len + 1 words of vA to a 64-bit global address. -/
def execPutg (at_ : At) (vA n : BitVec 5) (len lc : BitVec 6) (lcEn : Bool) (rsv : BitVec 3)
    (s : State) : Host.Outcome State Fault Refusal :=
  .next (s.on fun d => d.runSlot at_ (.putg at_ vA n len lc lcEn rsv))

/-- WAITC (R163): Issues only when a landing counter meets its target. -/
def execWaitc (at_ : At) (lc sTgt : BitVec 6) (cond : BitVec 1) (rsv : BitVec 13)
    (s : State) : Host.Outcome State Fault Refusal :=
  .next (s.on fun d => d.runSlot at_ (.waitc at_ lc sTgt cond rsv))

/-- LWATCH (R164): Registers a watch on a landing counter of the own tile. -/
def execLwatch (at_ : At) (lc sTgt : BitVec 6) (cond : BitVec 1) (qn : BitVec 4) (rsv : BitVec 9)
    (s : State) : Host.Outcome State Fault Refusal :=
  .next (s.on fun d => d.runSlot at_ (.lwatch at_ lc sTgt cond qn rsv))

/-- LCOP (R165): Reads, subtracts from or sets a landing counter, returning its prior value. -/
def execLcop (at_ : At) (sD lc sVal : BitVec 6) (fn : BitVec 2) (rsv : BitVec 6)
    (s : State) : Host.Outcome State Fault Refusal :=
  .next (s.on fun d => d.runSlot at_ (.lcop at_ sD lc sVal fn rsv))

/-- TPOST (R166): Sends a 64-bit fingerprint partial or scalar record to the telemetry aggregator. -/
def execTpost (at_ : At) (n : BitVec 5) (sId : BitVec 6) (kind : BitVec 1) (rsv : BitVec 14)
    (s : State) : Host.Outcome State Fault Refusal :=
  .next (s.on fun d => d.runSlot at_ (.tpost at_ n sId kind rsv))

/-! ### V slot -/

/-- VFP (R115): Vector FP32 add, subtract, multiply, min, max, abs or negate, chosen by fn. -/
def execVfp (at_ : At) (vD vA vB : BitVec 5) (p : BitVec 3) (fn : BitVec 8)
    (s : State) : Host.Outcome State Fault Refusal :=
  .next (s.on fun d => d.runSlot at_ (.vfp at_ vD vA vB p fn))

/-- VFMA (R113): Vector fused multiply-add with one rounding. -/
def execVfma (at_ : At) (vD vA vB vC : BitVec 5) (p : BitVec 3) (rsv : BitVec 3)
    (s : State) : Host.Outcome State Fault Refusal :=
  .next (s.on fun d => d.runSlot at_ (.vfma at_ vD vA vB vC p rsv))

/-- VINT (R115): Vector integer arithmetic, logic, shift or saturating add or subtract, chosen by fn. -/
def execVint (at_ : At) (vD vA vB : BitVec 5) (p : BitVec 3) (fn : BitVec 8)
    (s : State) : Host.Outcome State Fault Refusal :=
  .next (s.on fun d => d.runSlot at_ (.vint at_ vD vA vB p fn))

/-- VSOP (R113): Vector operation with scalar sB broadcast, or BCAST. -/
def execVsop (at_ : At) (vD vA : BitVec 5) (sB : BitVec 6) (p : BitVec 3) (fn : BitVec 7)
    (s : State) : Host.Outcome State Fault Refusal :=
  .next (s.on fun d => d.runSlot at_ (.vsop at_ vD vA sB p fn))

/-- VCMP (R113): Compares lanes and writes a predicate register. -/
def execVcmp (at_ : At) (pD : BitVec 3) (vA vB : BitVec 5) (p : BitVec 3) (cond : BitVec 4) (rsv : BitVec 6)
    (s : State) : Host.Outcome State Fault Refusal :=
  .next (s.on fun d => d.runSlot at_ (.vcmp at_ pD vA vB p cond rsv))

/-- VSEL (R113): Selects each lane from vA or vB by a predicate. -/
def execVsel (at_ : At) (vD vA vB : BitVec 5) (p : BitVec 3) (rsv : BitVec 8)
    (s : State) : Host.Outcome State Fault Refusal :=
  .next (s.on fun d => d.runSlot at_ (.vsel at_ vD vA vB p rsv))

/-- VCVT (R116): Converts lanes between formats with round-to-nearest-even, counted under tag 0. -/
def execVcvt (at_ : At) (vD vA : BitVec 5) (sB : BitVec 6) (p : BitVec 3) (fn : BitVec 7)
    (s : State) : Host.Outcome State Fault Refusal :=
  .next (s.on fun d => d.runSlot at_ (.vcvt at_ vD vA sB p fn))

/-- VRED (R117): Reduces 64 lanes by a fixed tree into a scalar register. -/
def execVred (at_ : At) (sD : BitVec 6) (vA : BitVec 5) (p : BitVec 3) (fn : BitVec 6) (rsv : BitVec 6)
    (s : State) : Host.Outcome State Fault Refusal :=
  .next (s.on fun d => d.runSlot at_ (.vred at_ sD vA p fn rsv))

/-- VEXT (R113): Extracts one lane into a scalar register. -/
def execVext (at_ : At) (sD : BitVec 6) (vA : BitVec 5) (sB : BitVec 6) (rsv : BitVec 9)
    (s : State) : Host.Outcome State Fault Refusal :=
  .next (s.on fun d => d.runSlot at_ (.vext at_ sD vA sB rsv))

/-- VINS (R113): Inserts a scalar into one lane. -/
def execVins (at_ : At) (vD : BitVec 5) (sA sB : BitVec 6) (rsv : BitVec 9)
    (s : State) : Host.Outcome State Fault Refusal :=
  .next (s.on fun d => d.runSlot at_ (.vins at_ vD sA sB rsv))

/-- VMOV (R113): Copies a vector register, with predication. -/
def execVmov (at_ : At) (vD vA : BitVec 5) (p : BitVec 3) (rsv : BitVec 13)
    (s : State) : Host.Outcome State Fault Refusal :=
  .next (s.on fun d => d.runSlot at_ (.vmov at_ vD vA p rsv))

/-- VIOTA (R113): Writes lane index plus sB into each lane. -/
def execViota (at_ : At) (vD : BitVec 5) (sB : BitVec 6) (p : BitVec 3) (rsv : BitVec 12)
    (s : State) : Host.Outcome State Fault Refusal :=
  .next (s.on fun d => d.runSlot at_ (.viota at_ vD sB p rsv))

/-- PLOGIC (R113): Combines predicate registers by a logic function. -/
def execPlogic (at_ : At) (pD pA pB : BitVec 3) (fn : BitVec 4) (rsv : BitVec 13)
    (s : State) : Host.Outcome State Fault Refusal :=
  .next (s.on fun d => d.runSlot at_ (.plogic at_ pD pA pB fn rsv))

/-- PMOV (R113): Builds a predicate register from two scalars. -/
def execPmov (at_ : At) (pD : BitVec 3) (sA sB : BitVec 6) (rsv : BitVec 11)
    (s : State) : Host.Outcome State Fault Refusal :=
  .next (s.on fun d => d.runSlot at_ (.pmov at_ pD sA sB rsv))

/-- VCVTT (R147): Converts FP32 lanes under a tensor tag, rounding by the tag's class and counting in the Barometer.
-/
def execVcvtt (at_ : At) (vD vA vO n : BitVec 5) (p : BitVec 3) (fn : BitVec 3)
    (s : State) : Host.Outcome State Fault Refusal :=
  .next (s.on fun d => d.runSlot at_ (.vcvtt at_ vD vA vO n p fn))

/-- UPDX (R151): Adds a scaled update to FP32 master weights with one rounding and accumulates the layer's ratio
terms. -/
def execUpdx (at_ : At) (vD vA : BitVec 5) (sL : BitVec 6) (p : BitVec 3) (rsv : BitVec 7)
    (s : State) : Host.Outcome State Fault Refusal :=
  .next (s.on fun d => d.runSlot at_ (.updx at_ vD vA sL p rsv))

/-- VWOP (R154): W32 or W64 add or conversion, chosen by fn. -/
def execVwop (at_ : At) (vD vA : BitVec 5) (sB : BitVec 6) (p : BitVec 3) (fn : BitVec 7)
    (s : State) : Host.Outcome State Fault Refusal :=
  .next (s.on fun d => d.runSlot at_ (.vwop at_ vD vA sB p fn))

/-- VCRC (R155): Folds lane bytes into a 64-bit CRC-64/ECMA-182 state. -/
def execVcrc (at_ : At) (n vA : BitVec 5) (len : BitVec 6) (rsv : BitVec 10)
    (s : State) : Host.Outcome State Fault Refusal :=
  .next (s.on fun d => d.runSlot at_ (.vcrc at_ n vA len rsv))

/-! ### M slot -/

/-- MZERO (R119): Zeroes and opens an accumulation group, as MOPEN with PANEL_K 64 in NATIVE. -/
def execMzero (at_ : At) (g : BitVec 2) (type : BitVec 1) (rsv : BitVec 23)
    (s : State) : Host.Outcome State Fault Refusal :=
  .next (s.on fun d => d.runSlot at_ (.mzero at_ g type rsv))

/-- MMA_BF16 (R121): Accumulates a BF16 32 x K by K x 64 product into an FP32 group. -/
def execMmaBf16 (at_ : At) (g : BitVec 2) (aA aB : BitVec 4) (sK : BitVec 6) (rsv : BitVec 10)
    (s : State) : Host.Outcome State Fault Refusal :=
  .next (s.on fun d => d.runSlot at_ (.mmaBf16 at_ g aA aB sK rsv))

/-- MMA_I8 (R122): Accumulates an INT8 product into an INT32 group with saturating adds. -/
def execMmaI8 (at_ : At) (g : BitVec 2) (aA aB : BitVec 4) (sK : BitVec 6) (rsv : BitVec 10)
    (s : State) : Host.Outcome State Fault Refusal :=
  .next (s.on fun d => d.runSlot at_ (.mmaI8 at_ g aA aB sK rsv))

/-- MST (R123): Stores a group to scratchpad in the selected format and leaves it open. -/
def execMst (at_ : At) (g : BitVec 2) (aD : BitVec 4) (sP sS : BitVec 6) (fmt : BitVec 3) (rsv : BitVec 5)
    (s : State) : Host.Outcome State Fault Refusal :=
  .next (s.on fun d => d.runSlot at_ (.mst at_ g aD sP sS fmt rsv))

/-- MSAT (R122): Reads a group's sticky SAT flag into sD. -/
def execMsat (at_ : At) (g : BitVec 2) (sD : BitVec 6) (rsv : BitVec 18)
    (s : State) : Host.Outcome State Fault Refusal :=
  .next (s.on fun d => d.runSlot at_ (.msat at_ g sD rsv))

/-- MOPEN (R128): Opens a group with a type and PANEL_K, clearing accumulators, flag and counter. -/
def execMopen (at_ : At) (g : BitVec 2) (type : BitVec 1) (panel : BitVec 2) (rsv : BitVec 21)
    (s : State) : Host.Outcome State Fault Refusal :=
  .next (s.on fun d => d.runSlot at_ (.mopen at_ g type panel rsv))

/-- MMAF (R130): Accumulates a product of any legal format pair into a group. -/
def execMmaf (at_ : At) (g : BitVec 2) (aA aB : BitVec 4) (sK : BitVec 6) (fa fb : BitVec 4) (rsv : BitVec 2)
    (s : State) : Host.Outcome State Fault Refusal :=
  .next (s.on fun d => d.runSlot at_ (.mmaf at_ g aA aB sK fa fb rsv))

/-- MCLOSE (R137): Reads a close descriptor and writes the group through epilogue and output conversion, closing it
unless keep is set. -/
def execMclose (at_ : At) (g : BitVec 2) (aC : BitVec 4) (sS : BitVec 6) (rsv : BitVec 14)
    (s : State) : Host.Outcome State Fault Refusal :=
  .next (s.on fun d => d.runSlot at_ (.mclose at_ g aC sS rsv))

/-- MSATC (R144): Reads a group's saturation-event counter into sD. -/
def execMsatc (at_ : At) (g : BitVec 2) (sD : BitVec 6) (rsv : BitVec 18)
    (s : State) : Host.Outcome State Fault Refusal :=
  .next (s.on fun d => d.runSlot at_ (.msatc at_ g sD rsv))

/-! ### Reserved opcodes -/

/-- RESERVED_OPCODE (R89): A slot whose opcode is not defined for that slot raises ILLEGAL_INSTRUCTION with reason 0
and its bundle does not issue. -/
def execReservedOpcode (at_ : At) (slot : Fin 4) (word : Word) (s : State) : Host.Outcome State Fault Refusal :=
  .next (s.on fun d => d.runSlot at_ (.reservedOpcode at_ slot word))

end Sys2Proof.Machine
end

