-- ==== Sys2Proof/Machine/Dispatch.lean ====
section
/-! DEFINITION. exec: one arm per command. -/

namespace Sys2Proof.Machine

def exec (i : Instr) (s : State) : Host.Outcome State Fault Refusal :=
  match i with
  | .nop at_ slot rsv => Sys2Proof.Machine.execNop at_ slot rsv s
  | .alu at_ sD sA sB fn => Sys2Proof.Machine.execAlu at_ sD sA sB fn s
  | .mul at_ sD sA sB fn => Sys2Proof.Machine.execMul at_ sD sA sB fn s
  | .addi at_ sD sA imm => Sys2Proof.Machine.execAddi at_ sD sA imm s
  | .andi at_ sD sA imm => Sys2Proof.Machine.execAndi at_ sD sA imm s
  | .ori at_ sD sA imm => Sys2Proof.Machine.execOri at_ sD sA imm s
  | .xori at_ sD sA imm => Sys2Proof.Machine.execXori at_ sD sA imm s
  | .shifti at_ sD sA kind amount rsv => Sys2Proof.Machine.execShifti at_ sD sA kind amount rsv s
  | .slti at_ sD sA imm => Sys2Proof.Machine.execSlti at_ sD sA imm s
  | .lui at_ sD imm => Sys2Proof.Machine.execLui at_ sD imm s
  | .br at_ sA sB cond target => Sys2Proof.Machine.execBr at_ sA sB cond target s
  | .brp at_ p all target rsv => Sys2Proof.Machine.execBrp at_ p all target rsv s
  | .call at_ sD target rsv => Sys2Proof.Machine.execCall at_ sD target rsv s
  | .jr at_ sA rsv => Sys2Proof.Machine.execJr at_ sA rsv s
  | .halt at_ rsv => Sys2Proof.Machine.execHalt at_ rsv s
  | .trap at_ imm rsv => Sys2Proof.Machine.execTrap at_ imm rsv s
  | .aaddi at_ aD aA imm => Sys2Proof.Machine.execAaddi at_ aD aA imm s
  | .a2addi at_ aD aA dr dc rsv => Sys2Proof.Machine.execA2addi at_ aD aA dr dc rsv s
  | .amov at_ aD sA rsv => Sys2Proof.Machine.execAmov at_ aD sA rsv s
  | .aread at_ sD aA rsv => Sys2Proof.Machine.execAread at_ sD aA rsv s
  | .a2set at_ aD sA sB rsv => Sys2Proof.Machine.execA2set at_ aD sA sB rsv s
  | .aadd at_ aD aA sB rsv => Sys2Proof.Machine.execAadd at_ aD aA sB rsv s
  | .a2add at_ aD aA sB rsv => Sys2Proof.Machine.execA2add at_ aD aA sB rsv s
  | .csw at_ rsv => Sys2Proof.Machine.execCsw at_ rsv s
  | .ltrd at_ sD sL rsv => Sys2Proof.Machine.execLtrd at_ sD sL rsv s
  | .ltwr at_ sL sV rsv => Sys2Proof.Machine.execLtwr at_ sL sV rsv s
  | .ldw at_ sD aB u imm => Sys2Proof.Machine.execLdw at_ sD aB u imm s
  | .ldh at_ sD aB u imm => Sys2Proof.Machine.execLdh at_ sD aB u imm s
  | .ldhu at_ sD aB u imm => Sys2Proof.Machine.execLdhu at_ sD aB u imm s
  | .ldb at_ sD aB u imm => Sys2Proof.Machine.execLdb at_ sD aB u imm s
  | .ldbu at_ sD aB u imm => Sys2Proof.Machine.execLdbu at_ sD aB u imm s
  | .stw at_ sA aB u imm => Sys2Proof.Machine.execStw at_ sA aB u imm s
  | .sth at_ sA aB u imm => Sys2Proof.Machine.execSth at_ sA aB u imm s
  | .stb at_ sA aB u imm => Sys2Proof.Machine.execStb at_ sA aB u imm s
  | .ldvW at_ vD aB u p imm rsv => Sys2Proof.Machine.execLdvW at_ vD aB u p imm rsv s
  | .ldvHu at_ vD aB u p imm rsv => Sys2Proof.Machine.execLdvHu at_ vD aB u p imm rsv s
  | .ldvB at_ vD aB u p imm rsv => Sys2Proof.Machine.execLdvB at_ vD aB u p imm rsv s
  | .stvW at_ vA aB u p imm rsv => Sys2Proof.Machine.execStvW at_ vA aB u p imm rsv s
  | .stvH at_ vA aB u p imm rsv => Sys2Proof.Machine.execStvH at_ vA aB u p imm rsv s
  | .stvB at_ vA aB u p imm rsv => Sys2Proof.Machine.execStvB at_ vA aB u p imm rsv s
  | .ldv2 at_ vD aB sP dir p rsv => Sys2Proof.Machine.execLdv2 at_ vD aB sP dir p rsv s
  | .stv2 at_ vA aB sP dir p rsv => Sys2Proof.Machine.execStv2 at_ vA aB sP dir p rsv s
  | .sendReq at_ vA sDst len rsv => Sys2Proof.Machine.execSendReq at_ vA sDst len rsv s
  | .sendRpl at_ vA sDst len rsv => Sys2Proof.Machine.execSendRpl at_ vA sDst len rsv s
  | .qrd at_ dest qn kind rsv => Sys2Proof.Machine.execQrd at_ dest qn kind rsv s
  | .qcnt at_ sD qn kind rsv => Sys2Proof.Machine.execQcnt at_ sD qn kind rsv s
  | .sadd at_ sD sObj sVal rsv => Sys2Proof.Machine.execSadd at_ sD sObj sVal rsv s
  | .sset at_ sD sObj sVal rsv => Sys2Proof.Machine.execSset at_ sD sObj sVal rsv s
  | .scas at_ sD sObj sExp sNew rsv => Sys2Proof.Machine.execScas at_ sD sObj sExp sNew rsv s
  | .watch at_ sObj sTgt cond qn rsv => Sys2Proof.Machine.execWatch at_ sObj sTgt cond qn rsv s
  | .bara at_ sBar qn rsv => Sys2Proof.Machine.execBara at_ sBar qn rsv s
  | .sstart at_ sD sCtx rsv => Sys2Proof.Machine.execSstart at_ sD sCtx rsv s
  | .sstop at_ sD sCtx rsv => Sys2Proof.Machine.execSstop at_ sD sCtx rsv s
  | .rstat at_ sD rp rsv => Sys2Proof.Machine.execRstat at_ sD rp rsv s
  | .rldv at_ vD rp p off rsv => Sys2Proof.Machine.execRldv at_ vD rp p off rsv s
  | .rrel at_ rp rsv => Sys2Proof.Machine.execRrel at_ rp rsv s
  | .rstv at_ vA rp p off rsv => Sys2Proof.Machine.execRstv at_ vA rp p off rsv s
  | .rpub at_ rp sLen rsv => Sys2Proof.Machine.execRpub at_ rp sLen rsv s
  | .put at_ vA n len lc lcEn rsv => Sys2Proof.Machine.execPut at_ vA n len lc lcEn rsv s
  | .putg at_ vA n len lc lcEn rsv => Sys2Proof.Machine.execPutg at_ vA n len lc lcEn rsv s
  | .waitc at_ lc sTgt cond rsv => Sys2Proof.Machine.execWaitc at_ lc sTgt cond rsv s
  | .lwatch at_ lc sTgt cond qn rsv => Sys2Proof.Machine.execLwatch at_ lc sTgt cond qn rsv s
  | .lcop at_ sD lc sVal fn rsv => Sys2Proof.Machine.execLcop at_ sD lc sVal fn rsv s
  | .tpost at_ n sId kind rsv => Sys2Proof.Machine.execTpost at_ n sId kind rsv s
  | .vfp at_ vD vA vB p fn => Sys2Proof.Machine.execVfp at_ vD vA vB p fn s
  | .vfma at_ vD vA vB vC p rsv => Sys2Proof.Machine.execVfma at_ vD vA vB vC p rsv s
  | .vint at_ vD vA vB p fn => Sys2Proof.Machine.execVint at_ vD vA vB p fn s
  | .vsop at_ vD vA sB p fn => Sys2Proof.Machine.execVsop at_ vD vA sB p fn s
  | .vcmp at_ pD vA vB p cond rsv => Sys2Proof.Machine.execVcmp at_ pD vA vB p cond rsv s
  | .vsel at_ vD vA vB p rsv => Sys2Proof.Machine.execVsel at_ vD vA vB p rsv s
  | .vcvt at_ vD vA sB p fn => Sys2Proof.Machine.execVcvt at_ vD vA sB p fn s
  | .vred at_ sD vA p fn rsv => Sys2Proof.Machine.execVred at_ sD vA p fn rsv s
  | .vext at_ sD vA sB rsv => Sys2Proof.Machine.execVext at_ sD vA sB rsv s
  | .vins at_ vD sA sB rsv => Sys2Proof.Machine.execVins at_ vD sA sB rsv s
  | .vmov at_ vD vA p rsv => Sys2Proof.Machine.execVmov at_ vD vA p rsv s
  | .viota at_ vD sB p rsv => Sys2Proof.Machine.execViota at_ vD sB p rsv s
  | .plogic at_ pD pA pB fn rsv => Sys2Proof.Machine.execPlogic at_ pD pA pB fn rsv s
  | .pmov at_ pD sA sB rsv => Sys2Proof.Machine.execPmov at_ pD sA sB rsv s
  | .vcvtt at_ vD vA vO n p fn => Sys2Proof.Machine.execVcvtt at_ vD vA vO n p fn s
  | .updx at_ vD vA sL p rsv => Sys2Proof.Machine.execUpdx at_ vD vA sL p rsv s
  | .vwop at_ vD vA sB p fn => Sys2Proof.Machine.execVwop at_ vD vA sB p fn s
  | .vcrc at_ n vA len rsv => Sys2Proof.Machine.execVcrc at_ n vA len rsv s
  | .mzero at_ g type rsv => Sys2Proof.Machine.execMzero at_ g type rsv s
  | .mmaBf16 at_ g aA aB sK rsv => Sys2Proof.Machine.execMmaBf16 at_ g aA aB sK rsv s
  | .mmaI8 at_ g aA aB sK rsv => Sys2Proof.Machine.execMmaI8 at_ g aA aB sK rsv s
  | .mst at_ g aD sP sS fmt rsv => Sys2Proof.Machine.execMst at_ g aD sP sS fmt rsv s
  | .msat at_ g sD rsv => Sys2Proof.Machine.execMsat at_ g sD rsv s
  | .mopen at_ g type panel rsv => Sys2Proof.Machine.execMopen at_ g type panel rsv s
  | .mmaf at_ g aA aB sK fa fb rsv => Sys2Proof.Machine.execMmaf at_ g aA aB sK fa fb rsv s
  | .mclose at_ g aC sS rsv => Sys2Proof.Machine.execMclose at_ g aC sS rsv s
  | .msatc at_ g sD rsv => Sys2Proof.Machine.execMsatc at_ g sD rsv s
  | .wcbIdleFlush tile entry => Sys2Proof.Machine.execWcbIdleFlush tile entry s
  | .preemptSwitch tile => Sys2Proof.Machine.execPreemptSwitch tile s
  | .stallSwitch tile => Sys2Proof.Machine.execStallSwitch tile s
  | .ctxRunWrite tile value => Sys2Proof.Machine.execCtxRunWrite tile value s
  | .cntClear path tile value => Sys2Proof.Machine.execCntClear path tile value s
  | .counterLatchRead path access => Sys2Proof.Machine.execCounterLatchRead path access s
  | .poolWindowClose core line => Sys2Proof.Machine.execPoolWindowClose core line s
  | .putArrival k => Sys2Proof.Machine.execPutArrival k s
  | .mcastWrite tiles dest data => Sys2Proof.Machine.execMcastWrite tiles dest data s
  | .segmentGrant core => Sys2Proof.Machine.execSegmentGrant core s
  | .segmentComplete k bad => Sys2Proof.Machine.execSegmentComplete k bad s
  | .stageComplete core ctx => Sys2Proof.Machine.execStageComplete core ctx s
  | .streamUnderrun tile rp output => Sys2Proof.Machine.execStreamUnderrun tile rp output s
  | .strRetClear core value => Sys2Proof.Machine.execStrRetClear core value s
  | .queueArrival k => Sys2Proof.Machine.execQueueArrival k s
  | .queueSpill tile reply => Sys2Proof.Machine.execQueueSpill tile reply s
  | .spillReturn tile queue => Sys2Proof.Machine.execSpillReturn tile queue s
  | .coreQueueStore k => Sys2Proof.Machine.execCoreQueueStore k s
  | .coreQueueForward core queue => Sys2Proof.Machine.execCoreQueueForward core queue s
  | .cqPop core value => Sys2Proof.Machine.execCqPop core value s
  | .qinjCmd core value => Sys2Proof.Machine.execQinjCmd core value s
  | .queueDeadlockSuspect x y replyX replyY => Sys2Proof.Machine.execQueueDeadlockSuspect x y replyX replyY s
  | .channelLineFlush k => Sys2Proof.Machine.execChannelLineFlush k s
  | .syncOpApply k => Sys2Proof.Machine.execSyncOpApply k s
  | .barrierArrive k => Sys2Proof.Machine.execBarrierArrive k s
  | .barrierRelease k => Sys2Proof.Machine.execBarrierRelease k s
  | .barrierTimeout core bar gen level row => Sys2Proof.Machine.execBarrierTimeout core bar gen level row s
  | .arrive src => Sys2Proof.Machine.execArrive src s
  | .release src => Sys2Proof.Machine.execRelease src s
  | .barReset core value => Sys2Proof.Machine.execBarReset core value s
  | .watchClear core value => Sys2Proof.Machine.execWatchClear core value s
  | .hopAdd core => Sys2Proof.Machine.execHopAdd core s
  | .hopSet core => Sys2Proof.Machine.execHopSet core s
  | .forceSet core mgmt => Sys2Proof.Machine.execForceSet core mgmt s
  | .forceAdd core mgmt => Sys2Proof.Machine.execForceAdd core mgmt s
  | .forceRelease core mgmt bar gen => Sys2Proof.Machine.execForceRelease core mgmt bar gen s
  | .realignApply => Sys2Proof.Machine.execRealignApply s
  | .tsyncReqSend => Sys2Proof.Machine.execTsyncReqSend s
  | .tsyncReq port => Sys2Proof.Machine.execTsyncReq port s
  | .tsyncRpl port => Sys2Proof.Machine.execTsyncRpl port s
  | .tsyncLost seq => Sys2Proof.Machine.execTsyncLost seq s
  | .timebaseLost => Sys2Proof.Machine.execTimebaseLost s
  | .holdoverExpire => Sys2Proof.Machine.execHoldoverExpire s
  | .epochEdge => Sys2Proof.Machine.execEpochEdge s
  | .discEnable path value => Sys2Proof.Machine.execDiscEnable path value s
  | .fcArm => Sys2Proof.Machine.execFcArm s
  | .fcDisarm => Sys2Proof.Machine.execFcDisarm s
  | .fcClr => Sys2Proof.Machine.execFcClr s
  | .superstepOrigin => Sys2Proof.Machine.execSuperstepOrigin s
  | .slotOpen => Sys2Proof.Machine.execSlotOpen s
  | .slipDeclare => Sys2Proof.Machine.execSlipDeclare s
  | .lullSample low => Sys2Proof.Machine.execLullSample low s
  | .slip src => Sys2Proof.Machine.execSlip src s
  | .stepDeadline => Sys2Proof.Machine.execStepDeadline s
  | .dataFrame port raw fec => Sys2Proof.Machine.execDataFrame port raw fec s
  | .nullFrame port raw fec => Sys2Proof.Machine.execNullFrame port raw fec s
  | .nak port raw fec => Sys2Proof.Machine.execNak port raw fec s
  | .exch port raw fec => Sys2Proof.Machine.execExch port raw fec s
  | .frameSend port => Sys2Proof.Machine.execFrameSend port s
  | .nakRepeat port => Sys2Proof.Machine.execNakRepeat port s
  | .ackTimeout port => Sys2Proof.Machine.execAckTimeout port s
  | .rxSilence port held signal lock => Sys2Proof.Machine.execRxSilence port held signal lock s
  | .rxHoldExpire port => Sys2Proof.Machine.execRxHoldExpire port s
  | .silenceDown port => Sys2Proof.Machine.execSilenceDown port s
  | .trainingPatternRx port => Sys2Proof.Machine.execTrainingPatternRx port s
  | .signalDetect at_ => Sys2Proof.Machine.execSignalDetect at_ s
  | .equalizeDone port => Sys2Proof.Machine.execEqualizeDone port s
  | .alignDone port => Sys2Proof.Machine.execAlignDone port s
  | .exchSend port => Sys2Proof.Machine.execExchSend port s
  | .trainTimeout port => Sys2Proof.Machine.execTrainTimeout port s
  | .downExpire port => Sys2Proof.Machine.execDownExpire port s
  | .trainEnWrite port value => Sys2Proof.Machine.execTrainEnWrite port value s
  | .retrain port => Sys2Proof.Machine.execRetrain port s
  | .flush port => Sys2Proof.Machine.execFlush port s
  | .rd src => Sys2Proof.Machine.execRd src s
  | .wr src => Sys2Proof.Machine.execWr src s
  | .wrl src => Sys2Proof.Machine.execWrl src s
  | .add src => Sys2Proof.Machine.execAdd src s
  | .rdr src => Sys2Proof.Machine.execRdr src s
  | .ack src => Sys2Proof.Machine.execAck src s
  | .err src => Sys2Proof.Machine.execErr src s
  | .packetForward port vc => Sys2Proof.Machine.execPacketForward port vc s
  | .fabEpochWrite value => Sys2Proof.Machine.execFabEpochWrite value s
  | .probeStart => Sys2Proof.Machine.execProbeStart s
  | .probe src => Sys2Proof.Machine.execProbe src s
  | .probeAck src => Sys2Proof.Machine.execProbeAck src s
  | .probeTimeout entry => Sys2Proof.Machine.execProbeTimeout entry s
  | .rqRead => Sys2Proof.Machine.execRqRead s
  | .rqWrite => Sys2Proof.Machine.execRqWrite s
  | .rqAdd => Sys2Proof.Machine.execRqAdd s
  | .collDescWrite path core off value => Sys2Proof.Machine.execCollDescWrite path core off value s
  | .collStart core desc => Sys2Proof.Machine.execCollStart core desc s
  | .maxe src => Sys2Proof.Machine.execMaxe src s
  | .egath src => Sys2Proof.Machine.execEgath src s
  | .wadd src => Sys2Proof.Machine.execWadd src s
  | .wgath src => Sys2Proof.Machine.execWgath src s
  | .vmax src => Sys2Proof.Machine.execVmax src s
  | .vsum src => Sys2Proof.Machine.execVsum src s
  | .vput src => Sys2Proof.Machine.execVput src s
  | .collComplete core desc => Sys2Proof.Machine.execCollComplete core desc s
  | .fingerprintPost k => Sys2Proof.Machine.execFingerprintPost k s
  | .barometerFlush k => Sys2Proof.Machine.execBarometerFlush k s
  | .commitBegin => Sys2Proof.Machine.execCommitBegin s
  | .fgpDrainDone longReduction => Sys2Proof.Machine.execFgpDrainDone longReduction s
  | .keystoneAck target => Sys2Proof.Machine.execKeystoneAck target s
  | .commitEffect => Sys2Proof.Machine.execCommitEffect s
  | .keystoneTimeout target => Sys2Proof.Machine.execKeystoneTimeout target s
  | .ksRetry value => Sys2Proof.Machine.execKsRetry value s
  | .rerun path value => Sys2Proof.Machine.execRerun path value s
  | .snapshotDone => Sys2Proof.Machine.execSnapshotDone s
  | .stepBundleDeliver => Sys2Proof.Machine.execStepBundleDeliver s
  | .dlvHeld => Sys2Proof.Machine.execDlvHeld s
  | .faultEvent page src detail => Sys2Proof.Machine.execFaultEvent page src detail s
  | .rail page rails => Sys2Proof.Machine.execRail page rails s
  | .dewpointWindowEnd page reg => Sys2Proof.Machine.execDewpointWindowEnd page reg s
  | .fenceSequence => Sys2Proof.Machine.execFenceSequence s
  | .fenceComplete => Sys2Proof.Machine.execFenceComplete s
  | .fenceTimeout => Sys2Proof.Machine.execFenceTimeout s
  | .unfence => Sys2Proof.Machine.execUnfence s
  | .fence => Sys2Proof.Machine.execFence s
  | .clrCnt => Sys2Proof.Machine.execClrCnt s
  | .ackReset path => Sys2Proof.Machine.execAckReset path s
  | .healthWrite off value => Sys2Proof.Machine.execHealthWrite off value s
  | .checkrun fails memFails left top => Sys2Proof.Machine.execCheckrun fails memFails left top s
  | .reportResend seq => Sys2Proof.Machine.execReportResend seq s
  | .reportResponse seq => Sys2Proof.Machine.execReportResponse seq s
  | .evrRecordWrite readBack eraseOk => Sys2Proof.Machine.execEvrRecordWrite readBack eraseOk s
  | .minuteTick => Sys2Proof.Machine.execMinuteTick s
  | .counterAppend => Sys2Proof.Machine.execCounterAppend s
  | .chal mgmt => Sys2Proof.Machine.execChal mgmt s
  | .clear order => Sys2Proof.Machine.execClear order s
  | .challengeExpire => Sys2Proof.Machine.execChallengeExpire s
  | .keySet key id resp => Sys2Proof.Machine.execKeySet key id resp s
  | .evrReadMsg circular first more => Sys2Proof.Machine.execEvrReadMsg circular first more s
  | .evrWinSel value => Sys2Proof.Machine.execEvrWinSel value s
  | .gustPeriod energy estimate gated avgW => Sys2Proof.Machine.execGustPeriod energy estimate gated avgW s
  | .grantSpent consumer cycles => Sys2Proof.Machine.execGrantSpent consumer cycles s
  | .throttleExt => Sys2Proof.Machine.execThrottleExt s
  | .sensorRead readings => Sys2Proof.Machine.execSensorRead readings s
  | .sensorFail sensor => Sys2Proof.Machine.execSensorFail sensor s
  | .throttleRelease => Sys2Proof.Machine.execThrottleRelease s
  | .calm => Sys2Proof.Machine.execCalm s
  | .wake => Sys2Proof.Machine.execWake s
  | .calmEntered => Sys2Proof.Machine.execCalmEntered s
  | .wakeDone => Sys2Proof.Machine.execWakeDone s
  | .clkCapWrite value => Sys2Proof.Machine.execClkCapWrite value s
  | .hbmRefreshDue port => Sys2Proof.Machine.execHbmRefreshDue port s
  | .cmdTail ring index => Sys2Proof.Machine.execCmdTail ring index s
  | .cplHead ring index => Sys2Proof.Machine.execCplHead ring index s
  | .ringEnable path ring value => Sys2Proof.Machine.execRingEnable path ring value s
  | .cmdNop ring opcode cmd => Sys2Proof.Machine.execCmdNop ring opcode cmd s
  | .copyH2d ring cmd data => Sys2Proof.Machine.execCopyH2d ring cmd data s
  | .copyD2h ring cmd => Sys2Proof.Machine.execCopyD2h ring cmd s
  | .fill ring cmd => Sys2Proof.Machine.execFill ring cmd s
  | .crc ring cmd => Sys2Proof.Machine.execCrc ring cmd s
  | .sync ring cmd => Sys2Proof.Machine.execSync ring cmd s
  | .wait ring cmd => Sys2Proof.Machine.execWait ring cmd s
  | .waitComplete ring => Sys2Proof.Machine.execWaitComplete ring s
  | .waitTimeout ring => Sys2Proof.Machine.execWaitTimeout ring s
  | .read ring cmd => Sys2Proof.Machine.execRead ring cmd s
  | .time ring cmd => Sys2Proof.Machine.execTime ring cmd s
  | .irqTimer ring => Sys2Proof.Machine.execIrqTimer ring s
  | .resultAck page seq => Sys2Proof.Machine.execResultAck page seq s
  | .dlvEnable value => Sys2Proof.Machine.execDlvEnable value s
  | .bar2Read off span => Sys2Proof.Machine.execBar2Read off span s
  | .bar2Write off data => Sys2Proof.Machine.execBar2Write off data s
  | .functionLevelReset => Sys2Proof.Machine.execFunctionLevelReset s
  | .powerUp cool1 cool2 bootSel levels => Sys2Proof.Machine.execPowerUp cool1 cool2 bootSel levels s
  | .powerDown => Sys2Proof.Machine.execPowerDown s
  | .railLoss => Sys2Proof.Machine.execRailLoss s
  | .perstAssert => Sys2Proof.Machine.execPerstAssert s
  | .perstDeassert link => Sys2Proof.Machine.execPerstDeassert link s
  | .mcBoot flash => Sys2Proof.Machine.execMcBoot flash s
  | .fuse ok => Sys2Proof.Machine.execFuse ok s
  | .sramInit => Sys2Proof.Machine.execSramInit s
  | .hbmTrain failed lanes => Sys2Proof.Machine.execHbmTrain failed lanes s
  | .hbmZero => Sys2Proof.Machine.execHbmZero s
  | .tileFw version fails memFails left top => Sys2Proof.Machine.execTileFw version fails memFails left top s
  | .jtagTrst => Sys2Proof.Machine.execJtagTrst s
  | .blkCtrlEn path off value => Sys2Proof.Machine.execBlkCtrlEn path off value s
  | .softReset path off value => Sys2Proof.Machine.execSoftReset path off value s
  | .registerWrite path off size value => Sys2Proof.Machine.execRegisterWrite path off size value s
  | .reservedOpcode at_ slot word => Sys2Proof.Machine.execReservedOpcode at_ slot word s
  | .timebaseReturn => Sys2Proof.Machine.execTimebaseReturn s
  | .throttleNHigh => Sys2Proof.Machine.execThrottleNHigh s
  | .configurationRequest ms => Sys2Proof.Machine.execConfigurationRequest ms s
  | .firmwareUpdate tileFirmware version cleared => Sys2Proof.Machine.execFirmwareUpdate tileFirmware version cleared s
  | .smbusFallback => Sys2Proof.Machine.execSmbusFallback s

end Sys2Proof.Machine
end

