-- ==== Sys2Proof/WellFormed.lean ====
section
/-! DEFINITION. Which commands are well-formed: what the operands' types do not already say. The meanings are total, so an
ill-formed command still has an outcome; the statements speak of well-formed ones. -/

namespace Sys2Proof

/-- A packet's source: one of the twelve ports (R393), or a place in the die network's list. -/
def PktSrc.wf : PktSrc → Bool
  | .port p => decide (p < 12)
  | .die _ => true

/-- A multicast carries whole bytes of what it writes (R87, R237, R687): 16 of a bundle, 1 of a layer entry, a run of the
scratchpad that stays inside the 320 KiB. -/
def McastTo.wf : McastTo → List Byte → Bool
  | .spad a, data => decide (0 < data.length) && decide (a.val + data.length ≤ 0x50000)
  | .imem _, data => decide (data.length = 16)
  | .layer _, data => decide (data.length = 1)

/-- A ring command fits its 64 bytes (R638): its reserved bytes are twenty. -/
def HostCmd.wf (c : HostCmd) : Bool := decide (c.rsv < 2 ^ 160)

/-- No key stands twice. -/
def noRepeat : List Nat → Bool
  | [] => true
  | x :: r => !r.contains x && noRepeat r

/-- Where a tile instruction's slot executes; none for a command that is no slot of a bundle. -/
def Instr.at? (i : Instr) : Option At :=
  match i with
  | .nop a _ _ | .alu a _ _ _ _ | .mul a _ _ _ _ | .addi a _ _ _ | .andi a _ _ _ | .ori a _ _ _ | .xori a _ _ _
  | .shifti a _ _ _ _ _ | .slti a _ _ _ | .lui a _ _ | .br a _ _ _ _ | .brp a _ _ _ _ | .call a _ _ _ | .jr a _ _
  | .halt a _ | .trap a _ _ | .aaddi a _ _ _ | .a2addi a _ _ _ _ _ | .amov a _ _ _ | .aread a _ _ _ | .a2set a _ _ _ _
  | .aadd a _ _ _ _ | .a2add a _ _ _ _ | .csw a _ | .ltrd a _ _ _ | .ltwr a _ _ _ | .ldw a _ _ _ _ | .ldh a _ _ _ _
  | .ldhu a _ _ _ _ | .ldb a _ _ _ _ | .ldbu a _ _ _ _ | .stw a _ _ _ _ | .sth a _ _ _ _ | .stb a _ _ _ _
  | .ldvW a _ _ _ _ _ _ | .ldvHu a _ _ _ _ _ _ | .ldvB a _ _ _ _ _ _ | .stvW a _ _ _ _ _ _ | .stvH a _ _ _ _ _ _
  | .stvB a _ _ _ _ _ _ | .ldv2 a _ _ _ _ _ _ | .stv2 a _ _ _ _ _ _ | .sendReq a _ _ _ _ | .sendRpl a _ _ _ _
  | .qrd a _ _ _ _ | .qcnt a _ _ _ _ | .sadd a _ _ _ _ | .sset a _ _ _ _ | .scas a _ _ _ _ _ | .watch a _ _ _ _ _
  | .bara a _ _ _ | .sstart a _ _ _ | .sstop a _ _ _ | .rstat a _ _ _ | .rldv a _ _ _ _ _ | .rrel a _ _
  | .rstv a _ _ _ _ _ | .rpub a _ _ _ | .put a _ _ _ _ _ _ | .putg a _ _ _ _ _ _ | .waitc a _ _ _ _
  | .lwatch a _ _ _ _ _ | .lcop a _ _ _ _ _ | .tpost a _ _ _ _ | .vfp a _ _ _ _ _ | .vfma a _ _ _ _ _ _
  | .vint a _ _ _ _ _ | .vsop a _ _ _ _ _ | .vcmp a _ _ _ _ _ _ | .vsel a _ _ _ _ _ | .vcvt a _ _ _ _ _
  | .vred a _ _ _ _ _ | .vext a _ _ _ _ | .vins a _ _ _ _ | .vmov a _ _ _ _ | .viota a _ _ _ _ | .plogic a _ _ _ _ _
  | .pmov a _ _ _ _ | .vcvtt a _ _ _ _ _ _ | .updx a _ _ _ _ _ | .vwop a _ _ _ _ _ | .vcrc a _ _ _ _ | .mzero a _ _ _
  | .mmaBf16 a _ _ _ _ _ | .mmaI8 a _ _ _ _ _ | .mst a _ _ _ _ _ _ | .msat a _ _ _ | .mopen a _ _ _ _
  | .mmaf a _ _ _ _ _ _ _ | .mclose a _ _ _ _ | .msatc a _ _ _ | .reservedOpcode a _ _ => some a
  | _ => none

/-- A codeword that a command meets lies among the bytes it reads. -/
def HostRead.wf (r : HostRead) : Bool :=
  r.cmd.wf && match r.bad with
    | some k => decide (k < r.cmd.len.toNat)
    | none => true

/-- The command is well-formed. -/
def Instr.wf (i : Instr) : Bool :=
  match i with
  | .reservedOpcode at_ slot word => undefinedOpcode at_ slot word
  | .mcastWrite tiles dest data => !tiles.isEmpty && noRepeat (tiles.map fun t => t.val) && dest.wf data
  | .arrive src | .release src | .slip src | .rd src | .wr src | .wrl src | .add src | .rdr src | .ack src | .err src
  | .probe src | .probeAck src | .maxe src | .egath src | .wadd src | .wgath src | .vmax src | .vsum src | .vput src => src.wf
  | .cmdNop _ opcode cmd => (decide (opcode.toNat < 2) || decide (9 < opcode.toNat)) && cmd.wf
  | .copyH2d _ cmd data => cmd.wf && decide (data.length ≤ cmd.len.toNat)
  | .fill _ cmd | .sync _ cmd | .wait _ cmd | .time _ cmd => cmd.wf
  | .copyD2h _ c | .crc _ c | .read _ c => c.wf
  | .registerWrite _ _ size _ => decide (size ∈ [1, 2, 4, 8])
  | .counterLatchRead _ access => decide (access.size ∈ [1, 2, 4, 8])
  | .clear order => (order.run.first ++ order.run.second).all fun b => decide (b.length = 64)
  | .evrRecordWrite (some b) _ => decide (b.length = 64)
  | .gustPeriod energy estimate gated _ =>
    decide (energy.length = 19) && decide (estimate.length = 16) && decide (gated.length = 8) && gated.all fun x => decide (x ≤ 10000)
  | .sensorRead readings => noRepeat (readings.map fun r => r.1.val)
  | .bar2Read _ span => decide (0 < span.n.toNat)
  | .bar2Write _ data => !data.isEmpty
  | .hbmTrain _ lanes => decide (lanes.length = 8)
  | .checkrun fails memFails left top => noRepeat (fails.map fun t => t.val) && noRepeat (memFails.map fun t => t.val) &&
    noRepeat (left.map fun x => x.1.val) && noRepeat (top.map fun x => x.1.val)
  | .tileFw _ fails memFails left top => noRepeat (fails.map fun t => t.val) && noRepeat (memFails.map fun t => t.val) &&
    noRepeat (left.map fun x => x.1.val) && noRepeat (top.map fun x => x.1.val)
  | _ => true

end Sys2Proof
end

