-- ==== Sys2Proof/Safety.lean ====
section
/-! DEFINITION. What counts as a safe run, and the words that the statements share: a context ready to issue, a slot alone in
its bundle, what an issued bundle leaves, and what a canonical package is. -/

namespace Sys2Proof

namespace Machine

/-- A step that goes on: neither a fault nor a refusal. -/
def State.safe (s : State) : Prop := ∃ s', step s = .next s'

/-- `n` steps, each of which goes on. -/
def State.runs : Nat → State → Prop
  | 0, _ => True
  | n + 1, s => ∃ s', step s = .next s' ∧ s'.runs n

/-- A slot that is the only one of its bundle. -/
def lone (t : Fin 1632) : At := { tile := t, more := false }

/-- Context `bg` of tile `t` is selected and may issue its next bundle: the tile fetches (R58, R62), no switch is in progress (R58), the
context is not stopping (R96), no slot of the bundle has come yet, no register is pending (R65), the PC is below IMEM_LIMIT (R74), and
no breakpoint is enabled (R80). -/
def State.ready (s : State) (t : Fin 1632) (bg : Bool) : Prop :=
  s.dev.tileLive t = true ∧ (s.dev.tile t).sel = some bg ∧ (s.dev.tile t).switching = 0 ∧ (s.dev.ctx t bg).halting = none ∧
  (s.dev.tile t).slots = [] ∧ (s.dev.ctx t bg).pend = [] ∧
  (s.dev.ctx t bg).pc < fld (s.dev.preg (.tile t) 0x98) 0 11 ∧ ∀ n < 4, bit (s.dev.brkCtrl t n) 0 = false

/-- Command `i` goes on, leaves the package as `d`, and keeps the queue of the commands that wait. -/
def State.makes (s : State) (i : Instr) (d : Dev) : Prop := exec i s = .next { s with dev := d }

/-- Context `bg` of tile `t` waits for none of these (R62). -/
def State.met (s : State) (t : Fin 1632) (bg : Bool) (ns : List Need) : Prop := ∀ n ∈ ns, s.dev.lacks t bg n = false

/-- The tile with context `bg` at a new PC, no longer stalled. -/
def Tile.goto (x : Tile) (bg : Bool) (pc : Nat) : Tile := x.setCtx bg { x.ctx bg with pc := pc, stall := 0, ringWait := 0, waits := [] }

/-- The tile after its selected context `bg` has stopped: the other context is selected if it runs, and the switch takes four cycles
(R58, R59). -/
def Tile.left (x : Tile) (bg : Bool) : Tile :=
  if (x.ctx (!bg)).run then
    { x with sel := some (!bg), switching := 4, fg := { x.fg with stall := 0, ringWait := 0 }, bg := { x.bg with stall := 0, ringWait := 0 } }
  else { x with sel := none, switching := 0 }

/-- The tile with context `bg` changed. -/
def Tile.mod (x : Tile) (bg : Bool) (f : Ctx → Ctx) : Tile := x.setCtx bg (f (x.ctx bg))

/-- The tile's counters CNT_CYCLE and CNT_ISSUE after one more issued cycle, while they run (R83). -/
def Dev.issuedCounts (d : Dev) (t : Nat) : Tbl DWord := (d.countCycle t cntIssue).ctrs

/-- After an issued bundle of tile `t`: the tile is `x`, one issued cycle is counted, every other tile is as before, and
all else in the package (register pages, memories, queues, what is in flight) is as in `e`. -/
def State.issued (s s' : State) (t : Nat) (x : Tile) (e : Dev) : Prop :=
  s'.pending = s.pending ∧
  s'.dev = { e with tiles := s'.dev.tiles, ctrs := s.dev.issuedCounts t } ∧
  s'.dev.tile t = x ∧ ∀ u, u ≠ t → s'.dev.tile u = s.dev.tile u

/-- Command `i`, a slot of tile `t`, issues and leaves the tile as `x` and the package around it as `e`. -/
def State.leaves (s : State) (t : Fin 1632) (i : Instr) (x : Tile) (e : Dev) : Prop :=
  ∃ s', exec i s = .next s' ∧ s.issued s' t x e

/-- Command `i` issues in context `bg` of tile `t`, changes that context alone by `f`, and goes to the next bundle. -/
def State.computes (s : State) (t : Fin 1632) (bg : Bool) (i : Instr) (f : Ctx → Ctx) : Prop :=
  s.leaves t i (((s.dev.tile t).mod bg f).goto bg ((s.dev.ctx t bg).pc + 1)) s.dev

/-- Command `i` issues in context `bg` of tile `t`: its own effect on the package is `f`, then the context goes to the next
bundle and the cycle is counted (R83). -/
def State.effect (s : State) (t : Fin 1632) (bg : Bool) (i : Instr) (f : Dev → Dev) : Prop :=
  exec i s = .next { s with dev :=
    ((f s.dev).modCtx t bg fun c => { c with pc := (s.dev.ctx t bg).pc + 1, stall := 0, ringWait := 0, waits := [] }).countCycle t cntIssue }

/-- A lane-by-lane vector result under a predicate (R114): a lane whose bit is 1 takes the word of `f` and adds its FPSTAT
bits, every other lane keeps its value and adds none. -/
def Ctx.lanes (c : Ctx) (vD : Nat) (act : BitVec 64) (f : Nat → Word × BitVec 5) : Ctx :=
  let r (k : Nat) : Word × BitVec 5 := if act.getLsbD k then f k else (lane (c.rv vD) k, 0)
  (c.wv vD (mkLanes fun k => (r k).1)).setFp (orFlags ((List.range 64).map fun k => (r k).2))

/-- Command `i` makes context `bg` of tile `t` trap (R76, R223, R379): its run bit clears, TRAP holds the cause and the bundle's PC, TRAP_INFO
the operand; no other register of it changes, the tile's buffered stores flush, and the other context is selected if it may
run. The tile's interrupt condition PROGRAM_TRAP is raised, and the trap is an event of the open slot. -/
def State.traps (s : State) (t : Fin 1632) (bg : Bool) (i : Instr) (cause : Nat) (info : Word) : Prop :=
  let x : Tile := { s.dev.tile t with slots := [] }
  ∃ (s' : State) (d : Dev), exec i s = .next s' ∧ s'.pending = s.pending ∧
    s'.dev = (d.raise (.tile t) 0).slotEvent 5 ∧ d = { s.dev with tiles := d.tiles, ctrs := d.ctrs } ∧
    d.tile t = (((x.mod bg fun c =>
      { c with run := false, stall := 0, ringWait := 0, waits := [], halting := none, trapInfo := info,
               trap := BitVec.ofNat 32 (cause + c.pc % 1024 * 2 ^ 16 + 2 ^ 31) }).flushAll).left bg) ∧
    ∀ u, u ≠ t.val → d.tile u = s.dev.tile u

/-- The package `e` is `d` after one operation at the unit of core c has left w in object obj (R311, R317, R320): the watches of the
object whose condition w meets have sent their messages, in order of registration, and are gone; the operation is counted, and so are
the messages. -/
def Dev.operated (d e : Dev) (c obj : Nat) (w : Word) : Prop :=
  let hit (x : Watch) : Bool := x.core == c && x.obj == obj && meets x.eq w x.target
  let told := d.watches.filter hit
  let new := d.wr (objAddr c obj) w
  e = { d with regs := new.regs, ctrs := e.ctrs, noc := e.noc, netSeq := d.netSeq + told.length,
               watches := d.watches.filter fun x => !hit x,
               msgs := d.msgs ++ told.mapIdx fun k x =>
                 { msg := new.watchMsg x, dest := .tile x.tile x.qn, fwd := none, seq := d.netSeq + k } } ∧
  e.objVal c obj = w ∧
  e.ctr (.sync c) 0xD8 = if d.pageOn (.sync c) then satAdd (d.ctr (.sync c) 0xD8) 1 else d.ctr (.sync c) 0xD8

/-- The buffer and scratchpad of a tile are canonical: the scratchpad's cells, the lines of the buffer's entries, each once,
and the bytes of each entry, all below 64. -/
def Tile.ok (x : Tile) : Prop :=
  x.spad.wf = true ∧ (x.wcb.map fun e => e.line).Nodup ∧ ∀ e ∈ x.wcb, e.bytes.wf = true ∧ ∀ c ∈ e.bytes.cells, c.1 < 64

/-- Every memory of the package has its canonical form: HBM, the core pools, and every tile's scratchpad with its
write-combining buffer. -/
def Dev.memOk (d : Dev) : Prop :=
  d.hbm.wf = true ∧ (∀ c, (d.pool.getD c Mem.empty).wf = true) ∧ ∀ t, (d.tile t).ok

end Machine

end Sys2Proof
end

