-- ==== Sys2Proof/Certificates/Slice0/Obligations.lean ====
section
/-! DEFINITION. The statements about the model, for the provers. Each docstring names the rules of the spec that its
statement is about; where a clause is the model's choice it names the log entry. -/

open Sys2Proof Sys2Proof.Machine

/-! ### The machine -/

/-- A step takes the command at the front of the queue and is its meaning on the state with the queue's rest; with none waiting, one ft of fabric time
passes (the model's choice, log entry 3). -/
def Obligations.StepRunsCommand : Prop :=
  (∀ (s : State) (c : Instr) (rest : List Instr), s.pending = c :: rest → step s = exec c { s with pending := rest }) ∧
  ∀ s : State, s.pending = [] → step s = .next { s with dev := s.dev.idle }

/-! ### S slot -/

/-- R93, R94: the result of ALU for each function code that is not reserved; nothing but sD, the PC and the tile's cycle counters changes. R93: MUL writes
the low word of the product, or the high word of the signed or the unsigned 64-bit product. R93: the immediate forms, with the immediate sign-extended
for ADDI and SLTI and zero-extended for the logic forms; the three kinds of SHIFTI; LUI. -/
def Obligations.ScalarResults : Prop :=
  (∀ (s : State) (t : Fin 1632) (bg : Bool), s.ready t bg → ∀ sD sA sB : BitVec 6,
     let a := (s.dev.ctx t bg).rs sA.toNat
     let b := (s.dev.ctx t bg).rs sB.toNat
     let gives (fn : BitVec 8) (w : Word) := s.computes t bg (.alu (lone t) sD sA sB fn) fun c => c.ws sD.toNat w
     gives 0 (a + b) ∧ gives 1 (a - b) ∧ gives 2 (a &&& b) ∧ gives 3 (a ||| b) ∧ gives 4 (a ^^^ b) ∧
     gives 5 (a <<< (b.toNat % 32)) ∧ gives 6 (a >>> (b.toNat % 32)) ∧ gives 7 (a.sshiftRight (b.toNat % 32)) ∧
     gives 8 (if a.toInt < b.toInt then 1 else 0) ∧ gives 9 (if a.toNat < b.toNat then 1 else 0) ∧
     gives 10 (if a = b then 1 else 0) ∧ gives 11 (if a.toInt < b.toInt then a else b) ∧
     gives 12 (if a.toInt < b.toInt then b else a) ∧ gives 13 (if a.toNat < b.toNat then a else b) ∧
     gives 14 (if a.toNat < b.toNat then b else a)) ∧
  (∀ (s : State) (t : Fin 1632) (bg : Bool), s.ready t bg → ∀ sD sA sB : BitVec 6,
     let a := (s.dev.ctx t bg).rs sA.toNat
     let b := (s.dev.ctx t bg).rs sB.toNat
     let gives (fn : BitVec 8) (w : Word) := s.computes t bg (.mul (lone t) sD sA sB fn) fun c => c.ws sD.toNat w
     gives 0 (BitVec.ofInt 32 (a.toInt * b.toInt)) ∧ gives 1 (BitVec.ofInt 32 (a.toInt * b.toInt / 2 ^ 32)) ∧
     gives 2 (BitVec.ofNat 32 (a.toNat * b.toNat / 2 ^ 32))) ∧
  (∀ (s : State) (t : Fin 1632) (bg : Bool), s.ready t bg → ∀ sD sA : BitVec 6,
     let a := (s.dev.ctx t bg).rs sA.toNat
     let gives (i : Instr) (w : Word) := s.computes t bg i fun c => c.ws sD.toNat w
     (∀ imm : BitVec 14,
       gives (.addi (lone t) sD sA imm) (a + BitVec.ofInt 32 imm.toInt) ∧
       gives (.andi (lone t) sD sA imm) (a &&& BitVec.ofNat 32 imm.toNat) ∧
       gives (.ori (lone t) sD sA imm) (a ||| BitVec.ofNat 32 imm.toNat) ∧
       gives (.xori (lone t) sD sA imm) (a ^^^ BitVec.ofNat 32 imm.toNat) ∧
       gives (.slti (lone t) sD sA imm) (if a.toInt < imm.toInt then 1 else 0)) ∧
     (∀ n : BitVec 5,
       gives (.shifti (lone t) sD sA 0 n 0) (a <<< n.toNat) ∧ gives (.shifti (lone t) sD sA 1 n 0) (a >>> n.toNat) ∧
       gives (.shifti (lone t) sD sA 2 n 0) (a.sshiftRight n.toNat)) ∧
     ∀ imm : BitVec 20, gives (.lui (lone t) sD imm) (BitVec.ofNat 32 (imm.toNat * 4096)))

/-- R93, R97: address arithmetic. A 2D sum adds rows and columns apart, each modulo 2^16. R88, R156, R197: a NOP of any slot only advances; LTRD reads a
sign-extended layer-table entry, LTWR writes one. -/
def Obligations.AddressResults : Prop :=
  (∀ (s : State) (t : Fin 1632) (bg : Bool), s.ready t bg → ∀ (aD aA : BitVec 4) (sD sA sB : BitVec 6),
     let x := (s.dev.ctx t bg).ra aA.toNat
     let a := (s.dev.ctx t bg).rs sA.toNat
     let b := (s.dev.ctx t bg).rs sB.toNat
     let pair (row col : Nat) : Word := BitVec.ofNat 32 (row % 65536 * 65536 + col % 65536)
     let gives (i : Instr) (w : Word) := s.computes t bg i fun c => c.wa aD.toNat w
     (∀ imm : BitVec 18, gives (.aaddi (lone t) aD aA imm) (x + BitVec.ofInt 32 imm.toInt)) ∧
     (∀ dr dc : BitVec 8, gives (.a2addi (lone t) aD aA dr dc 0)
       (pair (x.toNat / 65536 + (BitVec.ofInt 16 dr.toInt).toNat) (x.toNat + (BitVec.ofInt 16 dc.toInt).toNat))) ∧
     gives (.amov (lone t) aD sA 0) a ∧
     s.computes t bg (.aread (lone t) sD aA 0) (fun c => c.ws sD.toNat x) ∧
     gives (.a2set (lone t) aD sA sB 0) (pair a.toNat b.toNat) ∧
     gives (.aadd (lone t) aD aA sB 0) (x + b) ∧
     gives (.a2add (lone t) aD aA sB 0) (pair (x.toNat / 65536 + b.toNat / 65536) (x.toNat + b.toNat))) ∧
  (∀ (s : State) (t : Fin 1632) (bg : Bool), s.ready t bg → ∀ sD sL sV : BitVec 6,
     let c := s.dev.ctx t bg
     let x := s.dev.tile t
     let entry := (c.rs sL.toNat).toNat % 256
     (∀ slot : Fin 4, s.computes t bg (.nop (lone t) slot 0) fun c => c) ∧
     s.computes t bg (.ltrd (lone t) sD sL 0) (fun c => c.ws sD.toNat (BitVec.ofInt 32 (x.layer.getD entry 0).toInt)) ∧
     s.leaves t (.ltwr (lone t) sL sV 0)
       (({ x with layer := x.layer.set entry (BitVec.ofNat 8 (c.rs sV.toNat).toNat) }).goto bg (c.pc + 1)) s.dev)

/-- R95: where BR, BRP, CALL and JR go; CALL alone writes a register, its link. R58, R59, R96, R156, R223: HALT alone in its bundle clears the running
context's run bit, flushes the tile's buffered stores and records no trap; the other context is selected if it runs. CSW switches to the other context
when both run. A switch takes four cycles, in which nothing issues. The PC advances in both. -/
def Obligations.ControlFlow : Prop :=
  (∀ (s : State) (t : Fin 1632) (bg : Bool), s.ready t bg → ∀ (sD sA sB : BitVec 6) (p : BitVec 3) (target : BitVec 10),
     let c := s.dev.ctx t bg
     let x := s.dev.tile t
     let a := c.rs sA.toNat
     let b := c.rs sB.toNat
     let br (cond : BitVec 4) (taken : Prop) := (taken → s.leaves t (.br (lone t) sA sB cond target) (x.goto bg target.toNat) s.dev) ∧
       (¬ taken → s.leaves t (.br (lone t) sA sB cond target) (x.goto bg (c.pc + 1)) s.dev)
     let brp (all : Bool) (taken : Prop) := (taken → s.leaves t (.brp (lone t) p all target 0) (x.goto bg target.toNat) s.dev) ∧
       (¬ taken → s.leaves t (.brp (lone t) p all target 0) (x.goto bg (c.pc + 1)) s.dev)
     br 0 True ∧ br 1 (a = b) ∧ br 2 (a ≠ b) ∧ br 3 (a.toInt < b.toInt) ∧ br 4 (b.toInt ≤ a.toInt) ∧
     br 5 (a.toNat < b.toNat) ∧ br 6 (b.toNat ≤ a.toNat) ∧
     brp false (∃ i, i < 64 ∧ (c.rp p.toNat).getLsbD i = true) ∧ brp true (∀ i, i < 64 → (c.rp p.toNat).getLsbD i = true) ∧
     s.leaves t (.call (lone t) sD target 0)
       ((x.mod bg fun c => c.ws sD.toNat (BitVec.ofNat 32 (c.pc + 1))).goto bg target.toNat) s.dev ∧
     s.leaves t (.jr (lone t) sA 0) (x.goto bg (a.toNat % 1024)) s.dev) ∧
  (∀ (s : State) (t : Fin 1632) (bg : Bool), s.ready t bg →
     let c := s.dev.ctx t bg
     let x := s.dev.tile t
     let other := (x.ctx (!bg)).run
     let after (i : Instr) (y : Tile) := ∃ s', exec i s = .next s' ∧ s'.pending = s.pending ∧
       s'.dev = { s.dev with tiles := s'.dev.tiles, ctrs := s'.dev.ctrs } ∧ s'.dev.tile t = y ∧
       ∀ u, u ≠ t.val → s'.dev.tile u = s.dev.tile u
     let next := x.goto bg (c.pc + 1)
     after (.halt (lone t) 0) (if c.run then ((next.mod bg fun c => { c with run := false }).flushAll).left bg else next) ∧
     after (.csw (lone t) 0) (if c.run && other then next.left bg else next))

/-- R76, R77, R96, R89, R90: TRAP takes SOFTWARE with its immediate, an undefined opcode ILLEGAL_INSTRUCTION with its slot and reason 0: the run bit
clears, TRAP and TRAP_INFO are written, the PC stays at the bundle, no register changes, the tile's buffered stores flush, PROGRAM_TRAP is raised, and
the trap is recorded against the open slot (R379). A word that is given as an undefined opcode and is none stands for the instruction it encodes (the
model's choice, log entry 54). -/
def Obligations.TrapsTaken : Prop :=
  ∀ (s : State) (t : Fin 1632) (bg : Bool), s.ready t bg →
    (∀ imm : BitVec 16, s.traps t bg (.trap (lone t) imm 0) 10 (BitVec.ofNat 32 imm.toNat)) ∧
    ∀ (slot : Fin 4) (w : Word),
      (undefinedOpcode (lone t) slot w = true → s.traps t bg (.reservedOpcode (lone t) slot w) 1 (BitVec.ofNat 32 slot)) ∧
      (undefinedOpcode (lone t) slot w = false → exec (.reservedOpcode (lone t) slot w) s = exec (decodeSlot (lone t) slot w) s)

/-! ### X slot: loads and stores -/

/-- R99 to R102: scalar loads from scratchpad. The address is aB plus the offset, or aB alone with post-increment; bits below the element width are
ignored; the element is sign- or zero-extended; buffered stores to the touched lines flush (R223). R99 to R103, R217, R220, R222: scalar stores to
scratchpad below the queue table, in a cycle in which the tile's write port takes them. STW writes the bank after the touched lines have flushed; STH
and STB pass through the write-combining buffer. R222 to R225: what a tile's loads observe. A store of `bs` at `a`, through the bank or, within one
line, through the buffer, is observed at `a`, and every byte outside it reads as before; a flush changes no byte that a load observes. The tile keeps
its canonical form. -/
def Obligations.ScratchpadAccess : Prop :=
  (∀ (s : State) (t : Fin 1632) (bg : Bool), s.ready t bg → ∀ (sD : BitVec 6) (aB : BitVec 4) (u : Bool) (imm : BitVec 15),
     let c := s.dev.ctx t bg
     let x := s.dev.tile t
     let base := c.ra aB.toNat
     let off := BitVec.ofInt 32 imm.toInt
     let addr (n : Nat) := (if u then base else base + off).toNat / n * n
     let gives (i : Instr) (n : Nat) (w : Word) := addr n + n ≤ 0x50000 →
       s.leaves t i (((x.flushSpan (addr n) n).mod bg fun c =>
         if u then (c.ws sD.toNat w).wa aB.toNat (base + off) else c.ws sD.toNat w).goto bg (c.pc + 1)) s.dev
     let value (n : Nat) := ofBytesLE (x.readBytes (addr n) n)
     gives (.ldw (lone t) sD aB u imm) 4 (BitVec.ofNat 32 (value 4)) ∧
     gives (.ldh (lone t) sD aB u imm) 2 ((BitVec.ofNat 16 (value 2)).signExtend 32) ∧
     gives (.ldhu (lone t) sD aB u imm) 2 (BitVec.ofNat 32 (value 2)) ∧
     gives (.ldb (lone t) sD aB u imm) 1 ((BitVec.ofNat 8 (value 1)).signExtend 32) ∧
     gives (.ldbu (lone t) sD aB u imm) 1 (BitVec.ofNat 32 (value 1))) ∧
  (∀ (s : State) (t : Fin 1632) (bg : Bool), s.ready t bg → ∀ (sA : BitVec 6) (aB : BitVec 4) (u : Bool) (imm : BitVec 15),
     let c := s.dev.ctx t bg
     let x := s.dev.tile t
     let base := c.ra aB.toNat
     let off := BitVec.ofInt 32 imm.toInt
     let addr (n : Nat) := (if u then base else base + off).toNat / n * n
     let bytes (n : Nat) := bytesLE n (c.rs sA.toNat).toNat
     let gives (i : Instr) (n : Nat) (narrow : Bool) (y : Tile) :=
       let port := [Need.port [addr n / 64] narrow]
       addr n + n ≤ 0x48000 → s.met t bg port →
       s.leaves t i ((y.mod bg fun c => if u then c.wa aB.toNat (base + off) else c).goto bg (c.pc + 1)) (s.dev.drew t port)
     gives (.stw (lone t) sA aB u imm) 4 false (x.store (addr 4) (bytes 4)) ∧
     gives (.sth (lone t) sA aB u imm) 2 true (x.narrowStore bg (addr 2) (bytes 2)) ∧
     gives (.stb (lone t) sA aB u imm) 1 true (x.narrowStore bg (addr 1) (bytes 1))) ∧
  (∀ x : Tile, x.ok → ∀ (a : Nat) (bs : List Byte),
     (∀ n, (x.flushSpan a n).ok ∧ ∀ b, (x.flushSpan a n).byte b = x.byte b) ∧
     ((x.store a bs).ok ∧ ∀ b, (x.store a bs).byte b = if a ≤ b ∧ b < a + bs.length then bs.getD (b - a) 0 else x.byte b) ∧
     ∀ bg : Bool, 0 < bs.length → a % 64 + bs.length ≤ 64 →
       (x.narrowStore bg a bs).ok ∧
       ∀ b, (x.narrowStore bg a bs).byte b = if a ≤ b ∧ b < a + bs.length then bs.getD (b - a) 0 else x.byte b)

/-- R100, R103, R104, R114, R220: vector loads and stores of scratchpad; a store issues when the write port takes it. A lane whose predicate bit is 0
keeps its value, or writes nothing; element i lies at the address plus i times the element width. R98: the 2D loads and stores. Word k of the access
lies at 64 base bytes, plus row times pitch words of 16, plus column: the row steps with dir, else the column. -/
def Obligations.VectorMemory : Prop :=
  (∀ (s : State) (t : Fin 1632) (bg : Bool), s.ready t bg →
   ∀ (vr : BitVec 5) (aB : BitVec 4) (u : Bool) (p : BitVec 3) (imm : BitVec 12),
     let c := s.dev.ctx t bg
     let x := s.dev.tile t
     let base := c.ra aB.toNat
     let off := BitVec.ofInt 32 (4 * imm.toInt)
     let a := (if u then base else base + off).toNat / 4 * 4
     let act (i : Nat) : Bool := (c.rp p.toNat).getLsbD i
     let load (i : Instr) (n : Nat) (w : Nat → Word) := a + 64 * n ≤ 0x50000 →
       s.leaves t i (((x.flushSpan a (64 * n)).mod bg fun y =>
         let z := y.wv vr.toNat (mkLanes fun k => if act k then w k else lane (c.rv vr.toNat) k)
         if u then z.wa aB.toNat (base + off) else z).goto bg (c.pc + 1)) s.dev
     let value (n k : Nat) := ofBytesLE (x.readBytes (a + n * k) n)
     let store (i : Instr) (n : Nat) := let port := [Need.port (linesOf a (64 * n)) false]
       a + 64 * n ≤ 0x48000 → s.met t bg port →
       s.leaves t i (((((List.range 64).filter act).foldl (fun y k =>
         y.store (a + n * k) (bytesLE n (lane (c.rv vr.toNat) k).toNat)) (x.flushSpan a (64 * n))).mod bg fun y =>
         if u then y.wa aB.toNat (base + off) else y).goto bg (c.pc + 1)) (s.dev.drew t port)
     load (.ldvW (lone t) vr aB u p imm 0) 4 (fun k => BitVec.ofNat 32 (value 4 k)) ∧
     load (.ldvHu (lone t) vr aB u p imm 0) 2 (fun k => BitVec.ofNat 32 (value 2 k)) ∧
     load (.ldvB (lone t) vr aB u p imm 0) 1 (fun k => (BitVec.ofNat 8 (value 1 k)).signExtend 32) ∧
     store (.stvW (lone t) vr aB u p imm 0) 4 ∧ store (.stvH (lone t) vr aB u p imm 0) 2 ∧ store (.stvB (lone t) vr aB u p imm 0) 1) ∧
  (∀ (s : State) (t : Fin 1632) (bg : Bool), s.ready t bg →
   ∀ (vr : BitVec 5) (aB : BitVec 4) (sP : BitVec 6) (dir : Bool) (p : BitVec 3),
     let c := s.dev.ctx t bg
     let x := s.dev.tile t
     let a := (c.ra aB.toNat).toNat
     let pl := (c.rs sP.toNat).toNat
     let word (k : Nat) := pl % 2 ^ 13 * 16 + (a / 65536 + if dir then k else 0) * (pl / 65536 % 2 ^ 13) * 16 + a % 65536 +
       if dir then 0 else k
     let addr (k : Nat) := word k % 2 ^ 32 * 4 % 2 ^ 32
     let act (i : Nat) : Bool := (c.rp p.toNat).getLsbD i
     let touched := (List.range 64).foldl (fun y k => y.flushSpan (addr k) 4) x
     ((∀ k, k < 64 → addr k < 0x50000) →
       s.leaves t (.ldv2 (lone t) vr aB sP dir p 0) ((touched.mod bg fun y => y.wv vr.toNat (mkLanes fun k =>
         if act k then BitVec.ofNat 32 (ofBytesLE (x.readBytes (addr k) 4)) else lane (c.rv vr.toNat) k)).goto bg (c.pc + 1)) s.dev) ∧
     let port := [Need.port ((List.range 64).map fun k => addr k / 64) false]
     ((∀ k, k < 64 → addr k < 0x48000) → s.met t bg port →
       s.leaves t (.stv2 (lone t) vr aB sP dir p 0) ((((List.range 64).filter act).foldl (fun y k =>
         y.store (addr k) (bytesLE 4 (lane (c.rv vr.toNat) k).toNat)) touched).goto bg (c.pc + 1)) (s.dev.drew t port)))

/-! ### X slot: queues, synchronisation, streams, exchange -/

/-- R105 to R107, R110, R348: SEND copies lanes 0 to len - 1 into a message for the queue that its register names and of its own class, numbered in the
order of injection and counted in flits of 64 bytes on the VC of its class; the context's buffered stores flush first. It issues once the context's
held pool stores are written and the network takes it. R108 to R110, R312, R348: a synchronisation operation goes, as one flit on VC2, on the
context's channel to the unit of the object's core; sD waits for the prior value (none for s0), and the context's buffered stores flush first. -/
def Obligations.SendsAndSync : Prop :=
  (∀ (s : State) (t : Fin 1632) (bg : Bool), s.ready t bg → ∀ (vA : BitVec 5) (sDst len : BitVec 6), len ≠ 63 →
     let c := s.dev.ctx t bg
     let w := c.rs sDst.toNat
     ∀ dest, s.dev.destOf (tileCore t) w = some dest →
     let payload := (c.rv vA.toNat).take len.toNat
     let sends (i : Instr) (reply : Bool) :=
       let needs := [Need.net reply, Need.poolStores]
       destClass w = reply → s.met t bg needs →
       s.effect t bg i fun d =>
         let e := (d.drew t needs).modTile t fun x => x.flushOf bg
         ({ e with
           netSeq := d.netSeq + 1
           msgs := d.msgs ++ [{ dest := dest, fwd := none, seq := d.netSeq,
                                msg := { kind := 0, cls := reply, dq := destNumber w % 16, sender := d.tileSender t bg, cq := none,
                                         payload := payload, watch := none, release := none } }] } : Dev).injectFlits
             (tileCore t) (b2n reply) ((24 + 4 * payload.length + 63) / 64)
     sends (.sendReq (lone t) vA sDst len 0) false ∧ sends (.sendRpl (lone t) vA sDst len 0) true) ∧
  (∀ (s : State) (t : Fin 1632) (bg : Bool), s.ready t bg → s.met t bg [.poolStores] →
   ∀ (sD sObj sVal sNew : BitVec 6),
     let c := s.dev.ctx t bg
     ∀ core obj, s.dev.objOf (tileCore t) (c.rs sObj.toNat) = some (core, obj) →
     let sends (i : Instr) (what : Option (Nat × Bool × Nat) → SyncWhat) :=
       s.effect t bg i fun d => ({ d.modTile t (fun x => (x.flushOf bg).mod bg fun y =>
           if sD = 0 then y else { y with pend := y.pend ++ [Reg.s sD.toNat] }) with
         syncs := d.syncs ++ [{ chan := .tile t bg, core := core, what := what (if sD = 0 then none else some (t, bg, sD.toNat)) }]
         } : Dev).injectFlits (tileCore t) 2 1
     sends (.sadd (lone t) sD sObj sVal 0) (fun r => .add obj (c.rs sVal.toNat) r) ∧
     sends (.sset (lone t) sD sObj sVal 0) (fun r => .set obj (c.rs sVal.toNat) r) ∧
     sends (.scas (lone t) sD sObj sVal sNew 0) fun r => .cas obj (c.rs sVal.toNat) (c.rs sNew.toNat) r)

/-- R68, R105, R288, R289: QRD pops the head message of a queue of its own context, into a vector register (header words first, payload after them, 0
beyond) or its first payload word into a scalar register; then the message that waits at the ingress of the queue's class is evaluated again. QCNT
counts whole messages, spilled ones included. R283 to R288: a message placed in an empty ring is its head, with its length, kind, class, queue and
sender in header word 0 and its payload whole; one pop empties the ring again. -/
def Obligations.QueueReadsAndRing : Prop :=
  (∀ (s : State) (t : Fin 1632) (bg : Bool), s.ready t bg →
   ∀ qn : BitVec 4, bit (s.dev.preg (.tile t) 0x9C) qn.toNat = bg →
     let c := s.dev.ctx t bg
     let x := s.dev.tile t
     let q := qn.toNat
     (∀ w0 w1 payload, x.headMsg q = some (w0, w1, payload) →
       let popped (d : Dev) : Dev := (d.modTile t fun y => y.pop q).retryIngress t (8 ≤ q)
       let lanes := mkLanes fun k => (w0 :: w1 :: payload).getD k 0
       (∀ vD : BitVec 5, s.effect t bg (.qrd (lone t) (vD.setWidth 6) qn 0 0) fun d => (popped d).wv t bg vD.toNat lanes) ∧
       (∀ sD : BitVec 6, s.effect t bg (.qrd (lone t) sD qn 1 0) fun d => (popped d).ws t bg sD.toNat (payload.getD 0 0)) ∧
       (s.dev.ingress.get? (ingressKey t (8 ≤ q)) = none →
         (∀ vD : BitVec 5, s.leaves t (.qrd (lone t) (vD.setWidth 6) qn 0 0)
           (((x.pop q).mod bg fun y => y.wv vD.toNat lanes).goto bg (c.pc + 1)) s.dev) ∧
         ∀ sD : BitVec 6, s.leaves t (.qrd (lone t) sD qn 1 0)
           (((x.pop q).mod bg fun y => y.ws sD.toNat (payload.getD 0 0)).goto bg (c.pc + 1)) s.dev)) ∧
     ∀ sD : BitVec 6, s.computes t bg (.qcnt (lone t) sD qn 1 0) fun y => y.ws sD.toNat
       (BitVec.ofNat 32 (if x.qAbsent q then 0 else x.qCount q + (s.dev.spillOf t q).length))) ∧
  (∀ (x : Tile) (q : Nat) (m : Msg), x.ok → q < 16 → x.qAbsent q = false → x.qCount q = 0 →
     m.payload.length ≤ 62 → m.kind < 8 → m.dq < 16 → m.sender < 65536 →
     ∃ y, x.place q m = some y ∧ y.headMsg q = some (m.word0, m.word1, m.payload) ∧ y.qCount q = 1 ∧ (y.pop q).qCount q = 0 ∧
       m.word0.toNat = m.payload.length + 256 * m.kind + 2048 * b2n m.cls + 4096 * m.dq + 65536 * m.sender)

/-- R108, R317, R319, R324, R326, R329, R348: WATCH with a reply-class queue sends its registration and counts it against the context, while fewer than
four are outstanding; BARA with a reply-class queue and fewer than two arrivals pending sends the tile's arrival in its current generation, names the
queue for its release and flips the generation. Both leave as one flit on VC2, after the context's buffered stores. A BARA with two arrivals pending
does not issue: the cycle counts CNT_STALL_WAIT, and it raises BARRIER_OVERRUN if the sync page is on and the bundle did not already wait for that. -/
def Obligations.WatchAndArrive : Prop :=
  ∀ (s : State) (t : Fin 1632) (bg : Bool), s.ready t bg → s.met t bg [.poolStores] →
  ∀ (sObj sTgt : BitVec 6) (cond : BitVec 1) (qn : BitVec 4), 8 ≤ qn.toNat →
    let c := s.dev.ctx t bg
    let x := s.dev.tile t
    (∀ core obj, s.dev.objOf (tileCore t) (c.rs sObj.toNat) = some (core, obj) → c.watches < 4 →
      s.effect t bg (.watch (lone t) sObj sTgt cond qn 0) fun d =>
        ({ d.modTile t (fun x => (x.flushOf bg).mod bg fun y => { y with watches := y.watches + 1 }) with
          syncs := d.syncs ++ [{ chan := .tile t bg, core := core, what := .watch obj (c.rs sTgt.toNat) (cond = 1) t bg qn.toNat }]
          } : Dev).injectFlits (tileCore t) 2 1) ∧
    let b := (c.rs sObj.toNat).toNat % 256
    let mine := x.bars.getD b TileBar.reset
    s.dev.barScope (tileCore t) b ≠ 0 →
    (mine.pend.length < 2 → s.effect t bg (.bara (lone t) sObj qn 0) fun d =>
      ({ d.modTile t (fun x => { x.flushOf bg with
          bars := x.bars.set b { gen := !mine.gen, pend := mine.pend ++ [(mine.gen, qn.toNat)] } }) with
        syncs := d.syncs ++ [{ chan := .tile t bg, core := tileCore t, what := .arrive b mine.gen t }] } : Dev).injectFlits (tileCore t) 2 1) ∧
    (2 ≤ mine.pend.length →
      let first := c.waits.contains (.arrival b) = false ∧ bit (s.dev.preg (.sync (tileCore t)) 0x80) 0 = true
      let told := if first then s.dev.raise (.sync (tileCore t)) 0 else s.dev
      let waiting := told.modCtx t bg fun y => { y with stall := y.stall + 1, ringWait := 0, waits := [.arrival b] }
      exec (.bara (lone t) sObj qn 0) s = .next { s with dev := waiting.countCycle t cntWait })

/-- R254 to R256: SSTART and SSTOP, after the context's buffered stores. A start whose checks pass makes every stage of the chain RUNNING from its
beginning and writes 0 to sD; one that meets refusal codes (1 to 14) starts nothing, writes the lowest to sD and into the head's status, and leaves
the head REFUSED, or RUNNING if it ran. SSTOP of a RUNNING context ends its chain, of another one changes nothing; sD takes the state before. R104,
R257 to R262: RSTAT describes a ring port, 0 while unbound. RLDV reads 64 words of the current slot of an input port, when it is full, into the lanes
whose p bit is 1; RREL marks the slot empty and moves to the next, and unbinds the port when its stage has ended and no slot is full. RSTV writes 64
words of the current slot of an output port in the general region, when it is empty and the write port takes them; RPUB marks the slot full with its
length rounded up to 4, whole for a length of 0, and moves to the next, after the context's buffered stores. Each ends the context's consecutive wait.
The fill that RSTAT gives of a slot that is not full is the model's choice (log entry 22). -/
def Obligations.StreamAndRingPorts : Prop :=
  ((∀ (s : State) (t : Fin 1632) (bg : Bool), s.ready t bg → s.met t bg [.poolStores] → ∀ sD sCtx : BitVec 6,
     let k := ((s.dev.ctx t bg).rs sCtx.toNat).toNat % 1024
     let c := tileCore t
     let d := s.dev.modTile t fun x => x.flushOf bg
     let code := d.startCode c k
     let stages := (d.chainOf c 4 [] k).1
     let gives (i : Instr) (e : Dev) (w : Nat) := s.effect t bg i fun _ => e.ws t bg sD.toNat (BitVec.ofNat 32 w)
     (code = 0 → gives (.sstart (lone t) sD sCtx 0) ((stages.zip (none :: stages.map some)).foldl (fun e x => e.runStage c k x.1 x.2) d) 0) ∧
     (code ≠ 0 → code ≤ 14 ∧
       gives (.sstart (lone t) sD sCtx 0) ((d.bump (.stream c) 0xA8 1).setCtxState c k (if d.ctxState c k = 1 then 1 else 5) code) code) ∧
     (d.ctxState c k = 1 → gives (.sstop (lone t) sD sCtx 0) (d.endChain c k .stop) 1) ∧
     (d.ctxState c k ≠ 1 → gives (.sstop (lone t) sD sCtx 0) d (d.ctxState c k))) ∧
   ∀ (d : Dev) (c head k code : Nat) (prev : Option Nat), c < 8 → k < 1024 →
     (let e := d.runStage c head k prev
      e.ctxState c k = 1 ∧ ∃ r, e.stageRun c k = some r ∧ r.head = head ∧ r.iter = 0 ∧ r.taken = 0 ∧ r.ending = none) ∧
     (code < 256 → (d.setCtxState c k 5 code).ctxState c k = 5 ∧ fld ((d.setCtxState c k 5 code).descWord c k 14) 8 8 = code)) ∧
  (∀ (s : State) (t : Fin 1632) (bg : Bool), s.ready t bg → ∀ (rp : BitVec 3),
     let c := s.dev.ctx t bg
     let p := s.dev.port t rp.toNat
     let full := p.full.getD p.cur false
     let x := s.dev.tile t
     let slot := p.base + p.cur * p.slotSize
     let next := (p.cur + 1) % p.slots
     let stays (i : Instr) (y : Tile) := s.leaves t i (y.goto bg (c.pc + 1)) s.dev
     let write (a : Nat) := [Need.ring rp.toNat true, Need.port (linesOf a 256) false]
     (∀ sD : BitVec 6, s.computes t bg (.rstat (lone t) sD rp 0) fun y => y.ws sD.toNat (if p.bound = false then 0 else
       packFields 32 [(0, 1), (1, b2n p.output), (2, b2n (!p.output && full)), (3, b2n (p.output && !full)), (4, p.cur),
         (16, if !p.output && full then p.fill.getD p.cur 0 / 4 else 0)])) ∧
     (p.bound = true → p.output = false → full = true →
       (∀ (vD : BitVec 5) (pr : BitVec 3) (off : BitVec 12), 4 * off.toNat + 256 ≤ p.slotSize →
         let a := slot + 4 * off.toNat
         stays (.rldv (lone t) vD rp pr off 0) ((x.flushSpan a 256).mod bg fun y => y.wv vD.toNat (mkLanes fun k =>
           if (c.rp pr.toNat).getLsbD k then BitVec.ofNat 32 (ofBytesLE ((s.dev.tile t).readBytes (a + 4 * k) 4))
           else lane (c.rv vD.toNat) k))) ∧
       let back : RingPort := { p with full := p.full.set p.cur false, fill := p.fill.set p.cur 0, cur := next }
       let last := p.ended && (List.range p.slots).all fun i => !(back.full.getD i false)
       stays (.rrel (lone t) rp 0) { x with ports := x.ports.set rp.toNat (if last then RingPort.reset else back) }) ∧
     (p.bound = true → p.output = true → full = false →
       (∀ (vA : BitVec 5) (pr : BitVec 3) (off : BitVec 12), 4 * off.toNat + 256 ≤ p.slotSize → slot + p.slotSize ≤ 0x48000 →
         let a := slot + 4 * off.toNat
         s.met t bg (write a) →
         s.leaves t (.rstv (lone t) vA rp pr off 0) ((((List.range 64).filter fun k => (c.rp pr.toNat).getLsbD k).foldl (fun y k =>
           y.store (a + 4 * k) (bytesLE 4 (lane (c.rv vA.toNat) k).toNat)) (x.flushSpan a 256)).goto bg (c.pc + 1)) (s.dev.drew t (write a))) ∧
       ∀ sLen : BitVec 6, (c.rs sLen.toNat).toNat ≤ p.slotSize → s.met t bg [.poolStores] →
         let n := (c.rs sLen.toNat).toNat
         let filled := if n = 0 then p.slotSize else (n + 3) / 4 * 4
         let done : RingPort := { p with full := p.full.set p.cur true, fill := p.fill.set p.cur filled, cur := next }
         stays (.rpub (lone t) rp sLen 0) { x.flushOf bg with ports := x.ports.set rp.toNat done }))

/-- R25, R110, R158 to R161, R346: PUT and PUTG copy lanes 0 to len, after the context's buffered stores; the write leaves the tile when the network takes
it (as a packet of 1 to 5 flits on VC0, its destination translated then), or is held in it while a compute slot is open (and behind one that is held,
while the forecast is armed and no exchange slot is open). A PUTG to its own package is translated by its core's map as it leaves; one to another
package leaves as a request to it when there is a free request entry and no earlier one of its context to that package waits, and waits on the die
otherwise. R62, R163 to R166, R230: WAITC issues once its counter meets the target and changes nothing, and until then stalls, counted as
CNT_STALL_WAIT; LWATCH registers a watch of a landing counter, or sends its message at once where the counter meets it already; LCOP reads a counter,
and subtracts from it or writes it, which evaluates its watch; TPOST posts a pair under its id with the parity of the step. LWATCH and TPOST follow
the context's buffered stores. -/
def Obligations.ExchangeAndLanding : Prop :=
  (∀ (s : State) (t : Fin 1632) (bg : Bool), s.ready t bg → ∀ (vA n : BitVec 5) (len lc : BitVec 6) (en : Bool),
     let c := s.dev.ctx t bg
     let x := (s.dev.tile t).flushOf bg
     let bytes := ((c.rv vA.toNat).take (len.toNat + 1)).flatMap fun w => bytesLE 4 w.toNat
     let count := if en then some lc.toNat else none
     let held := s.dev.computeOpen = true ∨ ((s.dev.tile t).puts ≠ [] ∧ s.dev.fc.armed = true ∧ s.dev.exchangeOpen = false)
     let needs := [Need.poolStores, Need.net false]
     let waits (i : Instr) (p : PutItem) := s.met t bg [.poolStores] →
       s.leaves t i (Tile.goto { x with puts := x.puts ++ [p] } bg (c.pc + 1)) s.dev
     let goes (i : Instr) (p : PutItem) := s.met t bg needs → s.effect t bg i fun d =>
       ({ (d.drew t needs).modTile t (fun y => y.flushOf bg) with
          puts := d.puts ++ [{ p with seq := d.netSeq }], netSeq := d.netSeq + 1 } : Dev).injectPkt (tileCore t) 0
     (let a := (c.rs (2 * n.toNat)).toNat / 4 * 4
      let w := c.rs (2 * n.toNat + 1)
      let item : PutItem := { src := t, bg := bg, glob := none, lcore := fld w 13 3, row := fld w 9 4, lpos := fld w 5 4, addr := a,
                              bytes := bytes, lc := count, spot := none, status := 0, seq := 0 }
      let here := GSpot.spad (s.dev.tileOf (tileCore t) (fld w 13 3) (fld w 9 4) (fld w 5 4)) a
      s.dev.lcoreBound (tileCore t) (fld w 13 3) = true → fld w 9 4 < 12 → a + bytes.length ≤ 0x50000 →
      (held → waits (.put (lone t) vA n len lc en 0) item) ∧ (¬ held → goes (.put (lone t) vA n len lc en 0) { item with spot := some here })) ∧
     let g := c.pair n.toNat
     let item : PutItem := { src := t, bg := bg, glob := some g, lcore := 0, row := 0, lpos := 0, addr := 0, bytes := bytes, lc := count,
                             spot := none, status := 0, seq := 0 }
     let pos := fld g 48 16
     let ahead := s.dev.puts.any fun q => q.src == t.val && q.bg == bg && q.glob.isSome && q.package == some pos
     fld g 46 2 < 2 →
     (held → waits (.putg (lone t) vA n len lc en 0) item) ∧
     (¬ held → pos = s.dev.position → goes (.putg (lone t) vA n len lc en 0)
       (match s.dev.translate (tileCore t) (g.toNat / 4 * 4) bytes.length with
        | .ok spot => { item with spot := some spot }
        | .error status => { item with status := status })) ∧
     (¬ held → pos ≠ s.dev.position → s.dev.canRequest pos = false ∨ ahead = true → goes (.putg (lone t) vA n len lc en 0) item) ∧
     (¬ held → pos ≠ s.dev.position → s.dev.canRequest pos = true → ahead = false → s.met t bg needs →
       s.effect t bg (.putg (lone t) vA n len lc en 0) fun d => ((d.drew t needs).modTile t fun _ => x).request (.put t bg) (g.toNat / 4 * 4)
         (writeParts (if en then typeWrl else typeWr) (if en then lc.toNat else 0) (bytes.length + 1) (g.toNat / 4 * 4) bytes))) ∧
  (∀ (s : State) (t : Fin 1632) (bg : Bool), s.ready t bg → ∀ (lc sD sVal : BitVec 6) (n : BitVec 5),
     let c := s.dev.ctx t bg
     let x := s.dev.tile t
     let old := x.lc lc.toNat
     let v := c.rs sVal.toNat
     (∀ cond : BitVec 1, (if cond = 1 then old = v else v.toNat ≤ old.toNat) →
       s.computes t bg (.waitc (lone t) lc sVal cond 0) fun y => y) ∧
     (∀ cond : BitVec 1, ¬ (if cond = 1 then old = v else v.toNat ≤ old.toNat) →
       exec (.waitc (lone t) lc sVal cond 0) s = .next { s with dev := (s.dev.modCtx t bg fun y =>
         { y with stall := y.stall + 1, ringWait := 0, waits := [.landing lc.toNat v (cond = 1)] }).countCycle t cntWait }) ∧
     (∀ (cond : BitVec 1) (qn : BitVec 4), 8 ≤ qn.toNat → s.met t bg [.poolStores] →
       let watch : LWatch := { target := v, eq := cond = 1, qn := qn.toNat, bg := bg }
       let there := if cond = 1 then old = v else v.toNat ≤ old.toNat
       (¬ there → s.leaves t (.lwatch (lone t) lc sVal cond qn 0)
         (Tile.goto { x.flushOf bg with lwatch := x.lwatch.set lc.toNat watch } bg (c.pc + 1)) s.dev) ∧
       (there → s.effect t bg (.lwatch (lone t) lc sVal cond qn 0) fun d =>
         (d.modTile t fun y => { y.flushOf bg with lwatch := (y.lwatch.set lc.toNat watch).erase lc.toNat }).landMsg t lc.toNat watch old)) ∧
     s.computes t bg (.lcop (lone t) sD lc sVal 0 0) (fun y => y.ws sD.toNat old) ∧
     s.effect t bg (.lcop (lone t) sD lc sVal 1 0) (fun d => (d.setLanding t lc.toNat (old - v)).ws t bg sD.toNat old) ∧
     s.effect t bg (.lcop (lone t) sD lc sVal 2 0) (fun d => (d.setLanding t lc.toNat v).ws t bg sD.toNat old) ∧
     (s.met t bg [.poolStores] → ∀ kind : BitVec 1,
       s.effect t bg (.tpost (lone t) n sVal kind 0) fun d => ({ d.modTile t (fun y => y.flushOf bg) with
         posts := d.posts ++ [{ tile := t, bg := bg, kind := kind = 1, id := v, value := c.pair n.toNat,
                                parity := d.stepParity (tileCore t) }] } : Dev).injectPkt (tileCore t) 3))

/-! ### V slot -/

/-- R113 to R115: the integer functions of VINT, lane by lane under the predicate, and of VSOP with the scalar as the second operand; ADDS and SUBS
saturate and set sat; VSOP also broadcasts the scalar. R113, R114: VMOV, VIOTA (the lane's number plus the scalar), VSEL (its p selects, every lane is
written), VEXT and VINS (one lane, by the low six bits of the scalar), PLOGIC and PMOV. -/
def Obligations.IntegerLanes : Prop :=
  (∀ (s : State) (t : Fin 1632) (bg : Bool), s.ready t bg → ∀ (vD vA vB : BitVec 5) (sB : BitVec 6) (p : BitVec 3),
     let c := s.dev.ctx t bg
     let sat (i : Int) : Word × BitVec 5 :=
       if i < -(2 ^ 31) then (0x80000000#32, 16#5) else if 2 ^ 31 ≤ i then (0x7FFFFFFF#32, 16#5) else (BitVec.ofInt 32 i, 0)
     let both (fn : Nat) (f : Word → Word → Word × BitVec 5) :=
       s.computes t bg (.vint (lone t) vD vA vB p (BitVec.ofNat 8 fn)) (fun y => y.lanes vD.toNat (c.rp p.toNat) fun k =>
         f (lane (c.rv vA.toNat) k) (lane (c.rv vB.toNat) k)) ∧
       s.computes t bg (.vsop (lone t) vD vA sB p (BitVec.ofNat 7 fn)) fun y => y.lanes vD.toNat (c.rp p.toNat) fun k =>
         f (lane (c.rv vA.toNat) k) (c.rs sB.toNat)
     both 0 (fun a b => (a + b, 0)) ∧ both 1 (fun a b => (a - b, 0)) ∧ both 2 (fun a b => (BitVec.ofInt 32 (a.toInt * b.toInt), 0)) ∧
     both 3 (fun a b => (a &&& b, 0)) ∧ both 4 (fun a b => (a ||| b, 0)) ∧ both 5 (fun a b => (a ^^^ b, 0)) ∧
     both 6 (fun a b => (a <<< (b.toNat % 32), 0)) ∧ both 7 (fun a b => (a >>> (b.toNat % 32), 0)) ∧
     both 8 (fun a b => (a.sshiftRight (b.toNat % 32), 0)) ∧ both 9 (fun a b => (if a.toInt < b.toInt then a else b, 0)) ∧
     both 10 (fun a b => (if a.toInt < b.toInt then b else a, 0)) ∧ both 11 (fun a b => sat (a.toInt + b.toInt)) ∧
     both 12 (fun a b => sat (a.toInt - b.toInt)) ∧
     s.computes t bg (.vsop (lone t) vD 0 sB p 0x20) fun y => y.lanes vD.toNat (c.rp p.toNat) fun _ => (c.rs sB.toNat, 0)) ∧
  (∀ (s : State) (t : Fin 1632) (bg : Bool), s.ready t bg →
   ∀ (vD vA vB : BitVec 5) (sD sA sB : BitVec 6) (p pD pA pB : BitVec 3),
     let c := s.dev.ctx t bg
     let n := (c.rs sB.toNat).toNat % 64
     let logic (fn : BitVec 4) (r : BitVec 64) := s.computes t bg (.plogic (lone t) pD pA pB fn 0) fun y => y.wp pD.toNat r
     s.computes t bg (.vmov (lone t) vD vA p 0) (fun y => y.lanes vD.toNat (c.rp p.toNat) fun k => (lane (c.rv vA.toNat) k, 0)) ∧
     s.computes t bg (.viota (lone t) vD sB p 0)
       (fun y => y.lanes vD.toNat (c.rp p.toNat) fun k => (BitVec.ofNat 32 k + c.rs sB.toNat, 0)) ∧
     s.computes t bg (.vsel (lone t) vD vA vB p 0) (fun y => y.wv vD.toNat (mkLanes fun k =>
       if (c.rp p.toNat).getLsbD k then lane (c.rv vA.toNat) k else lane (c.rv vB.toNat) k)) ∧
     s.computes t bg (.vext (lone t) sD vA sB 0) (fun y => y.ws sD.toNat (lane (c.rv vA.toNat) n)) ∧
     s.computes t bg (.vins (lone t) vD sA sB 0)
       (fun y => y.wv vD.toNat (mkLanes fun k => if k = n then c.rs sA.toNat else lane (c.rv vD.toNat) k)) ∧
     logic 0 (c.rp pA.toNat &&& c.rp pB.toNat) ∧ logic 1 (c.rp pA.toNat ||| c.rp pB.toNat) ∧
     logic 2 (c.rp pA.toNat ^^^ c.rp pB.toNat) ∧ logic 3 (c.rp pA.toNat &&& ~~~ c.rp pB.toNat) ∧ logic 4 (~~~ c.rp pA.toNat) ∧
     s.computes t bg (.pmov (lone t) pD sA sB 0)
       (fun y => y.wp pD.toNat (BitVec.ofNat 64 ((c.rs sB.toNat).toNat * 2 ^ 32 + (c.rs sA.toNat).toNat))))

/-- R113, R115: floating arithmetic forms the exact result and rounds it once, to nearest even and to Inf beyond the format; iv marks a NaN that no
operand was. FMIN and FMAX give the canonical NaN for a NaN, and order -0 below +0; FABS and FNEG act on the sign, and give the canonical NaN for a
NaN. VSOP adds and multiplies by the scalar. R113 to R115: VCMP writes the bit of every lane: the comparison where p's bit is 1, else 0. Floating
comparisons are false with a NaN, except FUNO. -/
def Obligations.FloatLanes : Prop :=
  (∀ (s : State) (t : Fin 1632) (bg : Bool), s.ready t bg → ∀ (vD vA vB vC : BitVec 5) (sB : BitVec 6) (p : BitVec 3),
     let c := s.dev.ctx t bg
     let rounded (x : FVal) (ops : List FVal) : Word × BitVec 5 :=
       let r := fmtFp32.conv false .rne x
       (BitVec.ofNat 32 r.enc, r.flags ||| (if x = .nan ∧ FVal.nan ∉ ops then 1#5 else 0))
     let add (a b : Word) := rounded ((fp32 a).add (fp32 b)) [fp32 a, fp32 b]
     let mul (a b : Word) := rounded ((fp32 a).mul (fp32 b)) [fp32 a, fp32 b]
     let less (a b : Word) : Prop := (fp32 a).lt (fp32 b) = true ∨ (fp32 a).isZero = true ∧ (fp32 b).isZero = true ∧ a.msb = true ∧ b.msb = false
     let vfp (fn : BitVec 8) (f : Word → Word → Word × BitVec 5) := s.computes t bg (.vfp (lone t) vD vA vB p fn) fun y =>
       y.lanes vD.toNat (c.rp p.toNat) fun k => f (lane (c.rv vA.toNat) k) (lane (c.rv vB.toNat) k)
     let unary (fn : BitVec 8) (f : Word → Word) := s.computes t bg (.vfp (lone t) vD vA 0 p fn) fun y =>
       y.lanes vD.toNat (c.rp p.toNat) fun k =>
         (if fp32 (lane (c.rv vA.toNat) k) = .nan then 0x7FC00000#32 else f (lane (c.rv vA.toNat) k), 0)
     let vsop (fn : BitVec 7) (f : Word → Word → Word × BitVec 5) := s.computes t bg (.vsop (lone t) vD vA sB p fn) fun y =>
       y.lanes vD.toNat (c.rp p.toNat) fun k => f (lane (c.rv vA.toNat) k) (c.rs sB.toNat)
     vfp 0 add ∧ vfp 1 (fun a b => rounded ((fp32 a).add (fp32 b).neg) [fp32 a, fp32 b]) ∧ vfp 2 mul ∧ vsop 0x10 add ∧ vsop 0x11 mul ∧
     (∀ least most : Word → Word → Word × BitVec 5,
       (∀ a b, fp32 a = .nan ∨ fp32 b = .nan → least a b = (0x7FC00000#32, 0) ∧ most a b = (0x7FC00000#32, 0)) →
       (∀ a b, fp32 a ≠ .nan → fp32 b ≠ .nan →
         (less b a → least a b = (b, 0)) ∧ (¬ less b a → least a b = (a, 0)) ∧
         (less a b → most a b = (b, 0)) ∧ (¬ less a b → most a b = (a, 0))) → vfp 3 least ∧ vfp 4 most) ∧
     unary 5 (fun a => a &&& 0x7FFFFFFF#32) ∧ unary 6 (fun a => a ^^^ 0x80000000#32) ∧
     s.computes t bg (.vfma (lone t) vD vA vB vC p 0) fun y => y.lanes vD.toNat (c.rp p.toNat) fun k =>
       let a := lane (c.rv vA.toNat) k
       let b := lane (c.rv vB.toNat) k
       let z := lane (c.rv vC.toNat) k
       rounded (((fp32 a).mul (fp32 b)).add (fp32 z)) [fp32 a, fp32 b, fp32 z]) ∧
  (∀ (s : State) (t : Fin 1632) (bg : Bool), s.ready t bg → ∀ (pD p : BitVec 3) (vA vB : BitVec 5),
     let c := s.dev.ctx t bg
     let compares (cond : BitVec 4) (holds : Word → Word → Prop) := ∃ r : BitVec 64,
       s.computes t bg (.vcmp (lone t) pD vA vB p cond 0) (fun y => y.wp pD.toNat r) ∧
       ∀ k, k < 64 → (r.getLsbD k = true ↔
         (c.rp p.toNat).getLsbD k = true ∧ holds (lane (c.rv vA.toNat) k) (lane (c.rv vB.toNat) k))
     let nan (a b : Word) : Prop := fp32 a = .nan ∨ fp32 b = .nan
     compares 0 (fun a b => ¬ nan a b ∧ (fp32 a).lt (fp32 b) = false ∧ (fp32 b).lt (fp32 a) = false) ∧
     compares 1 (fun a b => ¬ nan a b ∧ (fp32 a).lt (fp32 b) = true) ∧
     compares 2 (fun a b => ¬ nan a b ∧ (fp32 b).lt (fp32 a) = false) ∧ compares 3 nan ∧ compares 4 (fun a b => a = b) ∧
     compares 5 (fun a b => a.toInt < b.toInt) ∧ compares 6 (fun a b => a.toNat < b.toNat) ∧ compares 7 (fun a b => a ≠ b))

/-- R117: VRED over the active lanes: ISUM is their sum modulo 2^32, IMAX and IMIN their greatest and least (the extreme of the format with none active);
FSUM, FMAX and FMIN combine halves of the 64 lanes in a fixed tree, an inactive lane being the identity. R155: VCRC folds the bytes of lanes 0 to len,
the least significant first, into the CRC state of its pair. -/
def Obligations.ReductionsAndCrc : Prop :=
  (∀ (s : State) (t : Fin 1632) (bg : Bool), s.ready t bg → ∀ (sD : BitVec 6) (vA : BitVec 5) (p : BitVec 3),
     let c := s.dev.ctx t bg
     let x (k : Nat) := lane (c.rv vA.toNat) k
     let act (k : Nat) : Prop := k < 64 ∧ (c.rp p.toNat).getLsbD k = true
     let gives (fn : BitVec 6) (w : Word) := s.computes t bg (.vred (lone t) sD vA p fn 0) fun y => (y.ws sD.toNat w).setFp 0
     let tree (fn : BitVec 6) (op : Word → Word → Word × BitVec 5) (unit : Word) :=
       let r := reduceTree op 6 ((List.range 64).map fun k => if (c.rp p.toNat).getLsbD k then x k else unit)
       s.computes t bg (.vred (lone t) sD vA p fn 0) fun y => (y.ws sD.toNat r.1).setFp r.2
     gives 3 (BitVec.ofNat 32 (((List.range 64).filter fun k => (c.rp p.toNat).getLsbD k).map fun k => (x k).toNat).sum) ∧
     (∃ w, gives 4 w ∧ (∀ k, act k → (x k).toInt ≤ w.toInt) ∧ (w = 0x80000000#32 ∨ ∃ k, act k ∧ x k = w)) ∧
     (∃ w, gives 5 w ∧ (∀ k, act k → w.toInt ≤ (x k).toInt) ∧ (w = 0x7FFFFFFF#32 ∨ ∃ k, act k ∧ x k = w)) ∧
     tree 0 fp32Add 0x80000000 ∧ tree 1 fp32Max 0xFF800000 ∧ tree 2 fp32Min 0x7F800000) ∧
  (∀ (s : State) (t : Fin 1632) (bg : Bool), s.ready t bg → ∀ (n vA : BitVec 5) (len : BitVec 6),
     let c := s.dev.ctx t bg
     let bytes := (List.range (len.toNat + 1)).flatMap fun k => bytesLE 4 (lane (c.rv vA.toNat) k).toNat
     let r := crc64 (c.pair n.toNat) bytes
     s.computes t bg (.vcrc (lone t) n vA len 0) fun y =>
       (y.ws (2 * n.toNat) (loWord r)).ws (2 * n.toNat + 1) (hiWord r))

/-- R116, R145, R146, R188: the conversions of VCVT, to nearest even; those into BF16, FP16, INT8, INT4 and from an integer to FP32 count under tag 0 for
the active lanes. fn 6 to 9 exist outside QT1_EXACT only. R147 to R150, R189: VCVTT converts under the tag and index base of its pair, each lane with
the tag's offset removed and with the rounding that the tag's class gives its logical index; fn 0 and 1 lane by lane, fn 2 to 7 as two MX blocks
packed from byte 0 with their scales in bytes 252 and 253. -/
def Obligations.Conversions : Prop :=
  (∀ (s : State) (t : Fin 1632) (bg : Bool), s.ready t bg → ∀ (vD vA : BitVec 5) (sB : BitVec 6) (p : BitVec 3),
     let c := s.dev.ctx t bg
     let x (k : Nat) := lane (c.rv vA.toNat) k
     let z := c.rs sB.toNat
     let act := c.rp p.toNat
     let lanes (d : Dev) (out : Nat → Conv) (word : Conv → Word) : Dev :=
       d.modCtx t bg fun y => y.lanes vD.toNat act fun k => (word (out k), (out k).flags)
     let plain (r : Conv) : Word := BitVec.ofNat 32 r.enc
     let ext (w : Nat) (r : Conv) : Word := (BitVec.ofNat w r.enc).signExtend 32
     let counted (fn : BitVec 7) (fmt : Nat) (out : Nat → Conv) (word : Conv → Word) :=
       s.effect t bg (.vcvt (lone t) vD vA sB p fn) fun d => (lanes d out word).baroTile t 0 fmt ((onesOf act).map out)
     let silent (fn : BitVec 7) (out : Nat → Conv) := s.effect t bg (.vcvt (lone t) vD vA sB p fn) fun d => lanes d out plain
     let native := bit (s.dev.preg (.tile t) 0xA0) 0 = false
     counted 0 0 (fun k => fmtBf16.conv true .rne (fp32 (x k))) plain ∧
     silent 1 (fun k => fmtFp32.conv true .rne (fmtBf16.decode ((x k).toNat % 2 ^ 16))) ∧
     counted 2 9 (fun k => convIntScaled 8 .rne (fp32 (x k)) z) (ext 8) ∧
     counted 3 2 (fun k => convScaleUp ((x k).setWidth 8).toInt z) plain ∧
     counted 4 2 (fun k => fmtFp32.conv true .rne (FVal.ofInt (x k).toInt)) plain ∧
     counted 5 9 (fun k => convIntSat 8 (x k).toInt) (ext 8) ∧
     (native → counted 6 1 (fun k => fmtFp16.conv true .rne (fp32 (x k))) plain ∧
       silent 7 (fun k => fmtFp32.conv true .rne (fmtFp16.decode ((x k).toNat % 2 ^ 16))) ∧
       counted 8 10 (fun k => convIntScaled 4 .rne (fp32 (x k)) z) (ext 4) ∧
       counted 9 2 (fun k => convScaleUp ((x k).setWidth 4).toInt z) plain)) ∧
  (∀ (s : State) (t : Fin 1632) (bg : Bool), s.ready t bg → bit (s.dev.preg (.tile t) 0xA0) 0 = false →
   ∀ (vD vA vO n : BitVec 5) (p fn : BitVec 3),
     let c := s.dev.ctx t bg
     let pair := (c.pair n.toNat).toNat
     let tag := s.dev.tag (tileCore t) (pair / 2 ^ 48 % 1024)
     let act := c.rp p.toNat
     let mode (k : Nat) := s.dev.roundingOf (tileCore t) tag (pair % 2 ^ 48 + (lane (c.rv vO.toNat) k).toNat)
     let value (k : Nat) := (fp32 (lane (c.rv vA.toNat) k)).scale (tag.offset (s.dev.tile t).layer)
     tag.cls ≠ 2 →
     (fn.toNat ≤ 1 →
       let out (k : Nat) := (if fn.toNat = 0 then fmtBf16 else fmtFp16).conv true (mode k) (value k)
       s.effect t bg (.vcvtt (lone t) vD vA vO n p fn) fun d =>
         (d.modCtx t bg fun y => y.lanes vD.toNat act fun k => (BitVec.ofNat 32 (out k).enc, (out k).flags)).baroTile t tag.num fn.toNat
           ((onesOf act).map out)) ∧
     (2 ≤ fn.toNat →
       let elem := mxOfCode (fn.toNat + 1)
       let block (b : Nat) := mxBlock elem (fun k => mode (32 * b + k))
         ((List.range 32).map fun k => if act.getLsbD (32 * b + k) then value (32 * b + k) else FVal.zero false)
       let bytes := packElems elem.bits ((block 0).2.1.map Conv.enc) ++ packElems elem.bits ((block 1).2.1.map Conv.enc) ++
         List.replicate (252 - 8 * elem.bits) 0 ++ [BitVec.ofNat 8 (block 0).1, BitVec.ofNat 8 (block 1).1, 0, 0]
       s.effect t bg (.vcvtt (lone t) vD vA vO n p fn) fun d =>
         (d.modCtx t bg fun y => (y.wv vD.toNat (mkLanes fun k => BitVec.ofNat 32 (ofBytesLE ((bytes.drop (4 * k)).take 4)))).setFp
           ((block 0).2.2 ||| (block 1).2.2)).baroTile t tag.num (fn.toNat + 1) ((block 0).2.1 ++ (block 1).2.1)))

/-- R151, R152, R201, R202: UPDX adds the update, its layer's offset removed, to the weight and rounds once; while collection runs, the sums of squares of
the active lanes join the layer's accumulators. It issues once the layer's accumulators of the step before have been read. R51, R52, R154: VWOP adds
W32 and W64 elements, saturating into SAT and keeping it, and widens W32; a W64 element lies in lanes 2k and 2k + 1 under the bit of lane 2k. Its
conversions follow R52 and count under tag 0. -/
def Obligations.UpdateAndWideLanes : Prop :=
  (∀ (s : State) (t : Fin 1632) (bg : Bool), s.ready t bg → bit (s.dev.preg (.tile t) 0xA0) 0 = false →
   ∀ (vD vA : BitVec 5) (sL : BitVec 6) (p : BitVec 3),
     let c := s.dev.ctx t bg
     let layer := (c.rs sL.toNat).toNat % 256
     let old := (s.dev.tile t).ratioOf layer
     let off := ((s.dev.tile t).layer.getD layer 0).toInt
     let act := c.rp p.toNat
     let w (k : Nat) := lane (c.rv vD.toNat) k
     let u (k : Nat) := lane (c.rv vA.toNat) k
     let update (y : Ctx) : Ctx := y.lanes vD.toNat act fun k =>
       fp32Arith ((fp32 (w k)).add ((fp32 (u k)).scale (-off))) [fp32 (w k), fp32 (u k)]
     s.met t bg [.ratio layer] →
     (s.dev.baroOn (tileCore t) = false → s.computes t bg (.updx (lone t) vD vA sL p 0) update) ∧
     (s.dev.baroOn (tileCore t) = true →
       let term (f : Nat → Word) := (reduceTree fp32Add 6 ((List.range 64).map fun k => if act.getLsbD k then f k else 0x80000000#32)).1
       let scaled (k : Nat) := (fp32Arith ((fp32 (u k)).scale (-off)) [fp32 (u k)]).1
       let new : Ratio := { old with u2 := (fp32Add old.u2 (term fun k => (fp32Mul (scaled k) (scaled k)).1)).1,
                                     w2 := (fp32Add old.w2 (term fun k => (fp32Mul (w k) (w k)).1)).1,
                                     count := old.count + BitVec.ofNat 32 (popCount act) }
       let terms (k : Nat) := if act.getLsbD k then updxTerms (w k) (u k) off else ((0x80000000#32, 0), (0x80000000#32, 0))
       let su := reduceTree fp32Add 6 ((List.range 64).map fun k => (terms k).1.1)
       let sw := reduceTree fp32Add 6 ((List.range 64).map fun k => (terms k).2.1)
       let flags := orFlags ((List.range 64).map fun k => (terms k).1.2 ||| (terms k).2.2) ||| su.2 ||| sw.2 |||
         (fp32Add old.u2 su.1).2 ||| (fp32Add old.w2 sw.1).2
       s.leaves t (.updx (lone t) vD vA sL p 0)
         ((({ s.dev.tile t with ratio := (s.dev.tile t).ratio.set layer new } : Tile).mod bg fun y => (update y).setFp flags).goto bg
           (c.pc + 1)) s.dev)) ∧
  (∀ (s : State) (t : Fin 1632) (bg : Bool), s.ready t bg → bit (s.dev.preg (.tile t) 0xA0) 0 = false →
   ∀ (vD vA : BitVec 5) (sB : BitVec 6) (p : BitVec 3),
     let c := s.dev.ctx t bg
     let act := c.rp p.toNat
     let d32 (k : Nat) := lane (c.rv vD.toNat) k
     let a32 (k : Nat) := lane (c.rv vA.toNat) k
     let d64 (k : Nat) := joinWords (d32 (2 * k + 1)) (d32 (2 * k))
     let a64 (k : Nat) := joinWords (a32 (2 * k + 1)) (a32 (2 * k))
     let sigma := (c.rs sB.toNat).toInt
     let pairs := (List.range 32).filter fun k => act.getLsbD (2 * k)
     let wide (w : Nat) (a b : BitVec w) : BitVec w × BitVec 5 :=
       let top := BitVec.ofNat w (2 ^ (w - 1))
       let sum := a.toInt + b.toInt
       if a = top ∨ b = top then (top, 0) else
       if sum ≤ -(2 ^ (w - 1) : Int) ∨ (2 ^ (w - 1) : Int) ≤ sum then (top, 16#5) else (BitVec.ofInt w sum, 0)
     let all (f : Nat → Word × BitVec 5) (y : Ctx) : Ctx := y.lanes vD.toNat (BitVec.allOnes 64) f
     let half (f : Nat → DWord × BitVec 5) : Nat → Word × BitVec 5 := fun k =>
       if act.getLsbD (k / 2 * 2) then (if k % 2 = 0 then loWord (f (k / 2)).1 else hiWord (f (k / 2)).1, (f (k / 2)).2) else (d32 k, 0)
     let low (f : Nat → Conv) : Nat → Word × BitVec 5 := fun k =>
       if k < 32 then if act.getLsbD (2 * k) then (BitVec.ofNat 32 (f k).enc, (f k).flags) else (d32 k, 0)
       else if act.getLsbD k then (0, 0) else (d32 k, 0)
     let op (fn : BitVec 7) := Instr.vwop (lone t) vD vA sB p fn
     s.computes t bg (op 0) (fun y => y.lanes vD.toNat act fun k => wide 32 (d32 k) (a32 k)) ∧
     s.computes t bg (op 1) (all (half fun k => wide 64 (d64 k) (a64 k))) ∧
     s.effect t bg (op 2) (fun d => (d.modCtx t bg fun y => y.lanes vD.toNat act fun k =>
       (BitVec.ofNat 32 (convToW 32 .rne (fp32 (a32 k)) sigma).enc, (convToW 32 .rne (fp32 (a32 k)) sigma).flags)).baroTile t 0 11
         ((onesOf act).map fun k => convToW 32 .rne (fp32 (a32 k)) sigma)) ∧
     s.effect t bg (op 3) (fun d => (d.modCtx t bg fun y => y.lanes vD.toNat act fun k =>
       (BitVec.ofNat 32 (convFromW (a32 k) sigma).enc, (convFromW (a32 k) sigma).flags)).baroTile t 0 2
         ((onesOf act).map fun k => convFromW (a32 k) sigma)) ∧
     s.effect t bg (op 4) (fun d => (d.modCtx t bg (all (half fun k =>
       (BitVec.ofNat 64 (convToW 64 .rne (fp32 (a32 k)) sigma).enc, (convToW 64 .rne (fp32 (a32 k)) sigma).flags)))).baroTile t 0 12
         (pairs.map fun k => convToW 64 .rne (fp32 (a32 k)) sigma)) ∧
     s.effect t bg (op 5) (fun d => (d.modCtx t bg (all (low fun k => convFromW (a64 k) sigma))).baroTile t 0 2
       (pairs.map fun k => convFromW (a64 k) sigma)) ∧
     s.computes t bg (op 6) (all (half fun k =>
       (if a32 k = 0x80000000#32 then BitVec.ofNat 64 (2 ^ 63) else (a32 k).signExtend 64, 0))) ∧
     s.effect t bg (op 7) (fun d => (d.modCtx t bg (all (low fun k => convW64to32 (a64 k)))).baroTile t 0 11
       (pairs.map fun k => convW64to32 (a64 k))))

/-! ### M slot -/

/-- R128, R129, R167: MZERO and MOPEN open a group for their context: every item of it zero, PANEL_K 64 or the panel named; in QT1_EXACT, MZERO leaves the
items of the native mode. MSAT and MSATC read its saturation bit and count. R123, R146, R169: MST writes 32 rows of 64 elements from its address, row
by row at the pitch, in the format named, when the write port takes them; its FPSTAT bits are those of the rounding that folds an open panel and of
the conversions, and formats 1, 3 and 4 count under tag 0. -/
def Obligations.GroupOpenAndStore : Prop :=
  (∀ (s : State) (t : Fin 1632) (bg : Bool), s.ready t bg → ∀ (g panel : BitVec 2) (type : BitVec 1) (sD : BitVec 6),
     let x := s.dev.tile t
     let gr := x.groups.getD g.toNat Group.reset
     let exact := bit (s.dev.preg (.tile t) 0xA0) 0
     let opens (i : Instr) (new : Group) := s.leaves t i
       (Tile.goto { x with groups := x.groups.set g.toNat new } bg ((s.dev.ctx t bg).pc + 1)) s.dev
     let fresh (panel : Nat) : Group :=
       { gr with isOpen := true, bg := bg, int32 := type = 1, f := ⟨[]⟩, p := ⟨[]⟩, kpos := 0, panel := panel, sat := false, satCnt := 0 }
     ((gr.isOpen = false ∨ gr.bg = bg) →
       (exact = false → opens (.mzero (lone t) g type 0) (fresh 0) ∧ opens (.mopen (lone t) g type panel 0) (fresh panel.toNat)) ∧
       (exact = true → g.toNat < 2 → opens (.mzero (lone t) g type 0)
         { gr with isOpen := true, bg := bg, int32 := type = 1, f := ⟨[]⟩, sat := false, satCnt := 0 })) ∧
     (gr.isOpen = true → gr.bg = bg → (exact = true → g.toNat < 2) →
       s.computes t bg (.msat (lone t) g sD 0) (fun y => y.ws sD.toNat (if gr.sat then 1 else 0)) ∧
       s.computes t bg (.msatc (lone t) g sD 0) fun y => y.ws sD.toNat gr.satCnt)) ∧
  (∀ (s : State) (t : Fin 1632) (bg : Bool), s.ready t bg → ∀ (g : BitVec 2) (aD : BitVec 4) (sP sS : BitVec 6),
     let c := s.dev.ctx t bg
     let x := s.dev.tile t
     let gr := x.groups.getD g.toNat Group.reset
     let exact := bit (s.dev.preg (.tile t) 0xA0) 0
     let cell (r j : Nat) := gr.f.getD (64 * r + j) 0
     let value (r j : Nat) : Word := if exact ∨ gr.kpos.toNat % gr.panelK = 0 then cell r j
       else accRound (cell r j) (fp32 (gr.p.getD (64 * r + j) 0))
     let bits (r j : Nat) : BitVec 5 := if exact ∨ gr.kpos.toNat % gr.panelK = 0 then 0
       else (accStep (cell r j) (fp32 (gr.p.getD (64 * r + j) 0)) [fp32 (gr.p.getD (64 * r + j) 0)]).2
     let plain (w : Word) (f : BitVec 5) : Conv := { enc := w.toNat, flags := f, cls := .plain }
     let row (n r : Nat) := ((c.ra aD.toNat).toNat / n * n + r * ((c.rs sP.toNat).toNat / 4 % 2 ^ 18 * 4)) % 2 ^ 32
     let stores (fmt : BitVec 3) (int32 : Bool) (n : Nat) (count : Dev → List Conv → Dev) (out : Nat → Nat → Conv) :=
       let port := [Need.port ((List.range 32).flatMap fun r => linesOf (row n r) (64 * n)) false]
       gr.int32 = int32 → (∀ r, r < 32 → row n r + 64 * n ≤ 0x48000) → s.met t bg port →
       let outs := (List.range 32).flatMap fun r => (List.range 64).map fun j => out r j
       s.effect t bg (.mst (lone t) g aD sP sS fmt 0) fun d =>
         let written := (d.drew t port).modTile t fun y => (List.range 32).foldl (fun z r =>
           z.store (row n r) ((List.range 64).flatMap fun j => bytesLE n (out r j).enc)) y
         count (written.modCtx t bg fun y => y.setFp (orFlags (outs.map fun o => o.flags))) outs
     gr.isOpen = true → gr.bg = bg → (exact = true → g.toNat < 2) →
     stores 0 false 4 (fun d _ => d) (fun r j => plain (value r j) (bits r j)) ∧
     stores 1 false 2 (fun d l => d.baroTile t 0 0 l) (fun r j =>
       { fmtBf16.conv true .rne (fp32 (value r j)) with flags := bits r j ||| (fmtBf16.conv true .rne (fp32 (value r j))).flags }) ∧
     stores 2 true 4 (fun d _ => d) (fun r j => plain (cell r j) 0) ∧
     stores 3 true 4 (fun d l => d.baroTile t 0 2 l) (fun r j => convScaleUp (cell r j).toInt (c.rs sS.toNat)) ∧
     stores 4 true 1 (fun d l => d.baroTile t 0 9 l) fun r j => convIntSat 8 (cell r j).toInt)

/-- R120 to R122, R130 to R136, R168, R172, R177, R178: what an accumulation leaves in each cell of its group. A floating group takes its products in
ascending k through the panel (F and P, with PANEL_K), in QT1_EXACT in blocks of four; an INT32 group takes them by saturating adds, sets sat and
counts the saturations. kpos advances by K, for MX operands by K rounded up to blocks of 32. The FPSTAT bits are those of the steps. The operands are
read as the bytes that a load observes, with their lines flushed; it issues under the core's power grant (R609). R120, R133: where a plain element of
a matrix operand lies: element (r, k) of an operand of n rows is number n k + r, in order from the operand's address, a nibble in the low half of its
byte first. -/
def Obligations.Accumulation : Prop :=
  (∀ (s : State) (t : Fin 1632) (bg : Bool), s.ready t bg → ∀ (g : BitVec 2) (aA aB : BitVec 4) (sK : BitVec 6) (fa fb : BitVec 4),
     let c := s.dev.ctx t bg
     let x := s.dev.tile t
     let gr := x.groups.getD g.toNat Group.reset
     let exact := bit (s.dev.preg (.tile t) 0xA0) 0
     let operand (code rows : Nat) (r : BitVec 4) : MatOperand :=
       { code := code, rows := rows, addr := (c.ra r.toNat).toNat / 4 * 4, k := (c.rs sK.toNat).toNat % 2 ^ 16 }
     let accumulates (i : Instr) (fa fb : Nat) :=
       let a := operand fa 32 aA
       let b := operand fb 64 aB
       let old (n : Nat) := gr.f.getD n 0
       let pair (n k : Nat) := (a.value x.byte (n / 64) k, b.value x.byte (n % 64) k)
       let iprod (n k : Nat) := a.int x.byte (n / 64) k * b.int x.byte (n % 64) k
       gr.isOpen = true → gr.bg = bg → gr.int32 = decide (9 ≤ fa) → s.met t bg [.grant] →
       a.addr + a.span ≤ 0x50000 → b.addr + b.span ≤ 0x50000 →
       ∃ (new : Group) (flags : BitVec 5), s.leaves t i ((Tile.mod { (x.flushSpan a.addr a.span).flushSpan b.addr b.span with
           groups := x.groups.set g.toNat new } bg fun y => y.setFp flags).goto bg (c.pc + 1)) s.dev ∧
         new.isOpen = true ∧ new.bg = bg ∧ new.int32 = gr.int32 ∧ new.panel = gr.panel ∧ new.kpos = gr.kpos + BitVec.ofNat 32 a.kp ∧
         (a.kp = 0 → new = gr ∧ flags = 0) ∧
         (0 < a.kp → 9 ≤ fa →
           let saturated := ((List.range 2048).map fun n => (intCell a.kp (iprod n) (old n)).2).sum
           (∀ n, n < 2048 → new.f.getD n 0 = (intCell a.kp (iprod n) (old n)).1) ∧ new.p = gr.p ∧ flags = 0 ∧
           new.satCnt = satAdd gr.satCnt saturated ∧ (new.sat = true ↔ gr.sat = true ∨ 0 < saturated)) ∧
         (0 < a.kp → fa < 9 → new.sat = gr.sat ∧ new.satCnt = gr.satCnt) ∧
         (0 < a.kp → fa < 9 → exact = true →
           (∀ n, n < 2048 → new.f.getD n 0 = (blockCell a.kp (pair n) (old n)).1) ∧ new.p = gr.p ∧
           flags = orFlags ((List.range 2048).map fun n => (blockCell a.kp (pair n) (old n)).2)) ∧
         (0 < a.kp → fa < 9 → exact = false →
           let cell (n : Nat) := panelCell gr.panelK gr.kpos.toNat a.kp (pair n) (old n) (gr.p.getD n 0)
           (∀ n, n < 2048 → (new.f.getD n 0, new.p.getD n 0) = (cell n).1) ∧ flags = orFlags ((List.range 2048).map fun n => (cell n).2))
     ((exact = true → g.toNat < 2) → accumulates (.mmaBf16 (lone t) g aA aB sK 0) 0 0 ∧ accumulates (.mmaI8 (lone t) g aA aB sK 0) 9 9) ∧
     (exact = false → legalPair fa.toNat fb.toNat = true →
       accumulates (.mmaf (lone t) g aA aB sK fa fb 0) fa.toNat fb.toNat)) ∧
  (∀ (o : MatOperand) (mem : Nat → Byte) (r k : Nat),
     let n := o.rows * k + r
     (o.code = 0 ∨ o.code = 1 → o.raw mem r k = (mem (o.addr + 2 * n)).toNat + 256 * (mem (o.addr + 2 * n + 1)).toNat) ∧
     (o.code = 2 → o.raw mem r k = ofBytesLE ((List.range 4).map fun i => mem (o.addr + 4 * n + i))) ∧
     (o.code = 9 → o.int mem r k = (mem (o.addr + n)).toInt) ∧
     (o.code = 10 → o.raw mem r k = (mem (o.addr + n / 2)).toNat / 16 ^ (n % 2) % 16))

/-- R137 to R143, R181, R188, R223: MCLOSE of an open group of its own context, with a legal descriptor whose spans lie in their regions, when the write
port takes it: it reads its 32-byte descriptor, writes its rows in ascending order (and their scale bytes), each formed after reading its epilogue
from what the rows before have left, adds their FPSTAT bits (and sat for an INT32 group that saturated and is not kept), counts its conversions under
the descriptor's tag, and closes the group unless the descriptor keeps it. The elements of a row: G, or an INT32 cell times sS, with the epilogue
added or multiplied, each rounded once; as FP32 unchanged, as BF16, FP16 or a scaled INT8 or INT4 under the tag's rounding and offset; an INT32 cell
as it is, or saturated into INT8 or INT4. -/
def Obligations.GroupClose : Prop :=
  ∀ (s : State) (t : Fin 1632) (bg : Bool), s.ready t bg → bit (s.dev.preg (.tile t) 0xA0) 0 = false →
  ∀ (g : BitVec 2) (aC : BitVec 4) (sS : BitVec 6),
    let c := s.dev.ctx t bg
    let x := s.dev.tile t
    let gr := x.groups.getD g.toNat Group.reset
    let at_ := (c.ra aC.toNat).toNat / 32 * 32
    let desc := closeDesc (x.readBytes at_ 32)
    let tag := s.dev.tag (tileCore t) desc.tag
    let sv := c.rs sS.toNat
    let off := if 1 ≤ desc.ofmt ∧ desc.ofmt ≤ 10 then tag.offset x.layer else 0
    let out (y : Tile) (r : Nat) := closeRow gr desc sv off (fun j => s.dev.roundingOf (tileCore t) tag (desc.index + r * desc.stride + j))
      (if desc.epi = 0 then [] else y.readBytes (desc.epiRow r) desc.epiBytes) r
    let writes (y : Tile) (r : Nat) := (desc.row r, (out y r).bytes) ::
      if (out y r).scales = [] then [] else [(desc.scale + 2 * r, (out y r).scales)]
    let store (y : Tile) (l : List (Nat × List Byte)) := l.foldl (fun z w => z.store w.1 w.2) y
    let before (r : Nat) := (List.range r).foldl (fun y i => store y (writes y i)) x
    let rows := (List.range 32).map fun r => out (before r) r
    let convs := rows.flatMap CloseRow.convs
    let port := [Need.port (((List.range 32).flatMap fun r => linesOf (desc.row r) (8 * ofmtBits desc.ofmt)) ++
      if isMxCode desc.ofmt then linesOf desc.scale 64 else []) false]
    (gr.isOpen = true → gr.bg = bg → at_ + 32 ≤ 0x50000 → desc.illegal true gr.int32 tag = false → desc.bad = none → s.met t bg port →
    s.effect t bg (.mclose (lone t) g aC sS 0) fun d =>
      let written := (d.drew t port).modTile t fun y =>
        store (desc.flushEpi (y.flushSpan at_ 32)) ((List.range 32).flatMap fun r => writes (before r) r)
      let flagged := written.modCtx t bg fun y =>
        y.setFp (orFlags (rows.map CloseRow.flags) ||| (if desc.keep = false ∧ gr.int32 = true ∧ gr.sat = true then 16#5 else 0))
      let counted := if convs = [] then flagged else flagged.baroTile t tag.num (ofmtBaro desc.ofmt) convs
      if desc.keep then counted
      else counted.modTile t fun y => { y with groups := y.groups.modify g.toNat Group.reset fun z => { z with isOpen := false } }) ∧
    ∀ (k : CloseDesc) (off : Int) (mode : Nat → Rounding) (epi : List Byte) (r : Nat),
      let cell (j : Nat) := gr.f.getD (64 * r + j) 0
      let g (j : Nat) := if gr.kpos.toNat % gr.panelK = 0 then cell j else accRound (cell j) (fp32 (gr.p.getD (64 * r + j) 0))
      let v (j : Nat) : Word := if gr.int32 then BitVec.ofNat 32 (convScaleUp (cell j).toInt sv).enc else g j
      let e (j : Nat) : Word := if k.bf16 then BitVec.ofNat 32 (ofBytesLE ((epi.drop (2 * j)).take 2)) <<< 16
        else BitVec.ofNat 32 (ofBytesLE ((epi.drop (4 * j)).take 4))
      let value (j : Nat) := if k.epi = 1 then (fp32Add (v j) (e j)).1 else if k.epi = 2 then (fp32Mul (v j) (e j)).1 else v j
      let y (j : Nat) := (fp32 (value j)).scale off
      let gives (f : Nat → Conv) (bits : Nat) := (closeRow gr k sv off mode epi r).bytes = packElems bits ((List.range 64).map fun j => (f j).enc) ∧
        (closeRow gr k sv off mode epi r).convs = (List.range 64).map f
      (k.ofmt = 0 → (closeRow gr k sv off mode epi r).bytes = (List.range 64).flatMap fun j => bytesLE 4 (value j).toNat) ∧
      (k.ofmt = 11 → (closeRow gr k sv off mode epi r).bytes = (List.range 64).flatMap fun j => bytesLE 4 (cell j).toNat) ∧
      (k.ofmt = 1 → gives (fun j => fmtBf16.conv true (mode j) (y j)) 16) ∧ (k.ofmt = 2 → gives (fun j => fmtFp16.conv true (mode j) (y j)) 16) ∧
      (gr.int32 = false → (k.ofmt = 9 → gives (fun j => convIntScaled 8 (mode j) (y j) sv) 8) ∧
        (k.ofmt = 10 → gives (fun j => convIntScaled 4 (mode j) (y j) sv) 4)) ∧
      (gr.int32 = true → off = 0 → (k.ofmt = 9 → (closeRow gr k sv off mode epi r).bytes =
          (List.range 64).map fun j => BitVec.ofInt 8 (max (-128) (min 127 (cell j).toInt))) ∧
        (k.ofmt = 10 → (closeRow gr k sv off mode epi r).bytes =
          packElems 4 ((List.range 64).map fun j => (BitVec.ofInt 4 (max (-8) (min 7 (cell j).toInt))).toNat)))

/-! ### Bundles -/

/-- R62: a slot's command with more slots to follow joins the bundle of its tile and does nothing else (how a bundle is brought to the tile is the model's
choice, log entry 7). R63, R64, R91: the slots of a bundle read before any of them writes, and two that write one register make it ILLEGAL_BUNDLE,
with the mask of both; s0 does not count. An ADDI beside an LDW from scratchpad; an AADDI beside an LDW through the address register that it writes,
which reads at the address before; an ADDI beside an STW of the register that it writes, which stores the word before. -/
def Obligations.BundleIssue : Prop :=
  (∀ (s : State) (i : Instr) (a : At), i.at? = some a → a.more = true →
     exec i s = .next { s with dev := s.dev.modTile a.tile fun x => { x with slots := x.slots ++ [i] } }) ∧
  (∀ (s : State) (t : Fin 1632) (bg : Bool) (a : At) (sD sA sL : BitVec 6) (aB : BitVec 4) (imm : BitVec 14) (off : BitVec 15),
     (s.dev.tile t).slots = [.addi a sD sA imm] → (s.on fun d => d.modTile t fun x => { x with slots := [] }).ready t bg →
     let c := s.dev.ctx t bg
     let x : Tile := { s.dev.tile t with slots := [] }
     let sum := c.rs sA.toNat + BitVec.ofInt 32 imm.toInt
     let addr := (c.ra aB.toNat + BitVec.ofInt 32 off.toInt).toNat / 4 * 4
     (sL = sD → sD ≠ 0 → s.traps t bg (.ldw (lone t) sL aB false off) 2 9) ∧
     (sL ≠ sD ∨ sD = 0 → addr + 4 ≤ 0x50000 → s.leaves t (.ldw (lone t) sL aB false off)
       (((x.flushSpan addr 4).mod bg fun y =>
         (y.ws sD.toNat sum).ws sL.toNat (BitVec.ofNat 32 (ofBytesLE (x.readBytes addr 4)))).goto bg (c.pc + 1)) s.dev) ∧
     (let port := [Need.port [addr / 64] false]
      addr + 4 ≤ 0x48000 → s.met t bg port → s.leaves t (.stw (lone t) sD aB false off)
        ((((x.store addr (bytesLE 4 (c.rs sD.toNat).toNat)).mod bg fun y => y.ws sD.toNat sum).goto bg (c.pc + 1))) (s.dev.drew t port)) ∧
     ∀ (u : State) (aA : BitVec 4) (step : BitVec 18), u = (s.on fun d => d.modTile t fun y => { y with slots := [.aaddi a aB aA step] }) →
       addr + 4 ≤ 0x50000 → u.leaves t (.ldw (lone t) sL aB false off)
         (((x.flushSpan addr 4).mod bg fun y =>
           (y.wa aB.toNat (c.ra aA.toNat + step.signExtend 32)).ws sL.toNat (BitVec.ofNat 32 (ofBytesLE (x.readBytes addr 4)))).goto bg (c.pc + 1)) u.dev)

/-- R74, R78: whatever its slots are, a bundle at or beyond IMEM_LIMIT takes FETCH_BOUNDS with its PC (no breakpoint being enabled). -/
def Obligations.FetchBounds : Prop :=
  ∀ (s : State) (t : Fin 1632) (bg : Bool) (i : Instr), i.at? = some (lone t) → s.dev.tileLive t = true →
    (s.dev.tile t).sel = some bg → (s.dev.tile t).switching = 0 → (s.dev.ctx t bg).halting = none →
    (∀ n < 4, bit (s.dev.brkCtrl t n) 0 = false) →
    fld (s.dev.preg (.tile t) 0x98) 0 11 ≤ (s.dev.ctx t bg).pc →
    s.traps t bg i 3 (BitVec.ofNat 32 (s.dev.ctx t bg).pc)

/-! ### Tiles, pools and multicast -/

/-- R59, R223, R262: what happens at a tile without an instruction. An entry of the buffer that has been idle flushes. The sequencer goes over to a
foreground that can issue where fg_preempt is 1, or, where switch_mode is 1, from a context that has stalled for stall_thresh cycles to the other
where that one can issue. The switch takes four cycles and is counted while the counters run. A ring instruction that has waited STR_STALL_LIMIT
cycles on end, at least 256, makes its context trap. -/
def Obligations.TileEvents : Prop :=
  ∀ (s : State) (t : Fin 1632), s.dev.coreUp = true →
    let d := s.dev
    let x := d.tile t
    let ctrl := d.preg (.tile t) 0x88
    let may (bg : Bool) : Prop :=
      (x.ctx bg).run = true ∧ (x.ctx bg).halting = none ∧ ∀ n ∈ (x.ctx bg).waits, d.lacks t bg n = false
    let switched (bg : Bool) : Dev :=
      let e := d.setTile t
        { x with sel := some bg, switching := 4, fg := { x.fg with stall := 0, ringWait := 0 },
                 bg := { x.bg with stall := 0, ringWait := 0 } }
      if d.counting t then e.bumpAlways (.tile t) 0x150 1 else e
    (∀ (n : Fin 4) (e : WcbEntry), x.wcb[n.val]? = some e →
      s.makes (.wcbIdleFlush t n) (d.setTile t { x with spad := flushEntry x.spad e, wcb := x.wcb.eraseIdx n })) ∧
    (d.tileLive t = true → x.sel = some true → x.switching = 0 → may false → bit ctrl 8 = true →
      s.makes (.preemptSwitch t) (switched false)) ∧
    (∀ bg : Bool, d.tileLive t = true → x.sel = some bg → x.switching = 0 → bit ctrl 9 = true → may (!bg) →
      max 1 (fld ctrl 16 8) ≤ (x.ctx bg).stall → s.makes (.stallSwitch t) (switched (!bg))) ∧
    ∀ (bg out : Bool) (rp : Fin 8), x.slots = [] → x.sel = some bg → (x.ctx bg).run = true →
      Need.ring rp out ∈ (x.ctx bg).waits → max 256 (d.preg (.stream (tileCore t)) 0x80).toNat ≤ (x.ctx bg).ringWait →
      let stage := if (d.port t rp).bound then (d.port t rp).stage else 0x3FF
      s.traps t bg (.streamUnderrun t rp out) 9 (packFields 32 [(0, rp), (3, b2n out), (4, stage)])

/-- R75, R79, R81 to R84: CTX_CTRL starts a halted foreground whose TRAP record is not valid, and selects it where no context is selected; it halts a
running one, whose tile's buffered stores flush. CNT_CTRL clears the eleven counters. A read of a counter's low word latches its high word for the
path, and the next read of the high word takes the latched one. -/
def Obligations.TileRegisters : Prop :=
  ∀ (s : State) (t : Fin 1632) (w : Word), s.dev.pageAnswers (.tile t) = true →
    let d := s.dev
    let x := d.tile t
    let free := { d with heldLo := d.heldLo.erase 0 }
    let set := free.setPreg (.tile t) 0x88 (w &&& 0x00FF0300#32)
    (d.isSpare t = false → d.pageFenced (.tile t) = false →
      let started : Ctx := { x.fg with run := true, stall := 0, ringWait := 0, waits := [] }
      (bit w 0 = true → x.fg.run = false → bit x.fg.trap 31 = false →
        (x.sel = none → bit w 1 = false → x.bg.run = false →
          s.makes (.ctxRunWrite t w) (set.setTile t { x with fg := started, sel := some false })) ∧
        (x.sel = some true → bit w 1 = true → x.bg.run = true →
          s.makes (.ctxRunWrite t w) (set.setTile t { x with fg := started }))) ∧
      (bit w 0 = true → x.fg.run = false → bit x.fg.trap 31 = true → x.sel = none → bit w 1 = false → x.bg.run = false →
        s.makes (.ctxRunWrite t w) set) ∧
      (bit w 0 = false → x.fg.run = true → x.sel = some false → bit w 1 = false → x.bg.run = false →
        s.makes (.ctxRunWrite t w) (set.setTile t ({ x with
          fg := { x.fg with run := false, stall := 0, ringWait := 0, waits := [], halting := none, pend := x.fg.pend.filter (d.stillComes t false) },
          sel := none, switching := 0 }).flushAll))) ∧
    (∃ e : Dev, s.makes (.cntClear .bar0 t w) e ∧ e = { d with heldLo := d.heldLo.erase 0, regs := e.regs, ctrs := e.ctrs } ∧
      e.preg (.tile t) 0xFC = w &&& 1#32 ∧
      ∀ k, k < 11 → e.ctr (.tile t) (0x100 + 8 * k) = if bit w 1 then 0 else d.ctr (.tile t) (0x100 + 8 * k)) ∧
    ∀ k, k < 11 →
      let off := (Page.tile t).base + 0x100 + 8 * k
      let v := d.ctr (.tile t) (0x100 + 8 * k)
      let read (o : Nat) := Instr.counterLatchRead .bar0 { off := BitVec.ofNat 28 o, size := 4 }
      let told (e : Dev) (r : Word) : Dev := { e with sent := e.sent ++ [.readData (wordBytes r)] }
      s.makes (read off) (told { d with latch := d.latch.set (latchKey .bar0 off) (hiWord v) } (loWord v)) ∧
      (d.latch.get? (latchKey .bar0 off) = none → s.makes (read (off + 4)) (told d (hiWord v))) ∧
      ∀ l, d.latch.get? (latchKey .bar0 off) = some l →
        s.makes (read (off + 4)) (told { d with latch := d.latch.erase (latchKey .bar0 off) } l)

/-- R227, R228, R231, R233, R234, R237: what arrives at a tile. A closing pool window serves its reader from one read of the line, after which the writes
held behind it follow. An exchange write of a tile inside the landing window is stored and counted on its landing counter; one outside it is an error
for its sender. A management write of general bytes, of a bundle or of a layer byte is stored by a halted tile, at whose ingresses nothing waits; one
of a queue entry's word leaves its reserved bits 0 (R281); a running tile discards it, which is counted and raised. -/
def Obligations.TileArrivals : Prop :=
  ∀ (s : State) (t : Fin 1632),
    let d := s.dev
    let x := d.tile t
    (d.coreUp = true → ∀ (c : Fin 8) (line : BitVec 18) (bg : Bool) (n : Nat) (l : PoolLoad) (ws : List PoolWrite),
      d.poolOps.cells = [(poolKey c line.toNat, .window [(t.val, bg, .s n)] :: ws.map .write)] →
      (ws.Pairwise fun w w' => w.seq < w'.seq) → (∀ w ∈ ws, w.back = .none) →
      (x.ctx bg).halting = none → (x.ctx bg).loads = [l] → l.dest = .s n → l.lines = [line.toNat] → 64 * line.toNat ≤ l.addr →
      l.addr + l.shape.size ≤ 64 * line.toNat + 64 →
      ∃ e, s.makes (.poolWindowClose c line) e ∧
        e = { d with tiles := e.tiles, pool := e.pool, poolOps := e.poolOps, ctrs := e.ctrs, draws := e.draws, noc := e.noc } ∧
        e.tile t = x.setCtx bg ({ ((x.ctx bg).ws n (extend l.shape ((d.poolMem c).readBytes l.addr l.shape.size))) with
          loads := [], pend := (x.ctx bg).pend.erase (.s n) }) ∧
        e.poolOps.cells = [] ∧ e.poolMem c = ws.foldl (fun m w => m.writeBytes w.addr w.bytes) (d.poolMem c)) ∧
    (d.coreUp = true → ∀ (i : Nat) (p : PutItem) (rest : List PutItem),
      takeAfter PutItem.before d.puts i = some (p, rest) → (∀ f ∈ d.msgs, d.samePath p f = true → p.seq ≤ f.seq) →
      p.glob = none → p.spot = some (.spad t p.addr) → p.status = 0 →
      d.isFenced (.tile t) = false → d.isFenced (.core (tileCore t)) = false → p.addr + p.bytes.length ≤ 0x48000 →
      let e := { d with puts := rest }
      let written := x.spad.writeBytes p.addr p.bytes
      (x.inWindow p.addr p.bytes.length = true → p.lc = none → s.makes (.putArrival i) (e.setTile t { x with spad := written })) ∧
      (x.inWindow p.addr p.bytes.length = true → ∀ lc, lc < 64 → p.lc = some lc → x.lwatch.get? lc = none →
        let count := x.lc lc + BitVec.ofNat 32 (if x.lcBytes lc then p.bytes.length else 1)
        s.makes (.putArrival i) (e.setTile t { x with spad := written.setWord (lcAddr lc) count })) ∧
      (x.inWindow p.addr p.bytes.length = false → s.makes (.putArrival i) (e.remoteError (.put p.src p.bg) 2
        (if p.lc.isSome then typeWrl else typeWr) d.position (d.spadAddr t p.addr)))) ∧
    (d.mc.stage.full = true → d.coreEnabled (tileCore t) = true → (∀ cls, d.ingress.get? (ingressKey t cls) = none) →
      ∀ data : List Byte,
      let e := d.injectBulk (edgeCore 0) 3
      (x.fg.run = false → x.bg.run = false →
        (∀ a : Fin 0x50000, (a.val + data.length ≤ 0x48000 ∨ (0x48100 ≤ a.val ∧ a.val + data.length ≤ 0x4FC00)) →
          s.makes (.mcastWrite [t] (.spad a) data) (e.setTile t { x with spad := x.spad.writeBytes a data })) ∧
        (∀ q < 16, data.length = 4 → ∀ k : Fin 4, ∀ a : Fin 0x50000, a.val = 0x48000 + 16 * q + 4 * k →
          let kept := BitVec.ofNat 32 (ofBytesLE data) &&& ([0x0007FFC0, 0x00007FFF, 0x3FFF3FFF, 0xFFFFFFFF] : List Word).getD k 0
          s.makes (.mcastWrite [t] (.spad a) data) (e.setTile t { x with spad := x.spad.setWord a kept })) ∧
        (∀ i, s.makes (.mcastWrite [t] (.imem i) data)
          (e.setTile t { x with imem := x.imem.set i (BitVec.ofNat 128 (ofBytesLE (data.take 16))) })) ∧
        ∀ i, s.makes (.mcastWrite [t] (.layer i) data) (e.setTile t { x with layer := x.layer.set i (data.getD 0 0) })) ∧
      (x.fg.run = true ∨ x.bg.run = true → ∀ dest, s.makes (.mcastWrite [t] dest data)
        ((e.bump (.pool (tileCore t)) 0xA0 1).raise (.pool (tileCore t)) 2)))

/-! ### Streams -/

/-- R264 to R267, R276: a grant takes the driest of the eligible stages, here the one running stage of its core, a copy from the core's pool to its pool.
The segment is at most 1 KiB, ends at a 1 KiB boundary and at the end of its MOVE; it is counted, and the stage's next segment follows it; it does not
enter the mesh (R714). A stage that has no eligible segment gets none. R253, R268, R270, R274 to R276: the data of a segment reach their destination,
here a copy from a core's pool to its pool whose segment is a whole MOVE and no pool line is held; the MOVE is counted in the progress. A pool line
that cannot be corrected raises the pool's error and the segment is lost with code 34: it writes nothing, and its stage, with no other segment or
producer, is ABORTED with that code and gone, unless the error resets the package. A stage that has issued and written everything is DONE: it keeps
its retention entry where it asks for one and adds done_val to done_obj. STR_RET_CLEAR drops the core's retention entries. -/
def Obligations.StreamSegments : Prop :=
  (∀ (s : State) (c : Fin 8) (k : Nat) (r : StageRun) (p : Prog),
     let d := s.dev
     let ds := d.desc c k
     let a := addBase 1 (ds.a0 p r.iter) r.off
     let len := min (min 1024 (p.len - r.off)) (1024 - a % 1024)
     let whole : Bool := r.off + len = p.len
     let seg : Segment := { id := d.segId, core := c, ctx := k, iter := r.iter, off := r.off, len := len, src := some a,
                            x := ds.x p r.iter, redirected := false, spot := none, wtids := [], mesh := false, phase := .reading }
     let next : StageRun := { r with iter := if whole then r.iter + 1 else r.iter, off := if whole then 0 else r.off + len, age := 0 }
     let aged : Bool := max 1 (fld (d.preg (.stream c) 0x84) 0 16) ≤ r.age
     d.coreUp = true → d.isFenced (.core c) = false → d.runningCtxs c = [k] → d.stageRun c k = some r → parseProg r.prog = some p →
     r.ending = none → ds.srcKind = 1 → ds.dstKind = 1 → ds.gate = false → ds.res = 0 → p.gath = none → p.pad = none →
     (r.iter < p.total → d.regionOk c ds.regions false true a len = true →
       aged = false →
       s.makes (.segmentGrant c)
         ((({ d with segs := d.segs ++ [seg], segId := d.segId + 1 }).bump (.stream c) 0x90 1).setRun c k next)) ∧
     (p.total ≤ r.iter → s.makes (.segmentGrant c) (d.setRun c k { r with age := if aged then r.age else 0 }))) ∧
  (∀ (s : State) (c : Fin 8) (k : Fin 1024) (r : StageRun) (p : Prog),
     let d := s.dev
     let ds := d.desc c k
     d.coreUp = true → d.stageRun c k = some r → parseProg r.prog = some p →
     (∀ (g : Segment) (rest : List Segment) (a : Nat), d.segs = g :: rest → g.core = c → g.ctx = k → g.phase = .reading →
       g.src = some a → (∀ x ∈ rest, x.id ≠ g.id) → d.outReqs = [] → ds.srcKind = 1 → ds.dstKind = 1 →
       let left := { d with segs := rest }
       (ds.converts = false → r.got = [] → r.gotHole = false → r.units = 0 → r.spoilt = false → r.scales = [] → r.ending = none →
         g.off = 0 → g.len = p.len → 0 < g.len → d.poolOps.cells = [] → d.mirQ = [] → (∀ x ∈ rest, x.phase.isLost = false) → d.regionOk c ds.regions true true (ds.a2 p g.iter) g.len = true →
         s.makes (.segmentComplete 0 false) (((left.bump (.stream c) 0x98 g.len).poolWriteUnit c (ds.a2 p g.iter)
           ((d.poolNow c).readBytes a g.len) (.seg g.id)).setRun c k { r with tail := [] } |>.setProgress c k ((d.descWord c k 15).toNat + 1))) ∧
       s.makes (.segmentComplete 0 true) ((d.raise (.pool c) 1).loseSeg g 34)) ∧
     (∀ (e : Dev) (g : Segment) (rest : List Segment) (code : Nat), e.segs = g :: rest → g.core = c → g.ctx = k →
       (∀ x ∈ rest, x.id ≠ g.id ∧ ¬ (x.core = c ∧ x.ctx = k)) → e.stageRun c k = some r → r.ending = none → e.hasProducer c k = false →
       e.outReqs = [] → e.mirQ = [] → e.poolOps.cells = [] → 0 < code → code < 256 →
       let lost := e.loseSeg g code
       lost.inc = e.inc → lost.ctxState c k = 4 ∧ fld (lost.descWord c k 14) 8 8 = code ∧ lost.stageRun c k = none ∧ lost.segs = rest ∧
         lost.hbm = e.hbm ∧ lost.pool = e.pool) ∧
     (d.fc.armed = false → p.total ≤ r.iter → r.ending = none → d.hasSegs c k = false →
       (∀ j ∈ d.runningCtxs c, j ≠ k → (d.desc c j).dstKind = 2 → (d.desc c j).next ≠ k) →
       let kept := if ds.res = 1 then d.retainStage c ds p else d
       s.makes (.stageComplete c k) ({ kept with
         stages := d.stages.erase (runKey c k),
         regs := d.regs.set (ctxAddr c k + 56) 2#32,
         syncs := d.syncs ++ match ds.done with
           | some obj => [{ chan := .stream c, core := c, what := .add obj ds.doneVal none }]
           | none => [] } |> fun e => if ds.done.isSome then e.injectFlits c 2 1 else e)) ∧
     (d.pageAnswers (.stream c) = true → ∀ w : Word, bit w 0 = true →
       ∃ e, s.makes (.strRetClear c w) e ∧ e = { d with heldLo := d.heldLo.erase 0, retain := e.retain } ∧
         ∀ j, e.retain.get? j = if j / 16 = c then none else d.retain.get? j))

/-! ### Queues -/

/-- R286, R290, R293 to R298: a message from a context that reaches its tile's ingress is placed in its ring; where the ring has no room it waits there,
and while one waits the others of its class stay in the network (here no injection of the host waits for it); in spill mode it goes to a spill cell;
an absent queue and a fenced tile discard it. The one that has waited QSPILL_WAIT cycles spills where a cell is free; the oldest spilled message
returns to its ring where that has room. A message is counted at its channel when it enters a ring or is discarded, a spill when it enters a cell.
R298 to R301, R303 to R305: core queues and what their page does. A message is stored where a cell is free, waits where none is, and is discarded at a
fenced core; one that a host-bound queue takes is an event of the host page (R646). A queue bound to a tile queue forwards its oldest message, and a
queue bound to the host gives it to CQ_DATA with CQ_STAT (the queue number in its header is the free value poppedDq). QINJ_CMD sends a message from
the host, which counts as a host action; while the network is busy a free value (netFull) says whether it waits, and the command has no effect while
one waits or the core is fenced; one that names no queue is discarded. The core in the host's sender identity is the model's choice (log entry 55).
Two tiles whose queues are blocked by each other's messages, none of which came through a core queue, are recorded and reported, and a flushed channel
line adds to its channel's totals. -/
def Obligations.QueueUnits : Prop :=
  (∀ (s : State) (t : Fin 1632) (q : Nat), s.dev.coreUp = true → q < 16 →
     let d := s.dev
     let c := tileCore t
     let x := d.tile t
     let gone := x.qAbsent q || d.isFenced (.tile t) || d.isFenced (.core c)
     let spills (e : Dev) (m : Msg) : Dev :=
       ((({ e with spilled := d.spilled.set (16 * t + q) (d.spillOf t q ++ [m]),
                   tiles := d.tiles.set t (x.setQStat q (x.qCount q) true ((d.spillOf t q).length + 1)) }).bump
           (.queue c) 0xB0 1).countMsg c m.sender (d.destCode (.tile t q)) 0 1)
     (∀ (i : Nat) (f : MsgFly) (rest : List MsgFly), d.takeMsg i = some (f, rest) → f.dest = .tile t q →
       f.msg.watch = none → f.msg.release = none → d.hostInj.cells = [] →
       let key := ingressKey t f.msg.cls
       let taken := { d with msgs := rest }
       ((d.ingress.get? key).isSome = true → s.makes (.queueArrival i) d) ∧
       (d.ingress.get? key = none →
         (gone = true → s.makes (.queueArrival i)
           (((taken.countMsg c f.msg.sender (d.destCode (.tile t q)) 1 0).bump (.queue c) 0xB8 1).raise (.queue c) 0)) ∧
         (gone = false → x.qSpilling q = true → d.cellFree c f.msg.cls = true → s.makes (.queueArrival i) (spills taken f.msg)) ∧
         (gone = false → x.qSpilling q = false → ∀ y, x.place q f.msg = some y → s.makes (.queueArrival i)
           (((taken.setTile t y).bump (.queue c) 0xA8 1).countMsg c f.msg.sender (d.destCode (.tile t q)) 1 0)) ∧
         (gone = false → (x.qSpilling q = true ∧ d.cellFree c f.msg.cls = false ∨ x.qSpilling q = false ∧ x.place q f.msg = none) →
           s.makes (.queueArrival i) { taken with ingress := d.ingress.set key f }))) ∧
     (∀ (reply : Bool) (f : MsgFly), d.ingress.get? (ingressKey t reply) = some f → f.dest = .tile t q →
       f.msg.watch = none → f.msg.release = none →
       s.makes (.queueSpill t reply)
         (if d.cellFree c reply then spills { d with ingress := d.ingress.erase (ingressKey t reply) } f.msg else d)) ∧
     ∀ (qn : Fin 16) (m : Msg) (r : List Msg), qn.val = q → d.spillOf t q = m :: r →
       (x.place q m = none → s.makes (.spillReturn t qn) d) ∧
       ∀ y, x.place q m = some y → s.makes (.spillReturn t qn)
         ((({ d.setTile t (y.setQStat q (y.qCount q) (decide (r ≠ [])) r.length) with
             spilled := setList d.spilled (16 * t + q) r }.bump (.queue c) 0xA8 1).countMsg c m.sender (d.destCode (.tile t q)) 1 0).retryIngress
           t m.cls)) ∧
  (∀ (s : State) (c : Fin 8),
     let d := s.dev
     let free := { d with heldLo := d.heldLo.erase 0 }
     (d.coreUp = true → ∀ (i q : Nat) (f : MsgFly) (rest : List MsgFly), d.takeMsg i = some (f, rest) →
       f.dest = .core c q → f.msg.watch = none → f.msg.release = none → d.hostInj.cells = [] →
       let taken := { d with msgs := rest }
       (d.isFenced (.core c) = true → s.makes (.coreQueueStore i)
         (((taken.countMsg c f.msg.sender (d.destCode (.core c q)) 1 0).bump (.queue c) 0xB8 1).raise (.queue c) 0)) ∧
       (d.isFenced (.core c) = false → d.cellFree c f.msg.cls = false → s.makes (.coreQueueStore i) d) ∧
       (d.isFenced (.core c) = false → d.cellFree c f.msg.cls = true →
         let stored := ((({ taken with coreQ := d.coreQ.set (1024 * c + q) (d.coreQOf c q ++ [f.msg]) }.bump (.queue c) 0xA8 1).bump
           (.queue c) 0xB0 1).countMsg c f.msg.sender (d.destCode (.core c q)) 1 1)
         (fld (d.cqCfg c q) 0 2 ≠ 2 → s.makes (.coreQueueStore i) stored) ∧
         (fld (d.cqCfg c q) 0 2 = 2 → s.makes (.coreQueueStore i) (stored.hifEvent 2)))) ∧
     (∀ (q : Fin 1024) (m : Msg) (r : List Msg), d.coreQOf c q = m :: r → d.pageOn (.queue c) = true →
       let cfg := d.cqCfg c q
       let tq := fld cfg 2 4
       let into := c * 204 + fld cfg 10 4 * 17 + d.physPos c (fld cfg 10 4) (fld cfg 6 4)
       let sent : MsgFly := { msg := { m with dq := tq, cq := some q.val }, dest := .tile into tq, fwd := some (1024 * c + q), seq := 0 }
       (d.coreUp = true → d.isFenced (.core c) = false → fld cfg 0 2 = 1 → fld cfg 10 4 < 12 → (8 ≤ tq ↔ m.cls = true) → d.cqMoving c q = false →
         let left := { d with coreQ := setList d.coreQ (1024 * c + q) r }
         let behind := (d.ingress.get? (ingressKey into m.cls)).isSome || d.msgs.any fun g => g.before sent
         (behind = true → s.makes (.coreQueueForward c q)
           (({ left with msgs := d.msgs ++ [{ sent with seq := d.netSeq }], netSeq := d.netSeq + 1 } : Dev).injectFlits c sent.msg.vc sent.msg.flits)) ∧
         (behind = false → s.makes (.coreQueueForward c q) ((left.injectFlits c sent.msg.vc sent.msg.flits).arriveTile sent into tq))) ∧
       (d.coreUp = true → fld cfg 0 2 ≠ 1 ∨ d.isFenced (.core c) = true → s.makes (.coreQueueForward c q) d) ∧
       (d.coreUp = true → d.pageAnswers (.queue c) = true → d.isFenced (.core c) = false → ∀ w : Word, fld w 0 10 = q.val → m.payload.length ≤ 62 →
         let shown : Msg := { m with dq := (Config.poppedDq q.val).toNat }
         ∃ e, s.makes (.cqPop c w) e ∧ e = { free with regs := e.regs, coreQ := e.coreQ } ∧
           (∀ o, o ≠ (Page.queue c).base + 0x98 → o < (Page.queue c).base + 0x100 ∨ (Page.queue c).base + 0x200 ≤ o → e.rd o = d.rd o) ∧
           (fld cfg 0 2 = 2 → e.coreQ = setList d.coreQ (1024 * c + q) r ∧ e.preg (.queue c) 0x98 = BitVec.ofNat 32 (1 + 2 * q) ∧
             ∀ k, k < 64 → e.preg (.queue c) (0x100 + 4 * k) = (shown.word0 :: shown.word1 :: m.payload).getD k 0) ∧
           (fld cfg 0 2 ≠ 2 → e.coreQ = d.coreQ ∧ e.preg (.queue c) 0x98 = BitVec.ofNat 32 (2 * q) ∧
             ∀ k, k < 64 → e.preg (.queue c) (0x100 + 4 * k) = 0))) ∧
     (d.coreUp = true → d.pageAnswers (.queue c) = true → d.pageOn (.queue c) = true → ∀ w : Word, fld w 16 6 ≤ 62 →
       let m : Msg := { kind := 4, cls := destClass w, dq := destNumber w % 16, sender := d.hostSender c, cq := none,
                        payload := (List.range (fld w 16 6)).map fun k => d.preg (.queue c) (0x200 + 4 * k), watch := none, release := none }
       let enters (e : Dev) (dest : QDest) : Dev :=
         ({ e with msgs := d.msgs ++ [{ msg := m, dest := dest, fwd := none, seq := e.netSeq }], netSeq := e.netSeq + 1 } : Dev).injectFlits
           c m.vc m.flits
       (d.isFenced (.core c) = false → d.hostInj.cells = [] → ∀ dest, d.destOf c w = some dest →
         (d.netBusy = false → s.makes (.qinjCmd c w) (enters free.hostAct dest)) ∧
         (d.netBusy = true → let e := { free.hostAct with netSeq := d.netSeq + 1 }
           s.makes (.qinjCmd c w) (if Config.netFull (1632 + c) d.draws then
             { e with hostInj := d.hostInj.set c { msg := m, dest := dest, fwd := none, seq := d.netSeq }, draws := d.draws + 1 }
           else enters e dest))) ∧
       (d.isFenced (.core c) = true ∨ (d.hostInj.get? c).isSome = true → s.makes (.qinjCmd c w) free) ∧
       (d.isFenced (.core c) = false → d.hostInj.get? c = none → d.destOf c w = none → s.makes (.qinjCmd c w)
         (((free.hostAct.countMsg c m.sender (fld w 0 16) 1 0).bump (.queue c) 0xB8 1).raise (.queue c) 0))) ∧
     (d.coreUp = true → ∀ (x y : Fin 1632) (rx ry : Bool) (a b : MsgFly), d.ingress.get? (ingressKey x rx) = some a →
       d.ingress.get? (ingressKey y ry) = some b → d.cellLeft (tileCore x) a.msg.cls = false → d.cellLeft (tileCore y) b.msg.cls = false →
       a.fwd = none → b.fwd = none → a.msg.cq = none → b.msg.cq = none → d.sentBy a.msg y = true → d.sentBy b.msg x = true →
       let at_ := if d.logOf (tileCore x) ≤ d.logOf (tileCore y) then tileCore x else tileCore y
       let ident (f : MsgFly) : Word := packFields 32 [(0, d.destCode f.dest), (16, f.msg.sender)]
       s.makes (.queueDeadlockSuspect x y rx ry)
         (((d.setPreg (.queue at_) 0x8C (ident a)).setPreg (.queue at_) 0x90 (ident b)).raise (.queue at_) 1)) ∧
     (d.coreUp = true → ∀ (before after : List ChanLine) (l : ChanLine), d.chanFly = before ++ l :: after →
       let flushed (ts : List ChanTotal) := s.makes (.channelLineFlush before.length) { d with chanFly := before ++ after, chanTotal := ts }
       let same (x : ChanTotal) : Prop := x.sender = l.sender ∧ x.dest = l.dest
       (∀ (ts us : List ChanTotal) (x : ChanTotal), d.chanTotal = ts ++ x :: us → same x → (∀ y ∈ ts ++ us, ¬ same y) →
         flushed (ts ++ { x with msgs := x.msgs + l.msgs, stall := x.stall + l.stall, spills := x.spills + l.spills } :: us)) ∧
       ((∀ x ∈ d.chanTotal, ¬ same x) → d.chanTotal.length < 16384 → flushed (d.chanTotal ++
         [{ sender := l.sender, dest := l.dest, msgs := l.msgs, stall := l.stall, spills := l.spills }]))))

/-! ### Synchronisation -/

/-- R311, R317 to R320: an operation reaches its unit and is one read-modify-write of its object. The watches of the object whose condition the new value
meets send their messages in order of registration and are gone; the others stay. The prior value reaches the scalar register that waits for it. A
WATCH whose condition holds sends its message at once, and is registered otherwise. A fenced core's unit discards the operation, an open realign holds
it, and while the page is off it waits. -/
def Obligations.SyncOperations : Prop :=
  ∀ (s : State) (i : Nat) (f : SyncFly) (rest : List SyncFly) (t : Nat) (bg : Bool), s.dev.coreUp = true →
    takeInOrder SyncFly.chanKey s.dev.syncs i = some (f, rest) → f.chan = .tile t bg →
    let d := s.dev
    let c := f.core
    let left := { d with syncs := rest }
    let applied (obj : Nat) (w : Word) (reply : Option (Nat × Bool × Nat)) := d.realign = false → d.pageOn (.sync c) = true →
      d.isFenced (.core c) = false → (∀ u b n, reply = some (u, b, n) → (d.ctx u b).halting = none) →
      ∃ e : Dev, left.operated e c obj w ∧ s.makes (.syncOpApply i) ({ e with tiles := match reply with
        | none => d.tiles
        | some (u, b, n) => (if (d.ctx u b).pend.contains (.s n) then
            d.modCtx u b fun y => { y.ws n (d.objVal c obj) with pend := y.pend.erase (.s n) }
            else d.modCtx u b id).tiles } : Dev).fcSettle
    (∀ obj v r, f.what = .add obj v r → applied obj (d.objVal c obj + v) r) ∧
    (∀ obj v r, f.what = .set obj v r → applied obj v r) ∧
    (∀ obj old new r, f.what = .cas obj old new r → applied obj (if d.objVal c obj = old then new else d.objVal c obj) r) ∧
    (∀ obj target eq qn, f.what = .watch obj target eq t bg qn → d.realign = false → d.pageOn (.sync c) = true →
      d.isFenced (.core c) = false →
      let w : Watch := { core := c, obj := obj, target := target, eq := eq, tile := t, bg := bg, qn := qn }
      let counted := left.bump (.sync c) 0xD8 1
      let told : Dev := ({ counted with msgs := d.msgs ++ [{ msg := d.watchMsg w, dest := .tile t qn, fwd := none, seq := d.netSeq }],
                                        netSeq := d.netSeq + 1 } : Dev).injectFlits c 1 1
      let waits : Dev := { counted with watches := d.watches ++ [w] }
      s.makes (.syncOpApply i) (if meets eq (d.objVal c obj) target then told.bump (.sync c) 0xE0 1 else waits).fcSettle) ∧
    (f.isArrival = false → f.passes = false →
      (d.isFenced (.core c) = true → s.makes (.syncOpApply i) left.fcSettle) ∧
      (d.isFenced (.core c) = false → d.realign = true →
        s.makes (.syncOpApply i) ({ left with syncHeld := d.syncHeld ++ [f] } : Dev).fcSettle) ∧
      (d.isFenced (.core c) = false → d.realign = false → d.pageOn (.sync c) = false → s.makes (.syncOpApply i) d.fcSettle))

/-- R323, R335, R336, R338 to R340: an operation of the host changes its object at once and counts as a host action, which leaves the prior value in
HOP_PRIOR, and has no effect while one waits or the core is fenced. A forced set or add does the same from the debug page, and its record, with the
value before and after and the path, goes to the recorder's queue, is counted and marks the journal of the step that is under way; FORCE_STAT is busy
until the recorder writes it. WATCH_CLEAR removes the unit's watches without a message while every tile of the core is halted, and is ignored
otherwise. At a realign, once every participating unit has arrived, every object that takes part restarts at 0, but the lower one of a pair, which
keeps the difference of the two modulo 2^32; what the realign held takes effect after it. Here no object that takes part is watched, and
REALIGN_UNBALANCED is masked where a pair keeps a difference. -/
def Obligations.SyncControl : Prop :=
  ∀ (s : State) (c : Fin 8),
    let d := s.dev
    (d.coreUp = true → d.pageAnswers (.sync c) = true →
      let free := { d with heldLo := d.heldLo.erase 0 }
      let obj := fld (d.preg (.sync c) 0x90) 0 13
      let does (i : Instr) (w : Word) : Prop := ∃ e, free.hostAct.operated e c obj w ∧
        s.makes i (e.setPreg (.sync c) 0xA0 (d.objVal c obj)).fcSettle
      (d.hopBusy c = false → d.realign = false → d.isFenced (.core c) = false →
        does (.hopAdd c) (d.objVal c obj + d.preg (.sync c) 0x94) ∧ does (.hopSet c) (d.preg (.sync c) 0x94)) ∧
      (d.hopBusy c = true ∨ d.isFenced (.core c) = true → s.makes (.hopAdd c) free.fcSettle ∧ s.makes (.hopSet c) free.fcSettle)) ∧
    (∀ mgmt : Bool, d.coreUp = true → d.pageAnswers (.debug c) = true → d.pageOn (.debug c) = true → bit (d.preg (.debug c) 0x8C) 0 = false →
      d.realign = false → d.isFenced (.core c) = false → d.evr.queue.length < 256 → (∀ f ∈ d.syncs, f.chan ≠ .force c mgmt) →
      let busy := ({ d with heldLo := d.heldLo.erase (if mgmt then 1 else 0) }).setPreg (.debug c) 0x8C 1
      let obj := fld (d.preg (.debug c) 0x80) 0 13
      let old := d.objVal c obj
      let does (i : Instr) (cmd : Byte) (w : Word) : Prop := ∃ e, busy.operated e c obj w ∧
        let record := d.event 0x20 (Page.index (.debug c)) (if mgmt then 3 else 2) 0 false
          ([BitVec.ofNat 8 (d.logOf c), cmd] ++ bytesLE 2 obj ++ bytesLE 4 old.toNat ++ bytesLE 4 w.toNat) false
        let logged := ({ e with evr := { d.evr with queue := d.evr.queue ++ [record] } } : Dev).bump (.sync c) 0xF8 1
        let marks := { d.rsl with forced := d.rsl.forced || d.inStep, nextForced := d.rsl.nextForced || d.inNextStep }
        s.makes i ({ logged with rsl := marks } : Dev).fcSettle
      does (.forceSet c mgmt) 0 (d.preg (.debug c) 0x84) ∧ does (.forceAdd c mgmt) 1 (old + d.preg (.debug c) 0x84)) ∧
    (d.pageAnswers (.sync c) = true → ∀ w : Word,
      let free := { d with heldLo := d.heldLo.erase 0 }
      (d.coreHalted c = false → s.makes (.watchClear c w) (free.ignored .bar0 ((Page.sync c).base + 0x8C))) ∧
      (d.coreHalted c = true → bit w 0 = false → s.makes (.watchClear c w) free) ∧
      (d.coreHalted c = true → bit w 0 = true → ∃ e : Dev, s.makes (.watchClear c w) e ∧
        e = { free with tiles := e.tiles, watches := d.watches.filter fun x => !(x.core == c.val) } ∧
        ∀ (u : Nat) (bg : Bool), (e.ctx u bg) = { d.ctx u bg with
          watches := (d.ctx u bg).watches - (d.watches.filter fun x => x.core == c.val && x.tile == u && x.bg == bg).length })) ∧
    (let differ (k : Nat) : Prop := ∃ o p, bit (d.objCtl k o) 13 = true ∧ d.partner k o = some p ∧ d.objVal k o ≠ d.objVal k p
     d.coreUp = true → d.realign = true → d.realignReady = true →
     (∀ k, d.realigns k = true → k < 8 → (differ k → d.isMasked (.sync k) 3 = true) ∧
       ∀ x ∈ d.watches, x.core = k → bit (d.objCtl k x.obj) 13 = false) →
     ∃ e : Dev, s.makes .realignApply (if d.syncHeld = [] then e else e.applyHeld).fcSettle ∧
       e = { d with realign := false, gen254 := !d.gen254, rounds := e.rounds, bars := e.bars,
                    regs := e.regs, ctrs := e.ctrs, flt := e.flt } ∧
       e.round d.core0 254 lvlCore = d.round d.core0 254 lvlCore + 1 ∧
       (∀ k o, k < 8 → o < 8192 → e.objVal k o =
         if d.realigns k = true ∧ bit (d.objCtl k o) 13 = true then
           (match d.partner k o with
           | some p => if o < p then d.objVal k o - d.objVal k p else 0
           | none => 0)
         else d.objVal k o) ∧
       ∀ k, k < 8 → d.realigns k = true → e.ctr (.sync k) 0xF0 =
         if d.pageOn (.sync k) then satAdd (d.ctr (.sync k) 0xF0) 1 else d.ctr (.sync k) 0xF0) ∧
    (d.coreUp = true → d.realign = false ∨ d.realignReady = false → s.makes .realignApply d.fcSettle)

/-- R327, R328, R330, R331, R335: a tile's arrival is counted in its row, one that its row does not expect is discarded and raises BARRIER_EXCESS. A row
that is complete goes on to its core, and a core to the die; the root takes the next round number and sends the releases down. A release resets its
slot and goes on to the parts of the level below that take part, at a row as a message to each tile that arrived, at the die as one flit on VC2 to
each core (R348). A fenced core's unit discards an arrival, an open realign holds it but for those at barrier 254, which are counted, and while the
page is off it waits. A slot that has waited too long is recorded and raised once. -/
def Obligations.BarrierTree : Prop :=
  ∀ (s : State), s.dev.coreUp = true →
    let d := s.dev
    let rel (level core row b : Nat) (gen : Bool) (round : Word) : RelFly :=
      { level := level, core := core, row := row, bar := b, gen := gen, round := round }
    let info (b : Nat) (gen : Bool) (level row : Nat) : Word := packFields 32 [(0, b), (8, b2n gen), (9, level), (12, row), (16, 0)]
    let toCores (d e : Dev) (c n : Nat) : Prop :=
      e.ctr (.core c) 0x120 = if d.pageOn (.core c) then satAdd (d.ctr (.core c) 0x120) n else d.ctr (.core c) 0x120
    let rounds (c b lvl : Nat) := d.rounds.set (roundKey c b lvl) (d.round c b lvl + 1)
    (∀ (i : Nat) (f : SyncFly) (rest : List SyncFly), takeInOrder SyncFly.chanKey d.syncs i = some (f, rest) →
      let c := f.core
      let left := { d with syncs := rest }
      let excess (b : Nat) (gen : Bool) (level row : Nat) : Dev := (left.setPreg (.sync c) 0xB0 (info b gen level row)).raise (.sync c) 2
      (f.isArrival = true → d.isFenced (.core c) = true → s.makes (.barrierArrive i) left) ∧
      (f.isArrival = true → d.isFenced (.core c) = false → d.realign = true → f.passes = false →
        s.makes (.barrierArrive i) { left with syncHeld := d.syncHeld ++ [f] }) ∧
      (d.isFenced (.core c) = false → d.realign = false → d.pageOn (.sync c) = false → f.chan.isHost = false → f.chan.isForce = false →
        s.makes (.barrierArrive i) d) ∧
      (d.isFenced (.core c) = false → d.realign = true → d.pageOn (.sync c) = true → f.chan.isForce = false → ∀ gen k,
        f.what = .arriveDie 254 gen k → let die := d.barSlot c 254 gen lvlDie
        s.makes (.barrierArrive i)
          (left.setBarSlot c 254 gen lvlDie { die with count := die.count + 1, mask := setBit die.mask k true })) ∧
      (d.isFenced (.core c) = false → d.realign = false → d.pageOn (.sync c) = true → f.chan.isForce = false →
        (∀ b gen t, f.what = .arrive b gen t →
          let row := tileRow t
          let n := d.barRow c b row
          let slot := d.barSlot c b gen row
          let counted := left.setBarSlot c b gen row { slot with count := slot.count + 1, mask := setBit slot.mask (tilePos t) true }
          let core := d.barSlot c b gen lvlCore
          let rows := setBit core.mask row true
          let up := counted.setBarSlot c b gen lvlCore { core with count := core.count + 1, mask := rows }
          let all : Prop := ∀ r, r < 12 → d.barRow c b r = 0 ∨ bit rows r = true
          (d.barScope c b = 0 ∨ n ≤ slot.count → s.makes (.barrierArrive i) (excess b gen 0 row)) ∧
          (d.barScope c b ≠ 0 → slot.count + 1 < n → s.makes (.barrierArrive i) counted) ∧
          (slot.count + 1 = n → row < 12 →
            (d.barScope c b = 1 → s.makes (.barrierArrive i)
              ({ counted with rounds := rounds c b row }.releaseRow c row b gen (d.round c b row + 1))) ∧
            (2 ≤ d.barScope c b → ¬ all → s.makes (.barrierArrive i) up) ∧
            (d.barScope c b = 2 → all → s.makes (.barrierArrive i) { up with
              rounds := rounds c b lvlCore, bars := up.bars.erase (barKey c b gen lvlCore),
              rels := d.rels ++ ((List.range 12).filter fun r => bit rows r || d.barRow c b r ≠ 0).map fun r =>
                rel 0 c r b gen (d.round c b lvlCore + 1) }) ∧
            (3 ≤ d.barScope c b → all → s.makes (.barrierArrive i) (({ up with
              syncs := rest ++ [{ chan := .unit c, core := d.physCore c 0, what := .arriveDie b gen ((d.lcoreOf c).getD 8) }] } :
                Dev).injectFlits c 2 1)))) ∧
        ∀ b gen l, f.what = .arriveDie b gen l → b ≠ 254 →
          let die := d.barSlot c b gen lvlDie
          let cores := setBit die.mask l true
          let up := left.setBarSlot c b gen lvlDie { die with count := die.count + 1, mask := cores }
          let all : Prop := ∀ k, k < 8 → bit (d.barCmask c b) k = true → bit cores k = true
          (bit (d.barCmask c b) l = false ∨ bit die.mask l = true → s.makes (.barrierArrive i) (excess b gen 2 0)) ∧
          (bit (d.barCmask c b) l = true → bit die.mask l = false →
            (¬ all → s.makes (.barrierArrive i) up) ∧
            (all → d.barScope c b = 4 → s.makes (.barrierArrive i) (up.fabDie b gen)) ∧
            (all → d.barScope c b ≠ 4 →
              let sent := ((List.range 8).filter fun k => bit cores k || bit (d.barCmask c b) k).map fun k =>
                rel 1 (d.physCore c k) 0 b gen (d.round c b lvlCore + 1)
              ∃ e : Dev, s.makes (.barrierArrive i) e ∧ toCores d e c sent.length ∧ e = { up with
                rounds := rounds c b lvlCore, bars := up.bars.erase (barKey c b gen lvlDie), rels := d.rels ++ sent,
                ctrs := e.ctrs, noc := e.noc })))) ∧
    (∀ (i : Nat) (r : RelFly) (rest : List RelFly),
      takeInOrder (fun r : RelFly => (r.level, r.core, r.row, r.bar)) d.rels i = some (r, rest) →
      let mask (lvl : Nat) := (d.barSlot r.core r.bar r.gen lvl).mask
      let told : List (Nat × Nat) := (onesOf (mask r.row)).filterMap fun pos =>
        let t := r.core * 204 + r.row * 17 + pos
        (((d.tile t).bars.getD r.bar TileBar.reset).pend.find? fun p => p.1 == r.gen).map fun p => (t, p.2)
      let passed (lvl : Nat) := d.bars.erase (barKey r.core r.bar r.gen lvl)
      (r.level = 0 → ∃ e : Dev, s.makes (.barrierRelease i) e ∧ e = { d with
        rels := rest, bars := passed r.row, ctrs := e.ctrs, noc := e.noc, netSeq := d.netSeq + told.length,
        msgs := d.msgs ++ told.mapIdx fun k p =>
          { dest := .tile p.1 p.2, fwd := none, seq := d.netSeq + k,
            msg := { kind := 2, cls := true, dq := p.2, sender := d.unitSender (tileCore p.1), cq := none,
                     payload := [packFields 32 [(0, r.bar), (8, b2n r.gen)], r.round], watch := none,
                     release := some (p.1, r.bar, r.gen) } } }) ∧
      (r.level = 1 → s.makes (.barrierRelease i) { d with
        bars := passed lvlCore, rels := rest ++ ((List.range 12).filter fun row =>
          bit (mask lvlCore) row || d.barRow r.core r.bar row ≠ 0).map fun row => rel 0 r.core row r.bar r.gen r.round }) ∧
      (r.level = 2 →
        let sent := ((List.range 8).filter fun l => bit (mask lvlDie) l || bit (d.barCmask r.core r.bar) l).map fun l =>
          rel 1 (d.physCore r.core l) 0 r.bar r.gen r.round
        ∃ e : Dev, s.makes (.barrierRelease i) e ∧ toCores d e r.core sent.length ∧
          e = { d with bars := passed lvlDie, rels := rest ++ sent, ctrs := e.ctrs, noc := e.noc })) ∧
    ∀ (c : Fin 8) (b : Fin 256) (gen : Bool) (row : Fin 12),
      let told (e : Dev) (level row : Nat) : Dev := (e.setPreg (.sync c) 0xB0 (info b gen level row)).raise (.sync c) 1
      let slot (level : Fin 5) (lvl shown : Nat) : Prop :=
        let x := d.barSlot c b gen lvl
        (x.count ≠ 0 → x.timed = false → s.makes (.barrierTimeout c b gen level row)
          (told (d.setBarSlot c b gen lvl { x with timed := true }) level shown)) ∧
        (x.count = 0 ∨ x.timed = true → s.makes (.barrierTimeout c b gen level row) d)
      let fab := d.fabSlot b gen
      let fabric (level : Fin 5) (st : FabState) : Prop :=
        (fab.state = st → fab.timed = false → s.makes (.barrierTimeout c b gen level row)
          (told (d.setFabSlot b gen { fab with timed := true }) level 0)) ∧
        (fab.state ≠ st ∨ fab.timed = true → s.makes (.barrierTimeout c b gen level row) d)
      slot 0 row row ∧ slot 1 lvlCore 0 ∧ (c.val = d.core0 → slot 2 lvlDie 0 ∧ fabric 3 .counting ∧ fabric 4 .sent)

/-- R332, R334, R338, R339: the fabric level of a job's barrier. An ARRIVE of a child is counted, the last arrival sends ARRIVE on to the parent, or at
the root takes the next round and releases; a RELEASE from the parent is passed to the die and to the children, all of which have arrived, and one for
a slot that is not SENT changes nothing. BAR_RESET clears a barrier, or all of them, in a core whose tiles are halted. FORCE_RELEASE releases at the
highest level that its core holds (of barrier 254 the die level, of 255 the fabric level, in logical core 0), and is recorded. The places of the round
and T_rel in the body of a RELEASE are the model's choice (log entry 27), and so is that BAR_RESET of barrier 255 forgets the positions of the
children that messages taught (log entry 30). -/
def Obligations.BarrierFabric : Prop :=
  ∀ (s : State),
    let d := s.dev
    (∀ (src : PktSrc) (k : Pkt) (r : RxPkt) (e : Dev), d.coreUp = true → d.rootUnitOn = true → d.arrived src 2 = some (k, r, e) →
      k.dst = d.position → k.vc = 2 → k.type = 9 → k.epoch = d.epoch →
      let b := fld k.jetFields 0 8
      let gen := bit k.jetFields 8
      let slot := d.fabSlot b gen
      (k.sub = 0 → d.fabChildren ≠ 0 →
        let known : Dev := { e with fc := { d.fc with
          kids := if d.fc.kids.contains k.src then d.fc.kids else d.fc.kids ++ [k.src] } }
        let new : FabSlot := { slot with state := if slot.state = .idle then .counting else slot.state, children := slot.children ++ [k.src] }
        (d.fabChildren ≤ slot.children.length → s.makes (.arrive src)
          (((e.setPreg (.sync d.core0) 0xB0 (packFields 32 [(0, b), (8, b2n gen), (9, 3), (12, 0), (16, 0)])).raise
            (.sync d.core0) 2).fcSettle)) ∧
        (slot.children.length < d.fabChildren →
          (slot.die = false ∨ slot.children.length + 1 < d.fabChildren →
            s.makes (.arrive src) (known.setFabSlot b gen new).fcSettle) ∧
          (slot.die = true → slot.children.length + 1 = d.fabChildren → slot.state = .counting →
            (d.fabRoot = false → s.makes (.arrive src)
              ((known.setFabSlot b gen { new with state := .sent, timed := false }).jet (some d.core0) d.fabParent 0 (b + 256 * b2n gen) []).fcSettle) ∧
            (d.fabRoot = true → s.makes (.arrive src)
              ({ known.setFabSlot b gen new with
                  rounds := d.rounds.set (roundKey d.core0 b lvlCore) (d.round d.core0 b lvlCore + 1) }.fabRelease b gen
                (d.round d.core0 b lvlCore + 1) (d.tmb.time8 / 8)).fcSettle)))) ∧
      (k.sub = 0 → d.fabChildren = 0 → s.makes (.arrive src) e.fcSettle) ∧
      (k.sub = 1 → slot.state ≠ .sent → s.makes (.release src) e.fcSettle) ∧
      (k.sub = 1 → slot.state = .sent → b < 254 → slot.children.length = d.fabChildren →
        let round : Word := BitVec.ofNat 32 (ofBytesLE (k.body.take 4))
        let tRel := ofBytesLE ((k.body.drop 4).take 8)
        let freed : Dev := e.setFabSlot b gen FabSlot.reset
        let down : Dev := { freed with rels := d.rels ++ [{ level := 2, core := d.core0, row := 0, bar := b, gen := gen, round := round }] }
        s.makes (.release src) (slot.children.foldl (fun x child => x.jet (some d.core0) child 1 (b + 256 * b2n gen)
          (bytesLE 4 round.toNat ++ bytesLE 8 tRel ++ List.replicate 4 0)) down).fcSettle)) ∧
    (∀ (c : Fin 8) (w : Word), d.pageAnswers (.sync c) = true →
      let free := { d with heldLo := d.heldLo.erase 0 }
      let named (b : Nat) : Prop := bit w 8 = true ∨ b = fld w 0 8
      (d.coreHalted c = false → s.makes (.barReset c w) (free.ignored .bar0 ((Page.sync c).base + 0xAC))) ∧
      (d.coreHalted c = true → ∃ e : Dev, s.makes (.barReset c w) e ∧
        e = { free with
          bars := e.bars, rounds := e.rounds, fabBars := e.fabBars, tiles := e.tiles,
          gen254 := e.gen254, fc := { d.fc with gen255 := e.fc.gen255, kids := e.fc.kids } } ∧
        (c = d.core0 ∧ named 254 → e.gen254 = false) ∧ (¬ (c = d.core0 ∧ named 254) → e.gen254 = d.gen254) ∧
        (c = d.core0 ∧ named 255 → e.fc.gen255 = false ∧ e.fc.kids = []) ∧
        (¬ (c = d.core0 ∧ named 255) → e.fc.gen255 = d.fc.gen255 ∧ e.fc.kids = d.fc.kids) ∧
        (∀ k b gen lvl, k < 8 → b < 256 → lvl < 16 →
          e.bars.get? (barKey k b gen lvl) = (if k = c ∧ named b then none else d.bars.get? (barKey k b gen lvl)) ∧
          e.rounds.get? (roundKey k b lvl) = (if k = c ∧ named b then none else d.rounds.get? (roundKey k b lvl)) ∧
          e.fabBars.get? (fabKey b gen) = (if c = d.core0 ∧ named b then none else d.fabBars.get? (fabKey b gen))) ∧
        ∀ t b, b < 256 → (e.tile t = { d.tile t with bars := (e.tile t).bars }) ∧
          (e.tile t).bars.get? b = if tileCore t = c ∧ named b then none else (d.tile t).bars.get? b)) ∧
    ∀ (c : Fin 8) (mgmt : Bool) (b : Fin 256) (gen : Bool), d.coreUp = true → d.pageAnswers (.debug c) = true → d.pageOn (.debug c) = true →
      bit (d.preg (.debug c) 0x8C) 0 = false → d.realign = false → d.isFenced (.core c) = false → d.evr.queue.length < 256 →
      (∀ f ∈ d.syncs, f.chan ≠ .force c mgmt) →
      let busy := ({ d with heldLo := d.heldLo.erase (if mgmt then 1 else 0) }).setPreg (.debug c) 0x8C 1
      let round := d.round c b lvlCore
      let forced (e : Dev) := s.makes (.forceRelease c mgmt b gen)
        (e.logForce d.evr.queue.length c mgmt 2 (b + 256 * b2n gen) round (e.round c b lvlCore)).fcSettle
      let next : Dev := { busy with rounds := d.rounds.set (roundKey c b lvlCore) (round + 1) }
      (b.val < 254 → d.barScope c b = 0 → forced busy) ∧ (254 ≤ b.val → c.val ≠ d.core0 → forced busy) ∧
      (b.val = 254 → c.val = d.core0 → forced (next.setBarSlot c b gen lvlDie BarSlot.reset)) ∧
      (d.barScope c b = 1 → forced ((List.range 12).foldl (fun e row => if d.barRow c b row = 0 then e else
        { e with rounds := e.rounds.set (roundKey c b row) (e.round c b row + 1) }.releaseRow c row b gen (e.round c b row + 1)) busy)) ∧
      (d.barScope c b = 2 → forced (next.releaseCore c b gen (round + 1))) ∧
      (3 ≤ d.barScope c b → c.val ≠ d.core0 → forced (busy.releaseCore c b gen round)) ∧
      (d.barScope c b = 3 → c.val = d.core0 → forced (next.releaseDie c b gen (round + 1))) ∧
      (d.barScope c b = 4 ∨ b.val = 255 → c.val = d.core0 →
        (d.fabRoot = true → forced (next.fabRelease b gen (round + 1) (d.tmb.time8 / 8))) ∧
        (d.fabRoot = false → forced (busy.fabRelease b gen round (d.tmb.time8 / 8))))

/-! ### Fabric time and the forecast -/

/-- R365 to R367: the exchange of a sample. A disciplined child sends its request through its parent port once TMB_INTERVAL ft have passed since the last
one, and drops it where the port cannot be used, as it does its reply; a package answers a request of its epoch with its own state and the arrival
stamp, unless the request came in a replayed frame; one of another epoch is counted. A reply that fails a test (here one of an earlier epoch or of a
replayed frame) is counted and its request is marked once as bad; an accepted one takes its request off and becomes a sample. From its correction, in
ACQUIRE, one beyond 64 ft steps fabric time at once and any other is slewed. A request without an accepted reply is counted as lost. The places of the
number, the state and the stamps in a TSYNC packet are the model's choice (log entry 27), and so is that the interval is counted in ft as they pass
(log entries 31 and 3). -/
def Obligations.TimeExchange : Prop :=
  ∀ (s : State),
    let d := s.dev
    let pkt (dst w1 : Nat) (body : List Byte) : Pkt :=
      { type := 9, vc := 2, dst := dst, src := d.position, rs := d.routeSet, ttl := d.ttl, epoch := d.epoch, w1 := w1, body := body }
    (let early : Prop := ∃ t, d.tmb.lastReq = some t ∧ d.ns < t + max 1000 (fld (d.preg .tmb 0xA0) 0 16)
     (d.mainUp = true → ∀ p, d.timeParent = some p → d.discOn = true → d.isMaster = false → ¬ early →
       let asked : Dev := { d with tmb := { d.tmb with
         nextSeq := (d.tmb.nextSeq + 1) % 65536, lastReq := some d.ns,
         reqs := d.tmb.reqs ++ [{ seq := d.tmb.nextSeq, t1 := none, hit := false }] } }
       s.makes .tsyncReqSend (if d.portUsable p then
         asked.sendOut (portCore p) p false (pkt (d.peerPos p) (3 + 256 * (d.tmb.nextSeq % 65536)) []) else asked.routeDrop)) ∧
     (d.timeParent = none ∨ d.discOn = false ∨ d.isMaster = true ∨ early → s.makes .tsyncReqSend d)) ∧
    (d.clocked = true → ∀ (p : Fin 12) (k : Pkt) (r : RxPkt) (e : Dev), d.arrived (.port p) 2 = some (k, r, e) → k.type = 9 →
      k.vc = 2 → k.dst = d.position →
      let behind := (k.epoch + 65536 - d.epoch) % 65536
      (k.sub = 3 →
        (0x8000 ≤ behind → s.makes (.tsyncReq p) (e.bump .fab 0x100 1)) ∧
        (0 < behind → behind < 0x8000 → s.makes (.tsyncReq p) ((e.bump .fab 0x108 1).raise .fab 2)) ∧
        (behind = 0 → r.rp = true → s.makes (.tsyncReq p) e) ∧
        (behind = 0 → r.rp = false → s.makes (.tsyncReq p) (if e.portUsable p then e.sendOut (portCore p) p false
          (pkt k.src (4 + 256 * (fld k.jetFields 0 16 + 65536 * d.tmb.state.code)) (bytesLE 16 r.stamp ++ bytesLE 16 0))
          else e.routeDrop))) ∧
      (k.sub = 4 →
        let seq := fld k.jetFields 0 16
        let t2 := ofBytesLE (k.body.take 16)
        let t3 := ofBytesLE ((k.body.drop 16).take 16)
        let asym := (BitVec.ofNat 16 (fld (d.preg .tmb (0xC0 + 4 * p)) 0 16)).toInt
        (∀ (q : TsyncReq) (t1 : Nat), d.tmb.reqs.find? (fun x => x.seq == seq) = some q → q.t1 = some t1 →
          let delay := Int.tdiv (((r.stamp : Int) - t1) - ((t3 : Int) - t2)) 2
          let offset := Int.tdiv (((t2 : Int) - t1) - ((r.stamp : Int) - t3)) 2 - asym
          behind = 0 → d.timeParent = some p.val → d.discOn = true → d.rplOk k r t1 t2 t3 r.stamp delay offset = true →
          let taken : Dev := { e with tmb := { d.tmb with reqs := d.tmb.reqs.filter fun x => x.seq ≠ seq } }
          s.makes (.tsyncRpl p) (taken.acceptSample delay offset t2)) ∧
        (∀ (q : TsyncReq) (t1 : Nat), d.tmb.reqs.find? (fun x => x.seq == seq) = some q → q.t1 = some t1 → q.hit = false →
          r.rp = true ∨ 0x8000 ≤ behind → d.tmb.state ≠ .locked → behind = 0 ∨ 0x8000 ≤ behind →
          let marked := d.tmb.reqs.map fun x => if x.seq = seq then { x with hit := true } else x
          s.makes (.tsyncRpl p) { (if behind = 0 then e else e.bump .fab 0x100 1).bumpTmb 0xB0 with
            tmb := { d.tmb with reqs := marked, bad := d.tmb.bad + 1 } }) ∧
        (behind = 0 → d.tmb.reqs.find? (fun x => x.seq == seq) = none → s.makes (.tsyncRpl p) (e.bumpTmb 0xB0)))) ∧
    (∀ (e : Dev) (delay offset : Int) (t2 : Nat), e.tmb.state = .acquire → e.tmb.samples = [] → e.tmb.good < 7 →
      let f := e.acceptSample delay offset t2
      f = { e with regs := f.regs, tmb := f.tmb } ∧
      f.preg .tmb 0xA8 = satAdd (e.preg .tmb 0xA8) 1 ∧ f.tmb.state = .acquire ∧ f.tmb.lastT2 = some t2 ∧
      f.tmb.good = (if -16 ≤ offset ∧ offset ≤ 16 then e.tmb.good + 1 else 0) ∧
      (512 < offset ∨ offset < -512 → f.tmb.time8 = ((e.tmb.time8 : Int) + offset).toNat % 2 ^ 67 ∧ f.tmb.slew = 0) ∧
      (-512 ≤ offset ∧ offset ≤ 512 → f.tmb.time8 = e.tmb.time8 ∧ f.tmb.slew = offset)) ∧
    (d.mainUp = true → ∀ (seq : BitVec 16) (q : TsyncReq), d.tmb.reqs.find? (fun x => x.seq == seq.toNat) = some q →
      let left : Dev := { d with tmb := { d.tmb with reqs := d.tmb.reqs.filter fun x => x.seq ≠ seq.toNat } }
      let lost := left.bumpTmb 0xAC
      (q.hit = true → s.makes (.tsyncLost seq) lost) ∧
      (q.hit = false → d.tmb.state ≠ .locked ∨ d.tmb.bad < 63 →
        s.makes (.tsyncLost seq) { lost with tmb := { left.tmb with bad := d.tmb.bad + 1 } }) ∧
      (q.hit = false → d.tmb.state = .locked → 63 ≤ d.tmb.bad → s.makes (.tsyncLost seq)
        { lost with tmb := { left.tmb with state := .holdover, good := 0, wild := 0, bad := 0, since := d.ns, slew := 0 } }))

/-- R363, R364, R368, R710: the states of the time base. The loss of TIMEBASE, and a holdover that has lasted TMB_HOLDOVER_MAX, enter LOST, which raises
TIME_LOST and, while the forecast is armed, is an event of the open slot; the return of TIMEBASE alone changes no state. An armed EPOCH edge at a
sample edge loads fabric time and takes the phase of later edges from it, but not in LOST without TIMEBASE. Enabling discipline enters MASTER or
ACQUIRE, and disabling it FREE; master and parent do not change meanwhile. That TMB_HOLDOVER_MAX is counted in ft as they pass is the model's choice
(log entries 31 and 3). -/
def Obligations.TimeStates : Prop :=
  ∀ (s : State),
    let d := s.dev
    let lost (e : Dev) : Dev := { e with tmb := { e.tmb with
      state := .lost, good := 0, wild := 0, bad := 0, since := e.ns, slew := 0 } }
    let event (armed : Bool) (e : Dev) : Dev := if armed then e.slotEvent 6 else e
    (d.mainUp = true → d.tmb.absent = false → ∀ e : Dev,
      e = ({ d with tmb := { d.tmb with present := false, absent := true } } : Dev).raise .tmb 0 →
      s.makes .timebaseLost (if e.tmb.state = .lost then e else event e.fc.armed ((lost e).raise .tmb 1))) ∧
    (d.tmb.absent = true ∨ d.mainUp = false → s.makes .timebaseLost d) ∧
    s.makes .timebaseReturn { d with tmb := { d.tmb with present := true, absent := false } } ∧
    (let expired : Prop := d.tmb.state = .holdover ∧ d.tmb.since + (d.preg .tmb 0xA4).toNat ≤ d.ns
     (d.mainUp = true → expired → s.makes .holdoverExpire (event d.fc.armed ((lost d).raise .tmb 1))) ∧
     (¬ expired → s.makes .holdoverExpire d)) ∧
    (let ctrl := d.preg .tmb 0x80
     let value := (joinWords (d.preg .tmb 0x94) (d.preg .tmb 0x90)).toNat
     (d.mainUp = true → bit ctrl 2 = true → d.atEdge = true → d.tmb.state ≠ .lost ∨ d.tmb.present = true →
       s.makes .epochEdge { d.setPreg .tmb 0x80 (setBit ctrl 2 false) with
         tmb := { d.tmb with time8 := 8 * value, phase := value % 20, moved := 8 } }) ∧
     (bit ctrl 2 = false ∨ d.atEdge = false ∨ d.tmb.state = .lost ∧ d.tmb.present = false → s.makes .epochEdge d)) ∧
    ∀ (path : Path) (w : Word), d.pageAnswers .tmb = true →
      let free := { d with heldLo := d.heldLo.erase (pathNo path) }
      let old := d.preg .tmb 0x80
      let new := w &&& 0x7F#32
      (bit old 0 = true → (new ^^^ old) &&& 0x7A#32 ≠ 0 → s.makes (.discEnable path w) (free.ignored path ((Page.tmb).base + 0x80))) ∧
      (bit old 0 = false → bit w 0 = true → d.tmb.state = .free → d.fc.armed = false →
        s.makes (.discEnable path w) { free.setPreg .tmb 0x80 new with
          tmb := { d.tmb with state := if bit w 1 then .master else .acquire, samples := [], reqs := [], slew := 0, lastT2 := none,
                              lastReq := none, good := 0, wild := 0, bad := 0, since := d.ns } }) ∧
      (bit old 0 = true → bit w 0 = false → (new ^^^ old) &&& 0x7A#32 = 0 → d.tmb.state ≠ .free → d.fc.armed = false →
        s.makes (.discEnable path w) { free.setPreg .tmb 0x80 new with
          tmb := { d.tmb with state := .free, reqs := [], slew := 0, good := 0, wild := 0, bad := 0, since := d.ns } })

/-- R23, R371 to R374, R376, R388, R390: the forecast is armed where its records, the time base and FC_START allow, with an error code and slot otherwise;
it is disarmed at once before its first origin, and at the end of the superstep after it. FC_CLR zeroes the slip counts and the margin. A superstep
begins at its origin with the route set of its first slot, at T0 + L by the clock where every slot is done. A slot opens when its time has come and
the slot before it is done, the first one not during a commit or its checkruns; a compute slot, here with one bound core, adds 1 to the landing
counter of every bound tile and the core's tile count to its expected count. A superstep that does not end in time disarms. The minimum margin after
FC_CLR (log entry 29), the state before the first origin (log entry 29) and the advance of DZ_STEP at the first origin (log entry 35) are the model's
choices. -/
def Obligations.ForecastSteps : Prop :=
  ∀ (s : State),
    let d := s.dev
    let free : Dev := { d with heldLo := d.heldLo.erase 0 }
    (d.pageAnswers .tmb = true → d.pageOn .tmb = true → d.fc.armed = false →
      let fails (code slot : Nat) := s.makes .fcArm { free with fc := { d.fc with err := code, errSlot := slot % 4096 } }
      let checked := d.checkSteps d.fcCount 4097 0 []
      (∀ j, checked = some j → fails 1 j) ∧
      (checked = none → d.tmb.state.good = false → fails 2 0) ∧
      (checked = none → d.tmb.state.good = true → d.fcStart < d.now + 10000 → fails 3 0) ∧
      (checked = none → d.tmb.state.good = true → d.now + 10000 ≤ d.fcStart →
        ∃ f : Fc, s.makes .fcArm { free with fc := f, rsl := { d.rsl with closed := none } } ∧ f.armed = true ∧ f.stopping = false ∧ f.err = 0 ∧ f.begun = false ∧
          f.sstep = d.preg .tmb 0x218 ∧ f.origin = d.fcStart ∧ f.slots = [] ∧ f.slip = false ∧ f.slipPrev = false ∧
          f.route = fld (d.preg .fab 0x8C) 4 4)) ∧
    (d.pageAnswers .tmb = true → d.fc.armed = true →
      s.makes .fcArm free ∧
      (d.fc.begun = true → s.makes .fcDisarm ({ free with fc := { d.fc with stopping := true } } : Dev).fcSettle) ∧
      (d.fc.begun = false → s.makes .fcDisarm free.disarm)) ∧
    (d.pageAnswers .tmb = true → ∃ e : Dev, s.makes .fcClr e ∧
      e = { free with regs := e.regs, fc := { d.fc with minMargin := 0, minFresh := true } } ∧ ∀ k, k < 8 → e.preg .tmb (0x280 + 4 * k) = 0) ∧
    (d.coreUp = true → d.fc.armed = true → d.fc.heldSlip = false →
      let begins (n origin : Nat) (sstep : Word) := ∃ e : Dev, s.makes .superstepOrigin e ∧
        e = { d with fc := e.fc, pwr := e.pwr, ctrs := e.ctrs, regs := e.regs, rsl := e.rsl } ∧
        e.fc.armed = true ∧ e.fc.begun = true ∧ e.fc.sstep = sstep ∧ e.fc.origin = origin ∧ e.fc.first = n ∧ e.fc.slip = false ∧
        e.fc.route = (d.slotRec n).route ∧
        ∀ c, c < 8 → e.preg (.num c) 0x88 = if d.rsl.phase = .idle ∧ d.rsl.stepDue = true ∧ d.coreEnabled c = true
          then d.preg (.num c) 0x88 + 1 else d.preg (.num c) 0x88
      (d.fc.begun = false → d.now < d.fc.origin → s.makes .superstepOrigin d) ∧
      (d.fc.begun = false → d.fc.origin ≤ d.now → begins 0 d.fc.origin d.fc.sstep) ∧
      (d.fc.begun = true → d.fc.slip = false → d.fc.slipPrev = false → d.fc.origin + d.stepLen ≤ d.now →
        (d.allDone = false → s.makes .superstepOrigin d) ∧
        (d.allDone = true → d.ends = false → begins d.firstNext (d.fc.origin + d.stepLen) (d.fc.sstep + 1)) ∧
        (d.allDone = true → d.ends = true → s.makes .superstepOrigin d.disarm))) ∧
    (d.coreUp = true → ∀ j, d.nextSlot = some j →
      let r := d.slotRec j
      let ready : Prop := (∀ o, d.curSlot = some o → o.done = true) ∧ (d.curSlot = none → d.commitHolds = false)
      (d.now < d.fc.origin + r.offset ∨ ¬ ready → s.makes .slotOpen d.fcSettle) ∧
      (d.fc.origin + r.offset ≤ d.now → ready → r.kind = 0 →
        d.boundCores = [0] → ∃ e : Dev, s.makes .slotOpen e.fcSettle ∧
          e = { d with fc := e.fc, tiles := e.tiles, msgs := e.msgs, netSeq := e.netSeq, noc := e.noc, ctrs := e.ctrs } ∧
          e.fc.expected = d.fc.expected.set 0 (d.fc.expected.getD 0 0 + BitVec.ofNat 32 (d.fcTiles 0)) ∧
          e.fc.slots = d.fc.slots ++ [{ slot := j, sstep := d.fc.sstep, done := false,
                                        want := [(0, d.fc.expected.getD 0 0 + BitVec.ofNat 32 (d.fcTiles 0))],
                                        events := if d.tmb.state.good then [] else [6] }] ∧
          ∀ t, (e.tile t).spad = if t ∈ d.boundTiles 0 then ((d.tile t).setLc (d.fcLc 0) ((d.tile t).lc (d.fcLc 0) + 1)).spad
            else (d.tile t).spad)) ∧
    (d.coreUp = true →
      let limit := (joinWords (d.preg .tmb 0x234) (d.preg .tmb 0x230)).toNat
      let late : Prop := d.fc.armed = true ∧ d.fc.begun = true ∧ limit ≠ 0 ∧ d.fc.rel = none ∧ d.fc.origin + d.stepLen + limit ≤ d.now
      (late → s.makes .stepDeadline (d.raise .tmb 4).disarm) ∧ (¬ late → s.makes .stepDeadline d))

/-- R379 to R384, R387: slip mode. A package that has missed a deadline enters it with the highest event of the slot as its cause, drives LULL_N and sends
SLIP to its parent and its children in the barrier tree (here every child's position is known). One that sees LULL_N fall at a sample edge, or
receives a SLIP, enters it as REMOTE: for its current superstep, or for the previous one within 64 ft of the origin. A SLIP that is known already is
dropped, and a new one is forwarded to every neighbour but its sender. The slip counts in the journal of its superstep's step, in none once that
record has been made. The places of the fields in the body of a SLIP are the model's choice (log entry 27), and so is how a package knows its children
(log entry 30). -/
def Obligations.SlipMode : Prop :=
  ∀ (s : State), s.dev.coreUp = true → s.dev.fc.armed = true → s.dev.fc.begun = true →
    let d := s.dev
    let enters (e : Dev) (f : Fc) (n : Word) (cause : Nat) : Dev :=
      let x := e.rsl
      let closed := (x.closed.map fun m => decide ((n - m).toInt ≤ 0)).getD false
      let ahead := (x.phase = .drain ∨ e.commitDue = true) ∧ 0 < (n - x.placedIn).toInt
      let counted : Dev := { e with fc := f, rsl :=
        if closed then x
        else if ahead then { x with nextSlips := satAdd x.nextSlips 1, nextCause := x.nextCause.modify cause 0 (· + 1) }
        else { x with slips := satAdd x.slips 1, slipCause := x.slipCause.modify cause 0 (· + 1) } }
      (counted.setPreg .tmb (0x280 + 4 * cause) (satAdd (e.preg .tmb (0x280 + 4 * cause)) 1)).raise .tmb 2
    let now (e : Dev) : Dev := (enters e { e.fc with slip := true, arrived := false } e.fc.sstep 7).fcSettle
    let previous (e : Dev) : Dev := (enters e { e.fc with slipPrev := true, arrivedPrev := false } (e.fc.sstep - 1) 7).fcSettle
    let up (e : Dev) : List Nat := if e.fabRoot then [] else [e.fabParent]
    (d.missed = none → s.makes .slipDeclare d) ∧
    (∀ (o : OpenSlot) (cause : Nat), d.missed = some (o, cause) → o.sstep = d.fc.sstep →
      let slipping := enters d { d.fc with slip := true, arrived := false } o.sstep cause
      let told : Dev := { slipping with fc := { slipping.fc with lullOut := true } }
      told.fc.kids.length = told.fabChildren →
      s.makes .slipDeclare ((up told ++ told.fc.kids).foldl (fun e n => e.jet none n 2 o.sstep.toNat
        (bytesLE 2 o.slot ++ bytesLE 1 cause ++ bytesLE 1 0 ++ bytesLE 2 told.position ++ List.replicate 10 0)) told).fcSettle) ∧
    (d.fc.lulls = false →
      let fell : Dev := { d with fc := { d.fc with lullIn := false } }
      (d.atEdge = false → ∀ low, s.makes (.lullSample low) d) ∧
      (d.atEdge = true → s.makes (.lullSample false) { d with fc := { d.fc with lullIn := true } }) ∧
      (d.atEdge = true → d.fc.lullIn = false → s.makes (.lullSample true) fell) ∧
      (d.atEdge = true → d.fc.lullIn = true →
        (d.fc.origin + 64 ≤ d.edgeTime → d.fc.slip = false → s.makes (.lullSample true) (now fell)) ∧
        (d.fc.origin + 64 ≤ d.edgeTime → d.fc.slip = true → s.makes (.lullSample true) fell) ∧
        (d.edgeTime < d.fc.origin + 64 → d.fc.slipPrev = false → d.fc.lastRel ≠ some (d.fc.sstep - 1) → s.makes (.lullSample true) (previous fell)))) ∧
    ∀ (src : PktSrc) (k : Pkt) (r : RxPkt) (e : Dev), d.arrived src 2 = some (k, r, e) → k.dst = d.position → k.vc = 2 → k.type = 9 → k.sub = 2 →
      k.epoch = d.epoch → d.fc.kids.length = d.fabChildren → d.fc.kids.Nodup → k.src ∈ up d ++ d.fc.kids →
      let n : Word := BitVec.ofNat 32 (k.jetFields.toNat % 2 ^ 32)
      (d.fc.known.contains n = true → s.makes (.slip src) e) ∧
      (d.fc.known.contains n = false →
        let heard : Dev := { e with fc := { d.fc with known := n :: d.fc.known } }
        let sent := ((up d ++ d.fc.kids).filter fun x => x ≠ k.src).foldl (fun x y => x.jet none y 2 k.jetFields.toNat k.body) heard
        sent.fc = heard.fc →
        (n = d.fc.sstep + 1 → s.makes (.slip src) { sent with fc := { heard.fc with heldSlip := true } }) ∧
        (n = d.fc.sstep → d.fc.slip = false → s.makes (.slip src) (now sent)) ∧
        (n = d.fc.sstep - 1 → d.fc.slipPrev = false → d.fc.lastRel ≠ some (d.fc.sstep - 1) → s.makes (.slip src) (previous sent)) ∧
        ((n - d.fc.sstep).toInt < -1 ∨ 1 < (n - d.fc.sstep).toInt → s.makes (.slip src) (sent.raise .tmb 3).disarm))

/-! ### Fabric links -/

/-- R404 to R408, R410, R411, R415: frames of an ACTIVE link. Every frame that passes the CRC and whose ack lies in the window gives back the frames that
the ack covers and the credits it counts. DATA with the expected number is delivered, here a whole packet that begins in its first unit; an earlier
one is a duplicate, another one a gap that calls for a NAK, as a bad CRC and a NULL with another number do. A NAK, and an acknowledge that does not
come, start a replay, or take the link down once a frame has been replayed retry_max times. A port whose VC3 has nothing to send sends a NAK first,
then the next frame of a replay, then new DATA (here one whole packet of VC0), else a NULL; every frame carries the acknowledge of the last frame
accepted and the credit count of one VC in turn. That a NULL with the expected number clears the NAK condition, that retry_max is compared when a
replay begins, and that a NAK with an empty buffer starts none are the model's choices (log entry 25). -/
def Obligations.LinkFrames : Prop :=
  ∀ (s : State) (p : Fin 12), s.dev.clocked = true →
    let d := s.dev
    let x := d.fport p
    let page := Page.fport p
    x.state = .active →
    (∀ (raw : BitVec 2048),
      let f := parseFrame raw
      let n := (f.ack + 1 + 4096 - x.oldest.toNat) % 4096
      let clean : FecNote := { fixed := [], lost := [] }
      let heard := d.setFport p { x with rxHold := false, lock := 0xFF, signal := 0xFF }
      let nak (e : Dev) : Dev := e.modPort p fun y => { y with nakCond := true, nakDue := y.nakDue || !y.nakOut }
      let replays (e : Dev) : Dev := match (e.fport p).retry with
        | [] => e
        | g :: _ => if e.retryMax p ≤ g.replays then (e.raise page 3).linkDown p
          else ((e.modPort p fun y => { y with replay := some 0 }).bump page 0x140 1).slotEvent 1
      (f.crcOk = false →
        let wrong := nak (heard.bump page 0x110 1)
        s.makes (.dataFrame p raw clean) wrong ∧ s.makes (.nullFrame p raw clean) wrong ∧ s.makes (.nak p raw clean) wrong ∧
        s.makes (.exch p raw clean) wrong) ∧
      (f.crcOk = true → n ≤ x.retry.length →
        let used := (heard.releaseFrames p n).useCredit p f.cvc f.ccount
        let y := (used.fport p).vc f.vc
        (f.type = 1 → f.units ≠ 0 →
          (f.seq = x.expect.toNat → f.start = 1 → headerUnits (f.payload.take 16) = f.units → y.part = none →
            s.makes (.dataFrame p raw clean) ((used.modPort p fun z => { z.setVc f.vc { y with
                rx := y.rx ++ [{ bytes := f.payload.take (16 * f.units), stamp := d.tmb.time8, rp := f.rp }] } with
              expect := z.expect + 1, nakDue := false, nakOut := false, nakCond := false }).bump page 0x108 1)) ∧
          (f.seq ≠ x.expect.toNat → (x.expect.toNat + 4096 - f.seq) % 4096 ≤ 2048 → s.makes (.dataFrame p raw clean) (used.bump page 0x120 1)) ∧
          (f.seq ≠ x.expect.toNat → 2048 < (x.expect.toNat + 4096 - f.seq) % 4096 →
            s.makes (.dataFrame p raw clean) (nak (used.bump page 0x128 1)))) ∧
        (f.type = 1 ∧ f.units = 0 ∨ 4 ≤ f.type → s.makes (.dataFrame p raw clean) ((used.bump page 0x118 1).raise page 2)) ∧
        (f.type = 0 → s.makes (.nullFrame p raw clean) (if f.seq ≠ x.expect.toNat then nak used
          else used.modPort p fun z => { z with nakCond := false })) ∧
        (f.type = 2 → s.makes (.nak p raw clean) (replays used)) ∧
        (f.type = 3 → s.makes (.exch p raw clean) used))) ∧
    (∀ (g : RetryFrame) (rest : List RetryFrame), x.retry = g :: rest →
      (g.replays < d.retryMax p → s.makes (.ackTimeout p)
        (((d.setFport p { x with replay := some 0 }).bump page 0x140 1).slotEvent 1)) ∧
      (d.retryMax p ≤ g.replays → s.makes (.ackTimeout p) ((d.raise page 3).linkDown p))) ∧
    (x.retry = [] → s.makes (.ackTimeout p) d) ∧
    (x.nakOut = true → s.makes (.nakRepeat p) (d.setFport p { x with nakOut := false, nakDue := x.nakCond })) ∧
    ((x.vc 3).tx = [] →
      let next := x.nextSeq.toNat
      let idle (z : Fport) : Dev := d.setFport p { z with sinceVc3 := 0 }
      let emits (e : Dev) (type vc units start : Nat) (rp : Bool) (payload : List Byte) (seq : Nat) : Dev :=
        let y := e.fport p
        (e.setFport p { y with cvc := (y.cvc + 1) % 4 }).emit (.frame p (buildFrame
          { type := type, vc := vc, units := units, start := start, cvc := y.cvc, ccount := (y.vc y.cvc).freed.toNat, rp := rp,
            payload := payload, seq := seq, ack := (y.expect - 1).toNat, crcOk := true }))
      (x.nakDue = true → s.makes (.frameSend p)
        ((emits (idle { x with nakDue := false, nakOut := true }) 2 0 0 0 false [] next).bump page 0x138 1)) ∧
      (x.nakDue = false → x.replay = none → (x.vc 0).tx = [] → (x.vc 1).tx = [] → (x.vc 2).tx = [] →
        s.makes (.frameSend p) (emits (idle x) 0 0 0 0 false [] next)) ∧
      (∀ k g, x.nakDue = false → x.replay = some k → x.retry[k]? = some g →
        let resent := setNth x.retry k { g with replays := g.replays + 1, resent := true }
        s.makes (.frameSend p) (((emits (idle { x with
            retry := resent, replay := if k + 1 < resent.length then some (k + 1) else none }) 1 g.vc g.units g.start true
            g.payload g.seq).bump page 0x100 1).bump page 0x148 1)) ∧
      (∀ (bytes : List Byte) (m : Nat), x.nakDue = false → x.replay = none → (x.vc 1).tx = [] → (x.vc 2).tx = [] →
        (x.vc 0).tx = [(false, bytes)] → (x.vc 0).txOff = 0 → bytes.length = 16 * m → 0 < m → m ≤ 15 → m ≤ (x.vc 0).avail →
        (parsePkt bytes).type ≠ 9 → x.retry.length < 2048 →
        let sent : RetryFrame := { seq := next, vc := 0, units := m, start := 1, payload := bytes, replays := 0, sent := d.ns, resent := false }
        s.makes (.frameSend p) ((emits (idle { x.setVc 0 { x.vc 0 with tx := [], avail := (x.vc 0).avail - m } with
          nextSeq := x.nextSeq + 1, retry := x.retry ++ [sent] }) 1 0 m 1 false bytes next).bump page 0x100 1)))

/-- R412 to R418: training and outages. DETECT goes to ALIGN where coefficients are saved and to EQUALIZE otherwise, and is kept while the link die has no
reference, which follows what is told of it (R702); EQUALIZE goes to ALIGN, and ALIGN to EXCHANGE; a timeout goes back and is counted, and the eighth
in a row raises LINK_TRAIN_FAIL. In EXCHANGE a port sends its record, and takes the peer's: it keeps numbering and credit, or restarts them where the
peer or the port itself is new (here with an ack in the window, and before its own record is sent); once it has taken the peer's, its own record makes
it ACTIVE, and the frames it holds are replayed. Silence, a training pattern and a retrain command take an ACTIVE link down. FLUSH drops the frames
that a link which is not up holds. That LINK_TRAIN_FAIL is raised at each eighth timeout in a row and that packets received in part are dropped when
the peer is new are the model's choices (log entry 26). -/
def Obligations.LinkTraining : Prop :=
  ∀ (s : State) (p : Fin 12),
    let d := s.dev
    let x := d.fport p
    let page := Page.fport p
    let into (i : Instr) (y : Fport) := s.makes i (d.setFport p y)
    (d.clocked = true →
      (let sees (r : Bool) := Instr.signalDetect { port := p, ref := r }
       let ref (r : Bool) : BitVec 2 := if p.val < 6 then (d.pins.fref &&& 2#2) + BitVec.ofNat 2 (b2n r)
         else (d.pins.fref &&& 1#2) + BitVec.ofNat 2 (2 * b2n r)
       let told (r : Bool) : Dev := { d with pins := { d.pins with fref := ref r } }
       s.makes (sees false) (told false) ∧ (x.state ≠ .detect → s.makes (sees true) (told true)) ∧
       (x.state = .detect → s.makes (sees true) ((told true).setFport p
         { x with state := if x.fast then .align else .equalize, signal := 0xFF }))) ∧
      (x.state = .equalize → into (.equalizeDone p) { x with state := .align }) ∧
      (x.state = .align → into (.alignDone p) { x with state := .exchange, lock := 0xFF, exchSent := false, exchOk := false }) ∧
      (x.state = .down → into (.downExpire p) { x with state := .detect, lock := 0 }) ∧
      (let late (st : LinkState) (fast : Bool) : Prop :=
         let counted := (d.setFport p { x with state := st, fast := fast, fails := (x.fails + 1) % 8, lock := 0 }).bump page 0x160 1
         s.makes (.trainTimeout p) (if x.fails = 7 then counted.raise page 5 else counted)
       (x.state = .equalize ∨ x.state = .exchange → late .detect x.fast) ∧
       (x.state = .align → late (if x.fast then .equalize else .detect) false)) ∧
      (x.state = .exchange →
        let sent : Dev := (d.emitFrame p 3 0 0 0 false (d.exchPayload p) x.nextSeq.toNat).modPort p fun y => { y with exchSent := true }
        let active : Dev := sent.modPort p fun y => { y with
          state := .active, fast := true, fails := 0, flushed := false, exchOk := false, reached := true,
          retry := y.retry.map fun f => { f with replays := 0 } }
        s.makes (.exchSend p) (if !x.exchOk then sent else if x.retry = [] then active
          else ((active.modPort p fun y => { y with replay := some 0 }).bump page 0x140 1).slotEvent 1)) ∧
      (∀ raw : BitVec 2048, let f := parseFrame raw
        let acked := (f.ack + 1 + 4096 - x.oldest.toNat) % 4096
        x.state = .exchange → f.crcOk = true → f.type = 3 → acked ≤ x.retry.length → x.exchSent = false →
        let r := parseExch f.payload
        let used := ((d.setFport p { x with rxHold := false, lock := 0xFF, signal := 0xFF }).releaseFrames p acked).useCredit p f.cvc f.ccount
        let heard := used.fport p
        let takes (i : Instr) (y : Fport) := s.makes i (used.setFport p y)
        let learn (y : Fport) : Fport := { y with peer := some (r.pos, r.port), peerInc := some r.inc, exchOk := true }
        let n := (r.expected + 4096 - heard.oldest.toNat) % 4096
        let exch := Instr.exch p raw { fixed := [], lost := [] }
        (x.peerInc = some r.inc → x.flushed = false → n ≤ heard.retry.length → r.restart = false →
          takes exch (learn (({ heard with retry := heard.retry.drop n }).keepCredit r))) ∧
        (x.peerInc = none → r.restart = false →
          takes exch { learn (({ heard with retry := [], nextSeq := 0 }).freshCredit r) with flushed := true }) ∧
        (∀ i, x.peerInc = some i → i ≠ r.inc →
          let told := (used.setFport p (learn (({ heard.dropParts with retry := [], expect := 0, nextSeq := 0 }).freshCredit r))).raise page 6
          (told.fport p).exchSent = false → s.makes exch told))) ∧
    (d.clocked = true → x.state = .active →
      (∀ (held : Bool) (signal lock : Byte), lock ≠ 0xFF →
        into (.rxSilence p held signal lock) { x with rxHold := held, signal := signal, lock := lock }) ∧
      (x.lock ≠ 0xFF → x.rxHold = true → s.makes (.rxHoldExpire p)
        (((d.setFport p { x with rxHold := false }).bump page 0x150 1).modPort p fun y =>
          { y with nakCond := true, nakDue := y.nakDue || !y.nakOut })) ∧
      (let down (lock : Byte) : Dev := (((d.setFport p { x with
         state := .down, lock := lock, rxHold := false, replay := none, nakDue := false, nakOut := false, nakCond := false }).bump page 0x158 1).raise
           page 4).slotEvent 4
       let gone (e : Dev) : Dev := if e.tmb.state = .locked ∧ e.timeParent = some p.val then e.setTime .holdover else e
       (x.lock ≠ 0xFF → s.makes (.silenceDown p) (gone (down x.lock))) ∧ s.makes (.trainingPatternRx p) (gone (down 0)))) ∧
    (d.pageAnswers page = true →
      let free : Dev := { d with heldLo := d.heldLo.erase 0 }
      (∀ w : Word,
        let set := free.setPreg page 0x80 (w &&& 0xFF01#32)
        (bit w 0 = false → s.makes (.trainEnWrite p w) (set.setFport p { x with
          state := .disabled, fast := false, rxHold := false, replay := none, nakDue := false, nakOut := false, nakCond := false,
          signal := 0, lock := 0 })) ∧
        (bit w 0 = true → x.state = .disabled → d.pwr.calm = .run → d.pageOn page = true → d.isFenced (.port p) = false →
          s.makes (.trainEnWrite p w) (set.setFport p { x with state := .detect })) ∧
        (bit w 0 = true → x.state ≠ .disabled ∨ d.isFenced (.port p) = true ∨ d.pwr.calm ≠ .run → s.makes (.trainEnWrite p w) set)) ∧
      (x.state = .active → s.makes (.retrain p) (free.linkDown p)) ∧ (x.state ≠ .active → s.makes (.retrain p) free) ∧
      (x.state = .disabled ∨ x.state = .down ∨ x.state = .detect →
        s.makes (.flush p) (free.setFport p { x with retry := [], flushed := true })) ∧
      (x.state = .active ∨ x.state = .exchange ∨ x.state = .align ∨ x.state = .equalize → s.makes (.flush p) free))

/-! ### The global memory space -/

/-- R227, R228, R427, R432 to R434, R448, R458: a request that has arrived is served at the spot that its address names. A read answers its bytes in parts
of 256; a write and an add store, count a landing where they are told to, and answer ACK, a pool write behind an open merge window once all of it is
written; the statuses of the table are answered as ERR without an effect (here no mirror and no landing watch is touched, and an add is of one word of
HBM). A request of another epoch is dropped and counted, and the fabric page's en = 0 answers DISABLED. -/
def Obligations.RequestsServed : Prop :=
  ∀ (s : State) (src : PktSrc) (k : Pkt) (r : RxPkt) (e : Dev), s.dev.clocked = true → s.dev.arrived src 0 = some (k, r, e) →
    k.dst = s.dev.position → k.vc = 0 →
    let d := s.dev
    let cmds : List (Nat × Instr) := [(1, .rd src), (2, .wr src), (3, .wrl src), (4, .add src)]
    let home := e.homeOf (srcCore src) k.addr
    let ack (x : Dev) : Dev := x.reply home k 6 0 0 []
    let err (status : Nat) : Dev := e.sendErr k.src k.rs k.tid status
    let data := (k.body.drop 16).take k.reqBytes
    let spot := e.spotBy (srcCore src) k.addr (if k.type = 1 then k.reqBytes else data.length)
    (∀ p, src = .port p → k.epoch ≠ d.epoch → k.epoch < 65536 → ∀ c ∈ cmds, c.1 = k.type →
      s.makes c.2 (if 0x8000 ≤ (k.epoch + 65536 - d.epoch) % 65536 then e.bump .fab 0x100 1 else (e.bump .fab 0x108 1).raise .fab 2)) ∧
    (k.epoch = d.epoch →
      (∀ p, src = .port p → d.pageOn .fab = false → ∀ c ∈ cmds, c.1 = k.type → s.makes c.2 (err 7)) ∧
      (d.pageOn .fab = true ∨ (∃ i, src = .die i) →
        (∀ status, spot = .error status → ∀ c ∈ cmds, c.1 = k.type → s.makes c.2 (err status)) ∧
        (∀ a, spot = .ok (.hbm a) →
          (k.type = 1 → s.makes (.rd src) ((List.range ((k.reqBytes + 255) / 256)).foldl (fun x i =>
            x.reply home k 5 0 i (((d.hbm.readBytes a k.reqBytes).drop (256 * i)).take 256)) e)) ∧
          (d.mirrorsOf a data.length = [] →
            let stored : Dev := { e with hbm := d.hbm.writeBytes a data }
            (k.type = 2 → s.makes (.wr src) (ack stored)) ∧ (k.type = 3 → s.makes (.wrl src) (ack stored)) ∧
            (∀ (w : Word), data = bytesLE 4 w.toNat → k.type = 4 → fld k.ext 35 2 < 2 → s.makes (.add src)
              (ack { e with hbm := d.hbm.setWord a (if fld k.ext 35 2 = 0 then d.hbm.word a + w else (wAdd (d.hbm.word a) w).1) })))) ∧
        (∀ c o, spot = .ok (.pool c o) →
          (d.poolSpanServed c o k.reqBytes = true → k.type = 1 →
            s.makes (.rd src) ((List.range ((k.reqBytes + 255) / 256)).foldl (fun x i =>
              x.reply home k 5 0 i ((((d.poolNow c).readBytes o k.reqBytes).drop (256 * i)).take 256)) e)) ∧
          (d.poolSpanServed c o data.length = true → k.type = 2 →
            let held := e.poolWriteUnit c o data (.reply k.src k.rs k.tid k.addr)
            s.makes (.wr src) (if d.poolHolds c o data.length then held else ack held)) ∧
          (d.poolSpanServed c o data.length = false → k.type = 2 → s.makes (.wr src) (err 8)) ∧
          (d.poolSpanServed c o k.reqBytes = false → k.type = 1 → s.makes (.rd src) (err 8)) ∧
          (k.type = 4 → s.makes (.add src) (err 8))) ∧
        (∀ t o, spot = .ok (.spad t o) →
          let x := d.tile t
          let lc := fld k.ext 17 6
          let stored := x.spad.writeBytes o data
          let count := BitVec.ofNat 32 (if bit (stored.word (if lc < 32 then 0x4FD00 else 0x4FD04)) (lc % 32) then data.length else 1)
          (o + data.length ≤ 0x48000 → x.inWindow o data.length = true →
            (k.type = 2 → s.makes (.wr src) (ack (e.setTile t { x with spad := stored }))) ∧
            (k.type = 3 → x.lwatch.get? lc = none → s.makes (.wrl src) (ack (e.setTile t
              { x with spad := stored.setWord (lcAddr lc) (stored.word (lcAddr lc) + count) })))) ∧
          (o + data.length ≤ 0x48000 → x.inWindow o data.length = false →
            (k.type = 2 → s.makes (.wr src) (err 2)) ∧ (k.type = 3 → s.makes (.wrl src) (err 2))) ∧
          (0x48000 < o + data.length → (k.type = 2 → s.makes (.wr src) (err 8)) ∧ (k.type = 3 → s.makes (.wrl src) (err 8))) ∧
          (o + k.reqBytes ≤ 0x48000 → k.type = 1 → s.makes (.rd src) ((List.range ((k.reqBytes + 255) / 256)).foldl (fun y i =>
            y.reply home k 5 0 i (((x.spad.readBytes o k.reqBytes).drop (256 * i)).take 256)) e)) ∧
          (0x48000 < o + k.reqBytes → k.type = 1 → s.makes (.rd src) (err 8)))))

/-- R431, R435, R436, R438 to R441: replies and forwarding. An ACK, and the parts of a read, count down their outstanding request, and the last one
completes it: an RQ operation takes its data and status 0. A reply that names no outstanding request is counted. An ERR ends its request, is recorded
as the last one received and is told to the issuer: an RQ operation takes its status, an exchange write raises REMOTE_ERROR, a stream's segment fails.
A packet for another package goes out on the port that its route names with one hop less, or is dropped and counted; one of no known type, or on
another VC than its type's, is dropped and counted; a management packet for this package goes to the MC, and another one for this package stays for
its own command, but a JET of no known subtype, which only its epoch is checked of. The core at which a reply of no core's unit enters the die network
is the model's choice (log entry 27). -/
def Obligations.RepliesAndForwarding : Prop :=
  ∀ (s : State), s.dev.clocked = true →
    let d := s.dev
    (∀ (src : PktSrc) (k : Pkt) (r : RxPkt) (e : Dev), d.arrived src 1 = some (k, r, e) → k.dst = d.position → k.vc = 1 → k.epoch = d.epoch →
      (d.reqOf k.tid = none → ∀ c ∈ [(5, Instr.rdr src), (6, .ack src), (7, .err src)], c.1 = k.type → s.makes c.2 (e.bump .fab 0x118 1)) ∧
      ∀ q, d.reqOf k.tid = some q →
        let waits (left : Nat) (parts : Tbl (List Byte)) : Dev := { e with
          outReqs := d.outReqs.map fun x => if x.tid = q.tid then { q with left := left, parts := parts } else x }
        let ended : Dev := { e with outReqs := d.outReqs.filter fun x => x.tid != q.tid }
        let part := k.w1 / 2 ^ 24 % 4
        (k.type = 6 → q.type ≠ 1 →
          (1 < q.left → s.makes (.ack src) (waits (q.left - 1) q.parts)) ∧
          (q.left ≤ 1 → ∀ t bg, q.issuer = .put t bg → s.makes (.ack src) ended.drain) ∧
          (q.left ≤ 1 → q.issuer = .rq → s.makes (.ack src) (ended.setPreg .fab 0xC8 0).drain)) ∧
        (k.type = 5 → q.type = 1 → q.parts.get? part = none →
          (1 < q.left → s.makes (.rdr src) (waits (q.left - 1) (q.parts.set part k.body))) ∧
          (q.left ≤ 1 → q.issuer = .rq → q.parts.cells = [] → s.makes (.rdr src)
            ((ended.setPreg .fab 0xC8 0).setPreg .fab 0xCC (BitVec.ofNat 32 (ofBytesLE (k.body.take 4)))).drain)) ∧
        (k.type = 5 → q.type = 1 → (q.parts.get? part).isSome = true → s.makes (.rdr src) (e.bump .fab 0x118 1)) ∧
        (k.type = 7 → q.left ≤ 1 →
          let status := k.w1 / 65536 % 256
          let told : Dev := (((ended.setPreg .fab 0xA4 (packFields 32 [(0, status), (8, q.type), (16, k.src)])).setPreg .fab 0xA8
            (d.issuerInfo q.issuer)).setPreg .fab 0xB0 (loWord q.addr)).setPreg .fab 0xB4 (hiWord q.addr)
          (q.issuer = .rq → s.makes (.err src) (told.setPreg .fab 0xC8 (BitVec.ofNat 32 (2 * status))).drain) ∧
          (∀ t bg, q.issuer = .put t bg → s.makes (.err src) (told.raise .fab 0).drain) ∧
          (∀ c n seg, q.issuer = .stream c n seg → s.makes (.err src) (told.segFail seg 33).drain))) ∧
    ∀ (p : Fin 12) (v : Fin 4) (k : Pkt) (r : RxPkt) (e : Dev), d.arrived (.port p) v = some (k, r, e) →
      let forward := Instr.packetForward p v
      let dropped := if k.isRequest then e.routeDrop.sendErr k.src k.rs k.tid 4 else e.routeDrop
      (k.typeOk = false ∨ k.vc ≠ v → s.makes forward (e.bump .fab 0x120 1)) ∧
      (k.typeOk = true → k.vc = v →
        (k.dst = d.position → k.type = 10 → s.makes forward { e with sent := d.sent ++ [.mgmt k.bytes] }) ∧
        (k.dst = d.position → k.type ≠ 10 → (k.type = 9 → k.sub ≤ 6) → s.makes forward d) ∧
        (k.dst = d.position → k.type = 9 → 6 < k.sub → let behind := (k.epoch + 65536 - d.epoch) % 65536
          s.makes forward (if behind = 0 then e else if 0x8000 ≤ behind then e.bump .fab 0x100 1
            else (e.bump .fab 0x108 1).raise .fab 2)) ∧
        (k.dst ≠ d.position → k.ttl = 0 → s.makes forward dropped) ∧
        (k.dst ≠ d.position → k.ttl ≠ 0 → e.routeOf k.rs k.dst (some p) = none → s.makes forward dropped) ∧
        ∀ q bubble, k.dst ≠ d.position → k.ttl ≠ 0 → e.routeOf k.rs k.dst (some p) = some (q, bubble) →
          let next : Pkt := { k with ttl := k.ttl - 1 }
          s.makes forward ((if p / 3 = q / 3 then e.queueTx q bubble next else e.sendOut (portCore p) q bubble next).bump .fab 0x138 1))

/-- R447, R454 to R458: an epoch write activates what is staged for it, ends the outstanding remote requests with status EPOCH, and later packets carry
the new value. TKO_CMD probes the entries that are PROBING; a package answers a probe for its position at once, the answer to the current attempt
confirms its entry, any other is counted, and the last attempt without an answer fails it. The RQ registers issue one read, write or add, which counts
as a host action, unless one is outstanding or no entry is free. -/
def Obligations.FabricManagement : Prop :=
  ∀ (s : State),
    let d := s.dev
    let free : Dev := { d with heldLo := d.heldLo.erase 0 }
    let ovr (i : Nat) : Word := d.preg .fab (0x804 + 8 * i)
    let probe (e : Dev) (i seq : Nat) : Dev :=
      let tried : Dev := { e with tko := e.tko.set i seq }
      if d.pageOn .fab && d.portUsable (fld (ovr i) 0 4) then
        tried.sendOut (portCore (fld (ovr i) 0 4)) (fld (ovr i) 0 4) false
          { type := 9, vc := 2, dst := fld (d.preg .fab 0x94) 0 16, src := d.position, rs := d.routeSet, ttl := d.ttl,
            epoch := d.epoch, w1 := 5 + 256 * (seq + 256 * i), body := [] }
      else tried.routeDrop
    (∀ (w : Word), d.pageAnswers .fab = true → d.rsl.snap = none → d.rsl.keyWait = false → d.mirQ = [] → d.fabWait = [] → d.collQ = [] → d.colls.cells = [] →
      (d.outReqs = [] ∨ ∃ q, d.outReqs = [q] ∧ q.issuer = .rq ∧ q.tid / 2048 ≠ 16) →
      let v := fld w 0 16
      let next := d.preg .fab 0x84
      let ctl := d.preg .fab 0x8C
      let moves : Prop := bit ctl 0 = true ∧ fld next 16 16 = v
      ∃ e : Dev, s.makes (.fabEpochWrite w) e ∧ e = { free with regs := e.regs, outReqs := [] } ∧ e.epoch = v ∧
        (moves → e.position = fld next 0 16 ∧ bit (e.preg .fab 0x8C) 0 = false) ∧
        (¬ moves → e.position = d.position ∧ e.preg .fab 0x8C = ctl) ∧
        (∀ i, i < 64 → e.preg .fab (0x804 + 8 * i) =
          if bit (ovr i) 5 = true ∧ bit (ovr i) 6 = true ∧ fld (ovr i) 16 16 = v then
            setFld (setBit (ovr i) 6 false) 8 2 (if bit (ovr i) 7 then 1 else 0) else ovr i) ∧
        (d.outReqs ≠ [] → e.preg .fab 0xC8 = 12)) ∧
    (d.pageAnswers .fab = true → ∀ i, i < 64 → (∀ j, j < 64 → (d.probing j = true ↔ j = i)) →
      s.makes .probeStart (probe { free with tkoRun := true } i 1)) ∧
    (d.clocked = true →
      (∀ (src : PktSrc) (k : Pkt) (r : RxPkt) (e : Dev), d.arrived src 2 = some (k, r, e) → k.dst = d.position → k.vc = 2 → k.type = 9 → k.epoch = d.epoch →
        let f := k.jetFields
        let i := fld f 8 6
        (k.sub = 5 → s.makes (.probe src) (e.jet none k.src 6 (fld f 0 8 + 256 * i + 16384 * d.position) [])) ∧
        (k.sub = 6 →
          let good : Prop := d.probing i = true ∧ d.tko.get? i = some (fld f 0 8) ∧ fld f 14 16 = fld (d.preg .fab 0x94) 0 16
          (good → s.makes (.probeAck src) { e.setPreg .fab (0x804 + 8 * i) (setFld (ovr i) 8 2 2) with tko := d.tko.erase i }) ∧
          (¬ good → s.makes (.probeAck src) (e.bump .fab 0x128 1)))) ∧
      ∀ (i : Fin 64) (seq : Nat), d.tko.get? i = some seq → d.probing i = true →
        let tries := max 1 (fld (d.preg .fab 0xA0) 24 4)
        (seq < tries → s.makes (.probeTimeout i) (probe d i (seq + 1))) ∧
        (tries ≤ seq → s.makes (.probeTimeout i)
          (({ d.setPreg .fab (0x804 + 8 * i) (setFld (ovr i) 8 2 3) with tko := d.tko.erase i } : Dev).raise .fab 3))) ∧
    (d.pageAnswers .fab = true →
      let a := (joinWords (d.preg .fab 0xBC) (d.preg .fab 0xB8)).toNat / 4 * 4
      (bit (d.preg .fab 0xC8) 0 = true ∨ d.canRequest (a / 2 ^ 48 % 65536) = false → s.makes .rqRead free ∧ s.makes .rqWrite free ∧ s.makes .rqAdd free) ∧
      (bit (d.preg .fab 0xC8) 0 = false → d.canRequest (a / 2 ^ 48 % 65536) = true →
        let asks (i : Instr) (type : Nat) (data : List Byte) := s.makes i
          ((free.hostAct.setPreg .fab 0xC8 1).request .rq a [{ type := type, addr := a, lc := 0, bytes := 4, fn := 0, data := data }])
        asks .rqRead 1 [] ∧ asks .rqWrite 2 (bytesLE 4 (d.preg .fab 0xC0).toNat) ∧ asks .rqAdd 4 (bytesLE 4 (d.preg .fab 0xC0).toNat)))

/-! ### Collectives -/

/-- R466, R467, R471: the life of a descriptor. A write sets it IDLE and clears its arrival counts while it is not RUNNING and its core is halted. A start
takes ready_target from ready_obj by an operation of the unit's channel, takes the ordinal and the live rank, clears the flags of the last run, and is
refused with a code, or runs; here a contributor of a BROADCAST that is not its root, which sends nothing. A descriptor whose dst is written whole and
that has no packet outstanding is DONE and adds done_val to done_obj; each word of dst is then used once (ISOBAR and PERMUTE, whose completion leaves
more, are not of this last clause). The model's choices (log entry 28): a subtraction from ready_obj still on its way is one of what a start needs,
the lowest code is given, and the code stays until the next start. -/
def Obligations.CollectiveDescriptors : Prop :=
  ∀ (s : State) (c : Fin 8) (n : Fin 64),
    let d := s.dev
    let k := d.cdesc c n
    let run := d.collRun c n
    let signal (e : Dev) (obj : Nat) (v : Word) : Dev :=
      ({ e with syncs := e.syncs ++ [{ chan := .coll c, core := c, what := .add obj v none }] } : Dev).injectFlits c 2 1
    (∀ (path : Path) (off : BitVec 12) (w : Word), d.pageAnswers (.coll c) = true → off.toNat / 64 = n →
      let free := { d with heldLo := d.heldLo.erase (pathNo path) }
      let o := coreBase c + 0xB000 + off.toNat / 4 * 4
      (run.state ≠ .running → d.coreHalted c = true → s.makes (.collDescWrite path c off w)
        ((free.wr o w).setColl c n { run with
          state := .idle, count := ⟨[]⟩, emax := ⟨[]⟩, sums := ⟨[]⟩, wrote := ⟨[]⟩, copied := false, issued := false, ports := [] }).hostAct) ∧
      (run.state = .running ∨ d.coreHalted c = false → s.makes (.collDescWrite path c off w) (free.ignored path o))) ∧
    (d.coreUp = true →
      let ready : Prop := k.valid = true ∧ (run.state = .idle ∨ run.state = .done) ∧
        k.readyTarget.toNat ≤ (d.objVal c k.readyObj).toNat ∧ d.collBusy c = false ∧
        (d.exchangeOpen = true ∨ d.fc.armed = false ∧ bit (d.preg (.coll c) 0x80) 0 = true) ∧ d.pageOn (.coll c) = true ∧
        d.isFenced (.core c) = false
      let code := if (d.collCode k = 0 ∨ 6 < d.collCode k) ∧ d.collResidual c k = true then 6 else d.collCode k
      let taken := signal d k.readyObj (0 - k.readyTarget)
      let begun : CollRun := { run with
        sat := false, nonfinite := false, ord := d.ownOrd k, lrank := ((List.range (d.ownOrd k)).filter fun o => d.isLive k o).length }
      (¬ ready → s.makes (.collStart c n) d) ∧
      (ready → code ≠ 0 → s.makes (.collStart c n) ((taken.setColl c n { begun with state := .refused, code := code }).setPreg (.coll c) 0x88
        (packFields 32 [(0, n), (8, code)]))) ∧
      (ready → code = 0 → k.op = 5 → k.root ≠ d.ownOrd k → s.makes (.collStart c n) (taken.setColl c n
        { begun with state := .running, code := 0, copied := false, issued := true }))) ∧
    (d.coreUp = true → run.state = .running → k.op ≠ 0 → k.op ≠ 3 → k.op ≠ 6 →
      let written : Prop := ∀ i, i < (d.dstSize k + 3) / 4 → run.wrote.getD i 0 ≠ 0
      (run.issued = false ∨ ¬ written ∨ d.collOutstanding c n = true → s.makes (.collComplete c n) d.fcSettle) ∧
      (run.issued = true → written → d.collOutstanding c n = false →
        let done := (d.setColl c n { run with
          state := .done, issued := false, copied := false, ports := []
          wrote := (run.wrote.mapVals fun _ x => x - 1).keep fun _ x => x ≠ 0 }).bump (.coll c) 0xB0 1
        s.makes (.collComplete c n) (if k.doneEn then signal done k.doneObj k.doneVal else done).fcSettle))

/-- R52, R427, R468 to R470, R473, R474, R477, R479, R481, R482: a COLL packet that its unit accepts is applied, counted and acknowledged (here no mirror
entry covers what it writes). An exponent and a contribution are counted for their block; the first contribution of a part is stored and a later one
combined with it, W32 and W64 sums exactly. Agreed exponents are stored; a finite block of another owner is converted by drizzle, a block of zeros to
zeros, and goes to the owner as WADD. Data of a VPUT go to their place in dst, and a WGATH gives its results, each of them counted and those within E
written. The contribution that completes its block is not stated here. A packet that does not fit the descriptor is refused and counted. The model's
choices (log entry 28): W32 and W64 sums are kept exactly beside the accumulation array, and an exponent of zero is not counted by the Barometer. -/
def Obligations.CollectivePackets : Prop :=
  ∀ (s : State) (src : PktSrc) (p : Pkt) (r : RxPkt) (e : Dev), s.dev.clocked = true → s.dev.arrived src 0 = some (p, r, e) →
    p.dst = s.dev.position → p.vc = 0 → p.type = 8 → p.epoch = s.dev.epoch → (s.dev.pageOn .fab = true ∨ ∃ i, src = .die i) →
    let d := s.dev
    let n := p.w1 / 16 % 64
    let l := p.w1 / 1024 % 8
    let c := d.physCore (srcCore src) l
    let k := d.cdesc c n
    let run := d.collRun c n
    let b := p.collBlock
    let fits : Prop := k.valid = true ∧ run.state ≠ .aborted ∧ run.state ≠ .refused ∧ subFits k p.collSub = true ∧
      d.inGroup k p.src = true ∧ d.ordinal k p.src = p.collOrd ∧ d.isLive k p.collOrd = true
    d.lcoreBound (srcCore src) l = true → d.isFenced (.core c) = false → d.pageOn (.coll c) = true →
    let cmds : List (Nat × Instr) := [(0, .maxe src), (1, .egath src), (2, .wadd src), (3, .wgath src), (4, .vmax src), (5, .vsum src), (6, .vput src)]
    (¬ fits → ∀ i ∈ cmds, i.1 = p.collSub ∨ i.1 = 0 ∧ 7 ≤ p.collSub →
      s.makes i.2 (((e.bump (.coll c) 0xA0 1).raise (.coll c) 1).sendErr p.src p.rs p.tid 8)) ∧
    (fits →
      let acks (i : Instr) (x : Dev) := s.makes i ((x.bump (.coll c) 0x98 1).reply (some c) p 6 0 0 [])
      let counted (r : CollRun) (part : Nat) : CollRun := { r with count := r.count.set (32 * b + part) (r.cnt b part + 1) }
      let filled (r : CollRun) (off len : Nat) : CollRun := { r with
        wrote := (List.range ((len + 3) / 4)).foldl (fun t i => t.set (off / 4 + i) (t.getD (off / 4 + i) 0 + 1)) r.wrote }
      let stored (i : Instr) (a : Nat) (data : List Byte) (after : CollRun) := d.mirrorsOf a data.length = [] →
        acks i ({ e with hbm := d.hbm.writeBytes a data }.setColl c n after)
      let exp : Int := (BitVec.ofNat 16 (ofBytesLE (p.collData.take 2))).toInt
      (p.collSub = 0 → p.collNval = 1 → run.cnt b 16 + 1 ≠ k.live → acks (.maxe src) (e.setColl c n { counted run 16 with
        emax := run.emax.set b (match run.emax.get? b with | some x => max x exp | none => exp) })) ∧
      (p.collSub = 1 → p.collNval = 1 → d.mirrorsOf (d.emaxAddr k b) 2 = [] →
        let agreed : Dev := { e with hbm := d.hbm.writeBytes (d.emaxAddr k b) (bytesLE 2 (BitVec.ofInt 16 exp).toNat) }
        let own := agreed.ownerOf k b
        (exp = 32767 → acks (.egath src) agreed) ∧
        (exp = -32768 → own ≠ d.ownOrd k →
          acks (.egath src) ((List.range k.wb).foldl (fun x part =>
            x.collSend (x.msgTo k c n 2 own b part 0 (List.replicate 256 0))) agreed)) ∧
        (exp ≠ 32767 → exp ≠ -32768 → own ≠ d.ownOrd k →
          acks (.egath src) ((List.range k.wb).foldl (fun x part =>
            if (x.collRun c n).state = .aborted then x else
            let ws := (List.range (256 / k.wb)).map fun i =>
              let j := 256 * b + 256 / k.wb * part + i
              convToW (8 * k.wb) (.drizzle (x.draw c (x.tag c k.tag).id (k.ibase + j))) (x.srcVal k j) (x.blockSigma k exp)
            let y := x.baroUnit c 1 k.tag (if k.wb = 4 then 11 else 12) ws
            y.collSend (y.msgTo k c n 2 own b part 0 (ws.flatMap fun w => bytesLE k.wb w.enc))) agreed))) ∧
      (p.collSub = 2 → (counted run p.collPart).full b k.wb k.live = false →
        let a := d.wAddr k b p.collPart
        (run.cnt b p.collPart = 0 → stored (.wadd src) a p.collData (counted run p.collPart)) ∧
        (run.cnt b p.collPart ≠ 0 → stored (.wadd src) a (addParts k.wb (d.hbm.readBytes a 256) p.collData) (counted run p.collPart))) ∧
      (p.collSub = 3 →
        let per := 256 / k.wb
        let first := 256 * b + per * p.collPart
        let len := min per (k.count - first)
        let ws := (List.range per).map fun i => wElem k.wb i p.collData
        let exp := d.agreed k b
        let cs := ws.map fun w => wResult w (d.blockSigma k exp) k.live
        let after : CollRun := { filled run (4 * first) (4 * len) with
          nonfinite := run.nonfinite || (len ≠ 0 && exp = 32767), sat := run.sat || (exp ≠ 32767 && (ws.take len).any fun w => w = wSat 64) }
        d.mirrorsOf (hbmOff k.dst + 4 * first) (4 * len) = [] →
        acks (.wgath src) (({ e with hbm := d.hbm.writeBytes (hbmOff k.dst + 4 * first) ((cs.take len).flatMap fun (x : Conv) => bytesLE 4 x.enc)
          }.setColl c n after).baroUnit c 1 k.tag 2 cs)) ∧
      (∀ i : Instr, (p.collSub = 4 ∧ i = .vmax src) ∨ (p.collSub = 5 ∧ i = .vsum src) → (counted run p.collPart).full b (k.parts b) k.live = false →
        p.collData.length = 256 →
        let a := d.accAddr k b p.collPart
        let new := run.cnt b p.collPart = 0
        (k.sumsW = false →
          (new → stored i a (if k.op = 1 then combineParts k p.collData p.collData else p.collData) (counted run p.collPart)) ∧
          (¬ new → stored i a (combineParts k (d.hbm.readBytes a 256) p.collData) (counted run p.collPart))) ∧
        (k.sumsW = true →
          let sums := if new then wInts k.eb p.collData else addInts (run.sums.getD (32 * b + p.collPart) []) (wInts k.eb p.collData)
          stored i a (intsW k.eb sums) { counted run p.collPart with sums := run.sums.set (32 * b + p.collPart) sums })) ∧
      (p.collSub = 6 → (k.op = 4 ∨ k.op = 5) →
        let off := 256 * k.eb * b + 256 * p.collPart
        let data := p.collData.take (k.bytes - off)
        let slot := if k.op = 4 then p.collOrd * k.bytes else 0
        stored (.vput src) (hbmOff k.dst + slot + off) data (filled run (slot + off) data.length)))

/-! ### Step commit (17, 19, 23) -/

/-- R30, R208, R505 to R507, R529, R651 to R656: a posted piece is stored, or counted where its entry or piece is not valid, or where it differs from the
stored one it marks the entry conflicted, and the first conflict of a step makes both tiles SUSPECT. A flushed line adds to its bank. The commit
begins once it is due: the lines of the step's parity leave, the ratio accumulators close. The digests, the 4,096-byte keystone and the 256-byte
journal record are made when the markers have come and no post of the step is left; its bank closes and the other bank stays. The held bundle, whole
lines of 64 bytes, is written when it fits, after a pad where it needs one, the phase byte last; it is let go unwritten where it does not fit and is
to be discarded, and is held otherwise, which HIF_EVT_STAT shows at each attempt and a fault reports once. The slips and the forced release of the
step after, if its first origin has passed, go on in the next record. Barometer records come from the bank as it stands then, and the bank is cleared
with the bundle. A scalar record is kept for its step with its identity's bits [15:0]. The model's choices here (log entry 35): a slip or a forced
release between the origin and the record counts for the step after, and the place of the scalar records in a bundle. -/
def Obligations.CommitRecords : Prop :=
  ∀ (s : State), s.dev.mainUp = true →
    let d := s.dev
    let par := bit d.rsl.step 0
    (∀ (i : Nat) (p : Post) (rest : List Post), takeInOrder (fun (p : Post) => p.tile) d.posts i = some (p, rest) →
      let taken : Dev := { d with posts := rest }
      let n := fld p.id 0 8
      let j := fld p.id 8 24
      let k := pieceKey p.parity n j
      let valid : Prop := d.fgpValid n = true ∧ j < d.fgpParts n
      let mark := 256 * b2n p.parity + n
      (p.kind = true → s.makes (.fingerprintPost i) { taken with rsl := {
        d.rsl with scalars := d.rsl.scalars ++ [{ p with id := p.id &&& 0xFFFF#32 }] } }) ∧
      (p.kind = false → ¬ valid → s.makes (.fingerprintPost i)
        (taken.setPreg .tel 0x324 (satAdd (d.preg .tel 0x324) 1))) ∧
      (p.kind = false → valid → d.rsl.pieces.get? k = none → s.makes (.fingerprintPost i)
        { taken with rsl := { d.rsl with pieces := d.rsl.pieces.set k p.value, pieceBy := d.rsl.pieceBy.set k p.tile } }) ∧
      (p.kind = false → valid → d.rsl.pieces.get? k = some p.value → s.makes (.fingerprintPost i) taken) ∧
      (∀ v, p.kind = false → valid → d.rsl.pieces.get? k = some v → v ≠ p.value →
        let marked := if d.rsl.conflicts.contains mark then d.rsl.conflicts else d.rsl.conflicts ++ [mark]
        let counted := ({ taken with rsl := { d.rsl with conflicts := marked } } : Dev).setPreg .tel 0x328 (satAdd (d.preg .tel 0x328) 1)
        ((∃ c, c ∈ d.rsl.conflicts ∧ c / 256 = b2n p.parity) → s.makes (.fingerprintPost i) counted) ∧
        ((∀ c, c ∈ d.rsl.conflicts → c / 256 ≠ b2n p.parity) → s.makes (.fingerprintPost i)
          ((counted.markSuspect (.tile (d.rsl.pieceBy.getD k p.tile)) 1 0).markSuspect (.tile p.tile) 1 0)))) ∧
    (∀ (i c : Nat) (l : BaroLine), d.baroFly[i]? = some (c, l) →
      let k := bankKey l.parity c l.tag l.fmt
      let b := d.rsl.baro.getD k BaroSum.reset
      s.makes (.barometerFlush i) { d with
        baroFly := d.baroFly.take i ++ d.baroFly.drop (i + 1)
        rsl := { d.rsl with
          baro := d.rsl.baro.set k
            ({ conv := b.conv + l.conv, van := b.van + l.van, cla := b.cla + l.cla, sub := b.sub + l.sub } : BaroSum) } }) ∧
    (d.coreUp = true →
      let p := bit (d.preg (.num (d.corePhys 0)) 0x88) 0
      (d.commitDue = false → s.makes .commitBegin d) ∧
      (d.commitDue = true → ∃ e : Dev, s.makes .commitBegin e ∧
        e = { d with
          tiles := e.tiles, unitBaro := e.unitBaro, baroFly := e.baroFly, ctrs := e.ctrs, noc := e.noc, draws := e.draws
          rsl := { d.rsl with phase := .drain, step := d.preg (.num (d.corePhys 0)) 0x88, placed := []
                              originSeen := d.fc.armed && d.fc.begun } } ∧
        ∀ t, (e.tile t).baro = (d.tile t).baro.filter (fun l => l.parity != p) ∧
          (∀ l, l ∈ (d.tile t).baro → l.parity = p → (tileCore t, l) ∈ e.baroFly) ∧
          ∀ layer, (e.tile t).ratio.getD layer Ratio.reset =
            let r := (d.tile t).ratio.getD layer Ratio.reset
            if r.count = 0 then r else { r with closed := true })) ∧
    (∀ mark : Bool,
      (d.rsl.phase ≠ .drain ∨ d.pageOn .tel = false ∨ (∃ p, p ∈ d.posts ∧ p.parity = par) → s.makes (.fgpDrainDone mark) d) ∧
      (d.rsl.phase = .drain → d.pageOn .tel = true → (∀ p, p ∈ d.posts → p.parity ≠ par) →
        let fps := d.fgpResults par
        let dig := stepDigest fps
        d.keystoneBytes.length = 4096 ∧ (d.journalBytes mark fps d.keystoneBytes).length = 256 ∧
        ∃ r : Rsl, ∃ mc : Mc,
          let closed := ((({ d with rsl := r, mc := mc } : Dev).setPreg .tel 0x318 d.rsl.step).setPreg .tel 0x330 (loWord dig)).setPreg .tel
            0x334 (hiWord dig)
          (d.pageOn .rsl = false → s.makes (.fgpDrainDone mark) closed) ∧
          (d.pageOn .rsl = true → s.makes (.fgpDrainDone mark)
            (({ closed with rsl := { r with phase := .key, acked := 0, failed := 0, keyHeld := false } } : Dev).ksSend 7)) ∧
          r.phase = .journal ∧ r.key = d.keystoneBytes ∧ r.journal = d.journalBytes mark fps d.keystoneBytes ∧ r.fps = fps ∧
          r.isos = [] ∧ r.hostOps = 0 ∧ r.slips = d.rsl.nextSlips ∧ r.slipCause = d.rsl.nextCause ∧ r.forced = d.rsl.nextForced ∧
          r.nextSlips = 0 ∧ r.nextForced = false ∧ r.step = d.rsl.step ∧
          mc.journal.getLast? = some r.journal ∧ mc.journal.length ≤ 64 ∧
          ∀ k, r.pieces.get? k = if k / 2 ^ 32 = b2n par then none else d.rsl.pieces.get? k)) ∧
    (d.hif.held = [] → s.makes .stepBundleDeliver d ∧ s.makes .dlvHeld d) ∧
    ∀ (h : HeldBundle) (rest : List HeldBundle), d.hif.held = h :: rest →
      let b := d.bundle h
      let keeps (k : Nat) : Prop := k / 131072 ≠ b2n (bit h.step 0)
      b.length % 64 = 0 ∧
      let discard := bit (d.preg .hif 0x80) 2
      (∀ pad, d.dlvFits b.length = some pad → s.makes .dlvHeld d ∧ ∃ e : Dev, s.makes .stepBundleDeliver e ∧ e.hif.held = rest ∧
        (∀ k, (keeps k → e.rsl.baro.get? k = d.rsl.baro.get? k) ∧ (¬ keeps k → e.rsl.baro.get? k = none)) ∧
        (let start := if pad then 0 else d.hif.dlvTail
         let a := (joinWords (d.preg .hif 0x94) (d.preg .hif 0x90)).toNat + start
         let phase := if pad then !d.hif.dlvPhase else d.hif.dlvPhase
         let t := (start + b.length) % d.dlvSize
         e.hif.dlvTail = t ∧ e.hif.dlvPhase = (if t = 0 then !phase else phase) ∧
         ∃ before after, e.sent = d.sent ++ before ++ [.hostWrite (a + 64) (b.drop 64), .hostWrite a (b.take 63),
           .hostWrite (a + 63) [BitVec.ofNat 8 (b2n phase)]] ++ after)) ∧
      (d.dlvFits b.length = none →
        (discard = true → s.makes .dlvHeld d ∧ ∃ t, (∀ k, (keeps k → t.get? k = d.rsl.baro.get? k) ∧ (¬ keeps k → t.get? k = none)) ∧
          s.makes .stepBundleDeliver (({ d with
            hif := { d.hif with held := rest, heldReported := false }, rsl := { d.rsl with baro := t } } : Dev).bump .hif 0xD8 1)) ∧
        (discard = false → s.makes .stepBundleDeliver (d.hifEvent 3) ∧
          (d.hif.heldReported = true → s.makes .dlvHeld d) ∧
          (d.hif.heldReported = false → s.makes .dlvHeld (({ d with hif := { d.hif with heldReported := true } } : Dev).raise .hif 2))))

/-- R30, R211, R534, R545, R548, R549: each keystone target acknowledges once, the buddy only when its requests are complete; one that has not in time
fails and holds the commit, and KS_CMD.retry writes the failed ones again. With all three acknowledged the commit takes effect (here with no snapshot
interval set): DZ_STEP goes on where an origin has passed, the bundle of the step, which begins with its journal record, waits for delivery, and
retained results, channel totals, ratio accumulators and the scalar records it took are let go. A rerun counts, up to three, and clears the ratio
accumulators and the fingerprint bank of its step. A snapshot ends when its last region has been acknowledged. A write of DZ_STEP while the core's
tiles are halted discards the core's counts (R214), and with them (the model's choice, log entry 35) the posts and scalar records of its tiles and, at
logical core 0, the counts of the step's journal; the model's too that a rerun keeps the scalar records (log entry 35) and that an ERR or an entry
still waited for keeps the buddy from acknowledging (log entry 33). -/
def Obligations.CommitEnds : Prop :=
  ∀ (s : State), s.dev.mainUp = true →
    let d := s.dev
    let free : Dev := { d with heldLo := d.heldLo.erase 0 }
    (∀ target : Fin 3,
      let acked := bit d.rsl.acked target.val
      let late : Prop := target.val = 0 ∧ (d.rsl.keyErr = true ∨ d.rsl.keyWait = true ∨ d.outReqs.any OutReq.isKey = true)
      (d.rsl.phase ≠ .key ∨ acked = true → s.makes (.keystoneAck target) d ∧ s.makes (.keystoneTimeout target) d) ∧
      (d.rsl.phase = .key → acked = false →
        (late → s.makes (.keystoneAck target) d) ∧
        (¬ late → ∃ r : Rsl, s.makes (.keystoneAck target) { d with rsl := r } ∧ r = { d.rsl with acked := r.acked, failed := r.failed, keyHeld := r.keyHeld } ∧
          (∀ k : Fin 3, bit r.acked k.val = (bit d.rsl.acked k.val || k == target)) ∧
          (∀ k : Fin 3, bit r.failed k.val = (bit d.rsl.failed k.val && k != target)) ∧ (r.keyHeld = true ↔ r.failed ≠ 0)) ∧
        (bit d.rsl.failed target.val = true → s.makes (.keystoneTimeout target) d) ∧
        (bit d.rsl.failed target.val = false → s.makes (.keystoneTimeout target)
          (({ d with rsl := { d.rsl with failed := setBit d.rsl.failed target.val true, keyHeld := true } } : Dev).raise .rsl 2)))) ∧
    (∀ w : Word,
      let may : Prop := d.pageAnswers .rsl = true ∧ bit w 0 = true ∧ d.rsl.phase = .key ∧ d.pageOn .rsl = true
      (¬ may → s.makes (.ksRetry w) free) ∧
      (may → s.makes (.ksRetry w) (({ free with rsl := { d.rsl with failed := 0, keyHeld := false } } : Dev).ksSend d.rsl.failed))) ∧
    (let par := bit d.rsl.step 0
     let may : Prop := d.rsl.phase = .key ∧ d.rsl.acked = 7 ∧ d.pageOn .rsl = true ∧ d.hif.held = [] ∧ d.rsl.snap = none ∧
       ∀ x, x ∈ d.baroFly → x.2.parity ≠ par
     (¬ may → s.makes .commitEffect d) ∧
     (may → d.preg .rsl 0xC0 = 0 → ∃ e : Dev, s.makes .commitEffect e ∧
       e.rsl.phase = .idle ∧ e.rsl.reruns = 0 ∧ e.rsl.originSeen = false ∧ (e.rsl.stepDue = true ↔ d.rsl.originSeen = false ∨ d.rsl.stepDue = true) ∧
       e.preg .rsl 0xB4 = d.rsl.step ∧ (∀ c, c < 8 → e.preg (.num c) 0x88 =
         if d.rsl.originSeen = true ∧ d.coreEnabled c = true then d.preg (.num c) 0x88 + 1 else d.preg (.num c) 0x88) ∧
       (∃ b, e.hif.held = [b] ∧ b.step = d.rsl.step ∧ b.nFps = d.rsl.fps.length ∧ (∃ more, b.fore = d.rsl.journal ++ more) ∧
         b.scalars = scalarRecords d.rsl.step (d.rsl.scalars.filter fun p => p.parity == par)) ∧
       (e.bundleHeld = true → bit (e.preg .hif 0xA4) 3 = true) ∧
       e.rsl.scalars = d.rsl.scalars.filter (fun p => p.parity != par) ∧ (∀ k, k / 16 < 8 → e.retain.get? k = none) ∧ e.chanTotal = [] ∧
       (∀ t, (e.tile t).ratio = ⟨[]⟩) ∧ e.rsl.started = d.rsl.originSeen ∧ e.hbm = d.hbm ∧ e.fc.armed = d.fc.armed)) ∧
    (∀ (path : Path) (w : Word),
      let free : Dev := { d with heldLo := d.heldLo.erase (pathNo path) }
      (bit w 0 = false ∨ d.pageAnswers .rsl = false → s.makes (.rerun path w) free) ∧
      (bit w 0 = true → d.pageAnswers .rsl = true →
        (d.allHalted = false → s.makes (.rerun path w) (free.ignored path ((Page.rsl).base + 0x84))) ∧
        (d.allHalted = true → 3 ≤ d.rsl.reruns → s.makes (.rerun path w) (free.raise .rsl 3)) ∧
        (d.allHalted = true → d.rsl.reruns < 3 →
          let par := bit (d.preg (.num (d.corePhys 0)) 0x88) 0
          ∃ e : Dev, s.makes (.rerun path w) e ∧ e = { free with tiles := e.tiles, rsl := e.rsl } ∧
            (∀ t, e.tile t = { d.tile t with ratio := ⟨[]⟩ }) ∧
            e.rsl = { d.rsl with
              reruns := d.rsl.reruns + 1, placed := [], isos := [], pieces := e.rsl.pieces, pieceBy := e.rsl.pieceBy, conflicts := e.rsl.conflicts } ∧
            (∀ k, e.rsl.pieces.get? k = if k / 2 ^ 32 = b2n par then none else d.rsl.pieces.get? k) ∧
            ∀ c, c ∈ e.rsl.conflicts ↔ c ∈ d.rsl.conflicts ∧ c / 256 ≠ b2n par))) ∧
    (∀ (c : Nat) (off : BitVec 28) (w : Word), c < 8 → off.toNat = (Page.num c).base + 0x88 → d.pageAnswers (.num c) = true →
      let free : Dev := { d with heldLo := d.heldLo.erase (pathNo .bar0) }
      let keeps (t : Nat) : Bool := tileCore t != c
      (d.coreHalted c = false → s.makes (.registerWrite .bar0 off 4 w) (free.ignored .bar0 ((Page.num c).base + 0x88))) ∧
      (d.coreHalted c = true → ∃ e : Dev, s.makes (.registerWrite .bar0 off 4 w) e ∧ e.preg (.num c) 0x88 = w ∧
        (∀ t, tileCore t = c → (e.tile t).ratio = ⟨[]⟩ ∧ (e.tile t).baro = []) ∧ (∀ t, tileCore t ≠ c → e.tile t = d.tile t) ∧
        e.posts = d.posts.filter (fun p => keeps p.tile) ∧ e.rsl.scalars = d.rsl.scalars.filter (fun p => keeps p.tile) ∧
        (∀ k, e.rsl.baro.get? k = if k / 16384 % 8 = c then none else d.rsl.baro.get? k) ∧
        (c = d.corePhys 0 → e.rsl.hostOps = 0 ∧ e.rsl.slips = 0 ∧ e.rsl.forced = false) ∧
        (c ≠ d.corePhys 0 → e.rsl.hostOps = d.rsl.hostOps ∧ e.rsl.slips = d.rsl.slips ∧ e.rsl.forced = d.rsl.forced)))  ∧
    (d.rsl.snap = none → s.makes .snapshotDone d) ∧
    ∀ r : SnapRun, d.rsl.snap = some r →
      let done : Prop := d.outReqs.any OutReq.isSnap = false ∧ d.snapNextChunk r = none
      (¬ done → s.makes .snapshotDone d) ∧
      (done → s.makes .snapshotDone { (d.setPreg .rsl 0xCC r.step) with rsl := { d.rsl with snap := none } })

/-! ### Faults, fences and health (20) -/

/-- R555, R556, R560 to R565, R571, R583, R691: an error event sets its sticky bit and counts; LOG does no more, while its source is masked too. REPORT
sends a management report, FENCE queues a fence of the page's unit, or resets where the page has none, and RESET holds the package until it is
acknowledged, with the fault's identity. While the collector's en is 0 a REPORT or a FENCE that fences is held; a FENCE of a unit fenced already, a
tile with its core, is a LOG. A dew-point register that names the source counts it, and sets severe at its N-th in the window; the count is lost when
its window ends. A fault of a dual rail is source RAIL of the collector; while that condition lasts, no event of the source counts. An
instruction-memory error met by a fetch of the selected context stops it, and there is none without a fetch; PROGRAM_TRAP is raised by the trap alone
(here: nothing); a failed command fetch stops its ring; a corrected memory codeword is counted. The model's choices: an instruction-memory error of a
tile that fetches nothing has no effect, and PROGRAM_TRAP comes from the trap alone (log entry 18); a report needs report_en and the page's interrupt
enable, and the detail of a failed fetch names its ring (log entry 36). -/
def Obligations.FaultEvents : Prop :=
  ∀ (s : State) (index : BitVec 13) (src : Fin 32) (detail : Nat),
    let d := s.dev
    let cmd := Instr.faultEvent index src detail
    let onset := Instr.rail index { src := src, lasts := true }
    let held (e : Dev) (ident : Word) : Prop := e.mc.stage = .hold ∧ e.mc.holdAck = true ∧ e.mc.cause = 2 ∧ e.flt.resetId = ident ∧
      e.mc.resetCnt = satAdd d.mc.resetCnt 1 ∧ e.tiles = ⟨[]⟩ ∧ e.regs = ⟨[]⟩ ∧ e.flt.fenced = d.flt.fenced
    (∀ j : Fin 4, d.mainUp = true → s.makes (.dewpointWindowEnd index j)
      { d with flt := { d.flt with dew := d.flt.dew.erase (4 * index.toNat + j.val) } }) ∧
    (d.mainUp = true → s.makes (.rail index { src := src, lasts := false })
      { d with flt := { d.flt with railed := d.flt.railed.erase (32 * index.toNat + src.val) } }) ∧
    (pageOf index.toNat = none → s.makes cmd d ∧ s.makes onset d) ∧
    ∀ p, pageOf index.toNat = some p →
      let unnamed (q : Page) (n : Nat) : Prop := ∀ j, j < 4 →
        fld (d.preg q (blkDew0 + 4 * j)) 0 12 = 0 ∨ fld (d.preg q (blkDew0 + 4 * j)) 12 5 ≠ n
      let logged (q : Page) (n : Nat) : Dev := { (d.setPreg q blkSticky (setBit (d.preg q blkSticky) n true)) with
        flt := { d.flt with cnt := d.flt.cnt.modify (32 * q.index + n) 0 fun x => satAdd x 1 } }
      let plain : Prop := (∀ t, p = .tile t → src.val ≠ 0 ∧ src.val ≠ 3) ∧ (∀ n, p = .mem n → src.val ≠ 0) ∧ (p = .hif → src.val ≠ 0)
      (d.mainUp = false ∨ d.pageAbsent p = true ∨ p.nsrc ≤ src.val → s.makes cmd d ∧ s.makes onset d) ∧
      (d.isRailed p src.val = true → s.makes onset d ∧ (plain → s.makes cmd d)) ∧
      (d.mainUp = true → d.pageAbsent p = false → src.val < p.nsrc → d.isRailed p src.val = false →
        let ident (sev : Nat) := faultIdent p src.val sev (d.isSevere p src.val) false
        (unnamed .flt 0 → (d.actSev .flt 0 = 0 → s.makes onset
            { logged .flt 0 with flt := { (logged .flt 0).flt with
              railed := d.flt.railed.set (32 * p.index + src.val) true, railInfo := faultIdent p src.val 0 (d.isSevere .flt 0) true } }) ∧
          (d.actSev .flt 0 = 3 → ∃ e : Dev, s.makes onset e ∧ held e (faultIdent p src.val 3 (d.isSevere .flt 0) true))) ∧
        (∀ t, p = .tile t → src.val = 0 ∨ src.val = 3 ∧ (d.tile t).sel = none → s.makes cmd d) ∧
        (∀ t bg, p = .tile t → src.val = 3 → (d.tile t).sel = some bg →
          let fetches : Prop := d.tileLive t = true ∧ (d.tile t).switching = 0 ∧ (d.ctx t bg).halting = none
          (¬ fetches → s.makes cmd d) ∧
          (fetches → s.makes cmd ((d.stopCtx t bg).raise p 3) ∧ ((d.stopCtx t bg).ctx t bg).run = false)) ∧
        (∀ n, p = .mem n → src.val = 0 → s.makes cmd ((d.bump (.mem n) 0xB0 1).raise p 0)) ∧
        (p = .hif → src.val = 0 → s.makes cmd (({ d with hif := { d.hif with
          rings := d.hif.rings.modify (detail % 64) Ring.reset fun r => { r with fetchErr := true } } } : Dev).raise p 0)) ∧
        (plain → unnamed p src.val →
          (d.actSev p src.val = 0 → s.makes cmd (logged p src.val)) ∧
          (∀ sev, d.actSev p src.val = sev → 0 < sev → sev < 3 → d.pageOn .flt = false →
            (sev = 2 → ∃ u, p.unit = some u ∧ d.fenceActive u = false ∧ d.unitFenced u = false) → s.makes cmd
            { logged p src.val with flt := { (logged p src.val).flt with
              held := d.flt.held ++ [{ page := p.index, src := src.val, ident := ident sev, sev := sev }] } }) ∧
          (d.actSev p src.val = 1 → d.pageOn .flt = true → bit (d.preg .flt 0x80) 0 = true → bit (d.preg p blkIntEn) 0 = true →
            d.mc.reports.length < 64 → d.evr.queue.length < 256 → ∃ (e : Dev) (r : Report), s.makes cmd e ∧
              e.mc.reports = d.mc.reports ++ [r] ∧ r.ident = ident 1 ∧ r.seq = d.mc.reportSeq ∧ r.resends = 0 ∧
              e.mc.reportSeq = d.mc.reportSeq + 1 ∧ e.flt.queue = d.flt.queue) ∧
          (∀ u, d.actSev p src.val = 2 → p.unit = some u → d.fenceActive u = false → d.unitFenced u = true → s.makes cmd (logged p src.val)) ∧
          (∀ u, d.actSev p src.val = 2 → p.unit = some u → d.fenceActive u = true → ∃ e : Dev, s.makes cmd e ∧ held e (ident 2)) ∧
          (∀ u, d.actSev p src.val = 2 → d.pageOn .flt = true → p.unit = some u → d.fenceActive u = false → d.unitFenced u = false →
            (∀ q, q ∈ d.flt.queue → q.unit ≠ u.code) → d.flt.queue.length < 16 → d.mc.reports.length < 64 → d.evr.queue.length < 256 →
            ∃ e : Dev, s.makes cmd e ∧ e.flt.queue = d.flt.queue ++ [{ unit := u.code, ident := ident 2 }] ∧ e.tiles = d.tiles) ∧
          (d.actSev p src.val = 2 → p.unit = none → ∃ e : Dev, s.makes cmd e ∧ held e (ident 2)) ∧
          (d.actSev p src.val = 3 → ∃ e : Dev, s.makes cmd e ∧ held e (ident 3))) ∧
        (plain → d.isMasked p src.val = true → correctedUnit p src.val = none →
          (∀ j, 0 < j → j < 4 → fld (d.preg p (blkDew0 + 4 * j)) 0 12 = 0 ∨ fld (d.preg p (blkDew0 + 4 * j)) 12 5 ≠ src.val) →
          let r := d.preg p blkDew0
          let n := d.flt.dew.getD (4 * p.index) 0 + 1
          fld r 0 12 ≠ 0 → fld r 12 5 = src.val →
          let counted : Dev := { logged p src.val with flt := { (logged p src.val).flt with dew := d.flt.dew.set (4 * p.index) n } }
          s.makes cmd (if n = fld r 0 12 then counted.setPreg p blkDew0 (setBit r 17 true) else counted)))

/-- R286, R298, R420, R567 to R571, R583, R587: one fence sequence runs at a time, the oldest queued first. Its end fences the unit, with a record; a
fenced tile has stopped, and a message that waits at its ingress is discarded. One that takes too long holds the package in RESET. A fence asked of a
unit whose fence is active holds the package in RESET, reported, whatever en is. FLT_CMD clears a fence of a unit that is idle and not FAILED, queues
a fence with identity 0, zeroes the counts of the page that FLT_SEL names, and ends the RESET hold: start-up begins again with the pages at reset; it
refuses a unit that is none. Records that the host or the management caused name it. The model's choices: a unit that no identity names is refused
(log entry 36); a fence acts when its sequence completes, one that the host asks for waits while en is 0, and UNFENCE of a unit that is not fenced
writes no record (log entry 37). -/
def Obligations.Fences : Prop :=
  ∀ (s : State),
    let d := s.dev
    let free : Dev := { d with heldLo := d.heldLo.erase 0, flt := { d.flt with refused := false } }
    let refused : Dev := { free with flt := { d.flt with refused := true } }
    (d.mainUp = true →
      (∀ q r, d.flt.active = none → d.flt.queue = q :: r → s.makes .fenceSequence { d with flt := { d.flt with active := some q, queue := r } }) ∧
      (d.flt.active ≠ none ∨ d.flt.queue = [] → s.makes .fenceSequence d) ∧
      (d.flt.active = none → s.makes .fenceComplete d ∧ s.makes .fenceTimeout d) ∧
      (d.flt.active ≠ none → d.isRailed .flt 1 = false → ∃ e : Dev, s.makes .fenceTimeout e ∧ e.mc.stage = .hold ∧ e.mc.holdAck = true ∧ fld e.flt.resetId 13 5 = 1) ∧
      ∀ q u, d.flt.active = some q → FUnit.ofCode q.unit = some u →
        let e0 := d.fenceEffect u
        (∀ t, u = .tile t → (e0.tile t).fg.run = false ∧ (e0.tile t).bg.run = false ∧ (e0.tile t).sel = none ∧ e0.evr = d.evr) ∧
        (∀ p, u = .port p → (e0.fport p).retry = []) ∧
        (∀ t cls f n, u = .tile t → e0.evr.queue.length < 256 → e0.ingress.get? (2 * t + b2n cls) = some f → f.dest = .tile t n →
          ∃ e : Dev, s.makes .fenceComplete e ∧ e.ingress.get? (2 * t + b2n cls) = none) ∧
        (e0.evr.queue.length < 256 → e0.ingress.cells = [] → ∃ e : Dev, s.makes .fenceComplete e ∧
          e = { e0 with
            regs := e.regs, ctrs := e.ctrs, flt := { e0.flt with active := none, fenced := e0.flt.fenced.set u.code true }
            evr := { e0.evr with
              queue := e0.evr.queue ++ [e0.event 0x11 0 0 0 false (bytesLE 2 u.code ++ bytesLE 4 q.ident.toNat) false] } } ∧
          ∀ p, p ∈ u.pages → bit (e.preg p blkIntStat) 1 = true)) ∧
    (d.pageAnswers .flt = false → s.makes .unfence { d with heldLo := d.heldLo.erase 0 } ∧ s.makes .fence { d with heldLo := d.heldLo.erase 0 } ∧
      s.makes .clrCnt { d with heldLo := d.heldLo.erase 0 } ∧ s.makes (.ackReset .bar0) { d with heldLo := d.heldLo.erase 0 }) ∧
    (d.pageAnswers .flt = true →
      (∃ c : Tbl Word, s.makes .clrCnt { free with flt := { free.flt with cnt := c } } ∧
        ∀ k, c.get? k = if k / 32 = fld (d.preg .flt 0x98) 0 13 then none else d.flt.cnt.get? k) ∧
      (d.fltUnit = none → s.makes .unfence refused ∧ s.makes .fence refused) ∧
      (∀ u, d.fltUnit = some u →
        let quiet : Prop := match u with
          | .tile t => (d.tile t).fg.run = false ∧ (d.tile t).bg.run = false
          | .core c => d.coreHalted c = true
          | .mem _ => True
          | .port p => bit (d.preg (.fport p) 0x80) 0 = false
        let may : Prop := d.flt.health.getD u.code 0 ≠ 2 ∧ d.fenceActive u = false ∧ quiet
        (¬ may → s.makes .unfence refused) ∧
        (may → d.isFenced u = false → s.makes .unfence free) ∧
        (may → d.isFenced u = true → d.evr.queue.length < 256 → d.mc.stage ≠ .recovery → s.makes .unfence { free with
          flt := { free.flt with fenced := d.flt.fenced.erase u.code }
          evr := { d.evr with queue := d.evr.queue ++ [d.event 0x12 0 2 0 false (bytesLE 2 u.code) false] } }) ∧
        (d.fenceActive u = true → s.makes .fence (free.pkgReset 0)) ∧
        (d.pageOn .flt = false → d.fenceActive u = false → s.makes .fence { free with
          flt := { free.flt with held := d.flt.held ++ [{ page := 8192, src := u.code, ident := 0, sev := 2 }] } }) ∧
        (d.pageOn .flt = true →
          (d.fenceActive u = false → d.unitFenced u = true → s.makes .fence free) ∧
          (d.fenceActive u = false → d.unitFenced u = false →
            ((∃ q, q ∈ d.flt.queue ∧ q.unit = u.code) → s.makes .fence free) ∧
            ((∀ q, q ∈ d.flt.queue → q.unit ≠ u.code) → d.flt.queue.length < 16 → s.makes .fence { free with
              flt := { free.flt with queue := d.flt.queue ++ [{ unit := u.code, ident := 0 }] } }) ∧
            ((∀ q, q ∈ d.flt.queue → q.unit ≠ u.code) → 16 ≤ d.flt.queue.length → d.isRailed .flt 3 = false → ∃ e : Dev, s.makes .fence e ∧ e.mc.stage = .hold)))) ∧
      ∀ path : Path, d.evr.queue.length < 256 → d.mc.stage ≠ .recovery →
        let asked : Dev := { free with
          heldLo := d.heldLo.erase (pathNo path)
          evr := { d.evr with queue := d.evr.queue ++ [d.event 0x14 0 (if path = .mgmt then 3 else 2) 0 false [] false] } }
        (d.mc.holdAck = false → s.makes (.ackReset path) asked) ∧
        (d.mc.holdAck = true → ∃ e : Dev, s.makes (.ackReset path) e ∧ e = { asked with
            mc := e.mc, pwr := e.pwr, regs := e.regs, ctrs := e.ctrs, latch := e.latch, heldLo := e.heldLo
            softBusy := e.softBusy, evr := e.evr, flt := e.flt } ∧
          e.evr.queue = asked.evr.queue ∧ e.flt.fenced = d.flt.fenced ∧ e.flt.health = d.flt.health ∧ e.flt.resetId = d.flt.resetId ∧
          e.mc = { d.mc with holdAck := false, stage := e.mc.stage } ∧
          (d.mc.stage = .hold → d.mc.booted = true → d.pins.perstN = true → d.mc.railLost = false → d.mc.thermtrip = false →
            e.mc.stage = .fuse ∧ (∀ o, o % 0x1000 ≠ blkSticky → e.regs.get? o = none) ∧ e.ctrs = ⟨[]⟩ ∧ e.pwr.clk = profileClock d.mc.profile) ∧
          (d.mc.stage = .hold → d.pins.perstN = false → e = { asked with mc := { d.mc with holdAck := false, stage := .mcBoot } })))

/-- R576, R578, R580 to R582: a host write of 01 makes a unit SUSPECT, unless it is FAILED. The checkruns after a commit count the tiles they test and
those that fail; a failing tile is FAILED, and a SUSPECT one is HEALTHY again after FLT_CLEAN clean steps. A management report is sent, on I3C after
an in-band interrupt with its sequence number, again at most twice, then discarded with REPORT_LOST; its response frees its place. -/
def Obligations.HealthAndReports : Prop :=
  ∀ (s : State),
    let d := s.dev
    let free : Dev := { d with heldLo := d.heldLo.erase 0 }
    (∀ (off : BitVec 12) (w : Word),
      let o := off.toNat / 4 * 4
      (d.pageAnswers .flt = false → s.makes (.healthWrite off w) free) ∧
      (d.pageAnswers .flt = true → ∀ (j : Nat) (u : FUnit), j < 16 →
        (o = 0x9A0 ∧ j < 8 ∧ u = .core j ∨ 0x800 ≤ o ∧ o < 0x998 ∧ u = .tile (16 * ((o - 0x800) / 4) + j)) →
        fld w (2 * j) 2 = 1 → (∀ i, i < 16 → i ≠ j → fld w (2 * i) 2 ≠ 1) →
        (d.flt.health.getD u.code 0 = 2 → s.makes (.healthWrite off w) free) ∧
        (d.flt.health.getD u.code 0 ≠ 2 → d.evr.queue.length < 256 → ∃ e : Dev, s.makes (.healthWrite off w) (e.raise .flt 6) ∧ e = { free with evr := e.evr, flt := e.flt } ∧
          e.flt = { d.flt with health := d.flt.health.set u.code 1, clean := d.flt.clean.set u.code 0, stained := d.flt.stained.set u.code true
                               suspectInfo := packFields 32 [(0, u.code), (13, 2)] } ∧
          (d.flt.health.getD u.code 0 = 0 → d.mc.stage ≠ .recovery → e.evr.queue = d.evr.queue ++
            [d.event 0x15 0 2 0 false (bytesLE 2 u.code ++ [0, 1, 2]) false])))) ∧
    (d.mainUp = true →
      (∀ fails memFails left top, d.flt.chkDue = [] → s.makes (.checkrun fails memFails left top) d) ∧
      (d.flt.chkDue ≠ [] → (∀ k, d.flt.health.getD k 0 ≠ 1) → s.makes (.checkrun [] [] [] [])
        { (d.bump .flt 0xC8 d.flt.chkDue.length).bump .flt 0xD0 0 with flt := { d.flt with chkDue := [], stained := ⟨[]⟩ } }) ∧
      ∀ t : Fin 1632, d.flt.chkDue = [t.val] →
        let u := (FUnit.tile t.val).code
        let n := d.flt.clean.getD u 0 + 1
        let need := max 1 (fld (d.preg .flt 0xA8) 0 16)
        (∃ e : Dev, s.makes (.checkrun [t] [] [] []) e ∧ e.flt.health.getD u 0 = 2 ∧ (d.flt.health.getD u 0 ≠ 2 → u ∈ e.mc.failedStore)) ∧
        (d.flt.health.getD u 0 = 1 → d.flt.stained.getD u false = false → d.flt.health.getD (FUnit.core (tileCore t.val)).code 0 ≠ 1 →
          d.evr.queue.length < 256 → ∃ e : Dev, s.makes (.checkrun [] [] [] []) e ∧
          (need ≤ n → e.flt.health = d.flt.health.erase u ∧ e.flt.clean = d.flt.clean.erase u ∧
            e.evr.queue = d.evr.queue ++ [d.event 0x15 0 0 0 false (bytesLE 2 u ++ bytesLE 1 1 ++ bytesLE 1 0 ++ bytesLE 1 4) false]) ∧
          (n < need → e.flt.clean.getD u 0 = n ∧ e.flt.health = d.flt.health ∧ e.evr = d.evr))) ∧
    ∀ seq : Byte,
      let kept := d.mc.reports.filter fun x => x.seq != seq
      s.makes (.reportResponse seq) { d with mc := { d.mc with reports := kept } } ∧
      (d.mc.reports.find? (fun r => r.seq == seq) = none → s.makes (.reportResend seq) d) ∧
      ∀ r, d.mc.reports.find? (fun r => r.seq == seq) = some r →
        let again : Report := { r with resends := r.resends + 1 }
        (r.resends < 2 → s.makes (.reportResend seq) { d with
          mc := { d.mc with reports := d.mc.reports.map fun x => if x.seq = seq then again else x }, sent := d.sent ++ (if d.mc.smbus then [.report again] else [.ibi again.seq, .report again]) }) ∧
        (2 ≤ r.resends → s.makes (.reportResend seq) (({ d with mc := { d.mc with reports := kept } } : Dev).raise .flt 4))

/-! ### Event recorder (21) -/

/-- R585 to R592: the oldest event that waits is written into the next erased slot with the next sequence number, its fixed-area events also into the next
fixed slot while one is free; the first write into a sector erases the sector after it, with its two entries in the counter area. A write whose
read-back fails leaves no valid slot and is tried again in the next slot, three times. Minutes count while PWR_OK is high and do not wrap; the counts
are appended, into the other sector once one has filled. The model's choices (log entry 39): the record of a full fixed area goes to the head of the
queue, an area without an erased slot is a failed attempt, and how many entries fill a sector is a free value. -/
def Obligations.RecorderWrites : Prop :=
  ∀ (s : State),
    let d := s.dev
    let q := match d.evr.newest with
      | some (_, k) => (k + 1) % 256
      | none => 0
    (∀ readBack ok, d.evr.queue = [] ∨ d.evr.ready = false → s.makes (.evrRecordWrite readBack ok) d) ∧
    let first (n : Nat) : Prop := (d.evr.nextSlot + 4223) % 4224 / 64 ≠ n / 64
    (∀ e rest n, d.evr.queue = e :: rest → d.evr.ready = true → d.evr.dropsOwed = 0 → e.code ≠ 0xF0 → e.code ≠ 0x20 → d.evr.freeSlot = some n →
      let copied : Prop := e.fixed = true ∧ d.evr.fixedFull = false ∧ d.evr.fixedNext < 255
      ∃ v : Evr, s.makes (.evrRecordWrite none true) { d with evr := v } ∧
        v.newest = some (n, q) ∧ v.nextSlot = (n + 1) % 4224 ∧ v.failRun = 0 ∧
        v.circAt n = recordBytes e (d.evr.copies e) q ∧ (d.evr.copies e = true ↔ copied) ∧
        (recordBytes e (d.evr.copies e) q).getD 63 0 = 0x5A#8 ∧
        (copied → v.fixedSlots = d.evr.fixedSlots.set d.evr.fixedNext (recordBytes e true q) ∧ v.fixedNext = d.evr.fixedNext + 1) ∧
        (¬ copied → v.fixedSlots = d.evr.fixedSlots ∧ v.fixedNext = d.evr.fixedNext) ∧
        (¬ (e.fixed = true ∧ d.evr.fixedFull = false ∧ 255 ≤ d.evr.fixedNext) → v.queue = rest) ∧
        (e.fixed = true → d.evr.fixedFull = false → 255 ≤ d.evr.fixedNext → (∃ x, x ∈ rest ∧ x.code = 0xF0) → v.queue = rest) ∧
        (e.fixed = true → d.evr.fixedFull = false → 255 ≤ d.evr.fixedNext → (∀ x, x ∈ rest → x.code ≠ 0xF0) →
          v.queue = d.event 0xF0 0 1 0 false (bytesLE 2 e.code) true :: rest) ∧
        (¬ first n → v.entries = d.evr.entries ∧ ∀ k, k ≠ n → v.circAt k = d.evr.circAt k) ∧
        (first n → v.entries = ((d.evr.logEntry (.eraseBegin ((n / 64 + 1) % 66))).logEntry (.eraseDone ((n / 64 + 1) % 66))).entries ∧
          ∀ k, k ≠ n → v.circAt k = if k / 64 = (n / 64 + 1) % 66 then List.replicate 64 0xFF#8 else d.evr.circAt k)) ∧
    (∀ readBack ok, d.evr.queue ≠ [] → d.evr.ready = true → d.evr.freeSlot = none → d.evr.failRun + 1 < 3 →
      s.makes (.evrRecordWrite readBack ok) { d with evr := { d.evr with failRun := d.evr.failRun + 1 } }) ∧
    (∀ e rest raw n, d.evr.queue = e :: rest → d.evr.ready = true → d.evr.freeSlot = some n → ¬ first n →
      let bad (v : Evr) : Prop := v.newest = d.evr.newest ∧ v.nextSlot = (n + 1) % 4224 ∧ slotValid (v.circAt n) = false ∧
        (∀ k, k ≠ n → v.circAt k = d.evr.circAt k) ∧ v.fixedSlots = d.evr.fixedSlots
      (d.evr.circ.get? n = none → d.evr.failRun + 1 < 3 → ∃ v : Evr, s.makes (.evrRecordWrite (some raw) true) { d with evr := v } ∧ bad v ∧
        v.queue = d.evr.queue ∧ v.failRun = d.evr.failRun + 1) ∧
      (d.evr.circ.get? n = none → 3 ≤ d.evr.failRun + 1 → d.evr.dropsOwed = 0 → ∃ v : Evr,
        s.makes (.evrRecordWrite (some raw) true) (({ d with evr := v } : Dev).raise .evr 0) ∧ bad v ∧
        v.queue = rest ∧ v.failRun = 0)) ∧
    (d.pins.pwrOk = true → s.makes .minuteTick { d with evr := { d.evr with minutes := satAdd d.evr.minutes 1 } }) ∧
    (d.pins.pwrOk = false → s.makes .minuteTick d) ∧
    (d.evr.ready = true → s.makes .counterAppend { d with
      evr := { d.evr with
        oldCounters := if Config.counterRoom ≤ d.evr.counters.length then d.evr.counters else d.evr.oldCounters
        counters := (if Config.counterRoom ≤ d.evr.counters.length then [] else d.evr.counters) ++
          [CtrEntry.counts d.evr.minutes d.evr.cycles] } }) ∧
    (d.evr.ready = false → s.makes .counterAppend d)

/-- R592, R594 to R597: a clear needs a response that is the HMAC-SHA-256, under the clearing key, of the challenge and the request. It is denied with 8
denials, without a key, without a challenge, or with another response; every clear ends the challenge, every denial counts and is recorded. A verified
clear leaves one record, CLEARED with sequence 0 at slot 0. A key is stored where there is none, or by an authenticated request. Slots are read raw.
In recovery nothing is cleared or recorded. The challenge's bytes are a free value. The model's choices (log entries 39 and 41): the order in which
reasons deny a clear, that every response consumes the challenge, that a failed KEY_SET is neither recorded nor counted, and that the erasure here
verifies and the record finds an erased slot. -/
def Obligations.RecorderClear : Prop :=
  ∀ (s : State),
    let d := s.dev
    let host : Prop := d.pageAnswers .evr = true ∧ d.pageOn .evr = true
    let free : Dev := { d with heldLo := d.heldLo.erase 0 }
    let asked : Dev := { free with evr := { d.evr with cmdOk := false, cmdDenied := false } }
    let bytes := bytesLE 32 (Config.challenge d.evr.chalCount).toNat
    s.makes .challengeExpire { d with evr := { d.evr with chal := none } } ∧
    (d.evr.ready = true →
      s.makes (.chal true) { d with evr := { d.evr with chal := some bytes, chalCount := d.evr.chalCount + 1 }, sent := d.sent ++ [.mgmt bytes] } ∧
      (host → s.makes (.chal false) { asked with
        evr := { asked.evr with chal := some bytes, chalCount := d.evr.chalCount + 1, cmdOk := true } }) ∧
      (¬ host → s.makes (.chal false) free ∧ ∀ run, s.makes (.clear { msg := none, run := run }) free)) ∧
    (d.mc.stage = .recovery → ∀ m run, s.makes (.clear { msg := some m, run := run }) d) ∧
    (d.evr.ready = false → s.makes (.chal true) d ∧ (∀ m run, s.makes (.clear { msg := some m, run := run }) d) ∧ (∀ k id r, s.makes (.keySet k id r) d) ∧
      ∀ c f n, s.makes (.evrReadMsg c f n) d) ∧
    (d.evr.ready = true → d.mc.stage ≠ .recovery → ∀ (mgmt : Bool) (resp : List Byte) (id : DWord) (run : ClearRun),
      (mgmt = false → host ∧ resp = (List.range 8).flatMap (fun i => bytesLE 4 (d.evr.resp.getD i 0).toNat) ∧
        id = joinWords (d.preg .evr 0xE4) (d.preg .evr 0xE0)) →
      let cmd (run : ClearRun) : Instr := .clear { msg := if mgmt then some (resp, id) else none, run := run }
      let from_ : Dev := if mgmt then d else asked
      let origin := if mgmt then 3 else 2
      let request := [0x43#8] ++ bytesLE 8 id.toNat
      let answers (e : Dev) (ok : Bool) : Dev := if mgmt then { e with sent := e.sent ++ [.ack ok] }
        else { e with evr := { e.evr with cmdOk := ok, cmdDenied := !ok } }
      let denied (r : Nat) : Prop := d.evr.queue.length < 256 → s.makes (cmd run) (answers { from_ with
        evr := { from_.evr with
          chal := none, denials := d.evr.denials + 1
          queue := d.evr.queue ++ [d.event 0x41 0 origin 0 false (bytesLE 8 id.toNat ++ bytesLE 1 r) false] } } false)
      (8 ≤ d.evr.denials → denied 3) ∧
      (d.evr.denials < 8 → d.evr.key = none → denied 2) ∧
      (d.evr.denials < 8 → d.evr.key ≠ none → d.evr.chal = none → denied 1) ∧
      ∀ k c, d.evr.denials < 8 → d.evr.key = some k → d.evr.chal = some c →
        (hmac k (c ++ request) ≠ resp → denied 0) ∧
        (hmac k (c ++ request) = resp → d.evr.freeSlot ≠ none → ∃ e : Dev, s.makes (cmd ClearRun.clean) (answers e true) ∧ e = { from_ with evr := e.evr } ∧
          e.evr.chal = none ∧ e.evr.denials = d.evr.denials ∧ e.evr.newest = some (0, 0) ∧ e.evr.nextSlot = 1 ∧
          (∀ n, 0 < n → n < 4224 → e.evr.circAt n = List.replicate 64 0xFF#8) ∧
          ((e.evr.circAt 0).drop 8).take 2 = [0x40#8, 0#8] ∧ (e.evr.circAt 0).getD 62 0 = 0 ∧ slotValid (e.evr.circAt 0) = true)) ∧
    (d.evr.ready = true → ∀ (key : List Byte) (id : DWord) (resp : List Byte),
      let stored (e : Dev) : Dev := { e with
        evr := { e.evr with key := some key, queue := d.evr.queue ++ [d.event 0x42 0 3 0 false (bytesLE 8 id.toNat) true] }
        sent := d.sent ++ [.ack true] }
      let ended : Dev := { d with evr := { d.evr with chal := none } }
      (key.length ≠ 32 → s.makes (.keySet key id resp) { d with sent := d.sent ++ [.ack false] }) ∧
      (key.length = 32 → d.evr.key = none → d.evr.queue.length < 256 → d.mc.stage ≠ .recovery → s.makes (.keySet key id resp) (stored d)) ∧
      ∀ k, key.length = 32 → d.evr.key = some k →
        (∀ c, d.evr.denials < 8 → d.evr.chal = some c → hmac k (c ++ ([0x4B#8] ++ bytesLE 8 id.toNat ++ key)) = resp →
          d.evr.queue.length < 256 → d.mc.stage ≠ .recovery → s.makes (.keySet key id resp) (stored ended)) ∧
        ((∀ c, d.evr.chal = some c → hmac k (c ++ ([0x4B#8] ++ bytesLE 8 id.toNat ++ key)) ≠ resp) ∨ 8 ≤ d.evr.denials →
          s.makes (.keySet key id resp) { ended with sent := d.sent ++ [.ack false] })) ∧
    (d.evr.ready = true → ∀ (first : BitVec 13) (more : Fin 16),
      s.makes (.evrReadMsg true first more) { d with
        sent := d.sent ++ [.mgmt ((List.range (more.val + 1)).flatMap fun i => d.evr.circAt ((first.toNat + i) % 4224))] } ∧
      s.makes (.evrReadMsg false first more) { d with
        sent := d.sent ++ [.mgmt ((List.range (more.val + 1)).flatMap fun i => d.evr.fixedAt (first.toNat + i))] }) ∧
    ∀ w : Word,
      (d.pageAnswers .evr = false → s.makes (.evrWinSel w) free) ∧
      (d.pageAnswers .evr = true →
        let kept := free.setPreg .evr 0x90 (w &&& 0x3FFF#32)
        (d.pageOn .evr = false → s.makes (.evrWinSel w) kept) ∧
        let slot (i : Nat) : List Byte :=
          if bit w 13 then d.evr.circAt ((fld w 0 13 + i) % 4224) else d.evr.fixedAt (fld w 0 13 + i)
        (d.pageOn .evr = true → s.makes (.evrWinSel w) { kept with evr := { d.evr with win := (List.range 32).map slot } }))

/-! ### Power (22) -/

/-- R602 to R605, R611 to R617: a sensor that reads its threshold or more raises TEMP_HIGH once per crossing; a hot one throttles the clock, cause TEMP,
until every sensor has cooled; two reads of a die sensor at 120.0 degrees stop the package (here one sensor reports, the others are below their
thresholds, and the sources that are raised only log). A sensor that fails raises its source and is compared again. THROTTLE_N low, while the package
does not drive it (which it does for TEMP out of reset), is cause EXT until it has been high. A throttle counts once, and is released without a cause:
at once while disarmed, else at the next origin. PWR_CLK_CAP sets the clock while disarmed, to a step of 25 MHz between 575 MHz and the profile's; a
cap that is no multiple of 25 MHz acts as the next lower one (the model's choice, log entry 48). -/
def Obligations.ThermalAndClock : Prop :=
  ∀ (s : State),
    let d := s.dev
    let limit (k : Nat) := if 38 ≤ k then 950 else 1050
    let high (k : Nat) := if 38 ≤ k then 850 else 1000
    let throttles (e : Dev) : Dev :=
      if d.pwr.calm = .calm ∨ d.pwr.calm = .waking then e
      else if d.pwr.throttled then { e with pwr := { e.pwr with releaseDue := false } }
      else (({ e with pwr := { e.pwr with releaseDue := false, throttled := true } } : Dev).bumpAlways .pwr 0xB0 1).slotEvent 3
    (d.drivesThrottle = true ↔ d.pwr.temp = true ∧ d.mainInReset = false) ∧
    let low : Dev := { d with pins := { d.pins with throttleLow := true } }
    (d.drivesThrottle = true ∨ d.pwr.ext = true ∨ d.mc.stage = .off ∨ d.mc.thermtrip = true → s.makes .throttleExt low) ∧
    (d.drivesThrottle = false → d.pwr.ext = false → d.mc.stage ≠ .off → d.mc.thermtrip = false →
      s.makes .throttleExt (throttles { low with pwr := { d.pwr with ext := true } })) ∧
    (d.drivesThrottle = true → s.makes .throttleNHigh d) ∧
    (d.drivesThrottle = false → s.makes .throttleNHigh { d with pins := { d.pins with throttleLow := false }, pwr := { d.pwr with ext := false } }) ∧
    (d.mainUp = true →
      (d.pwr.throttled = false ∨ d.pwr.caused = true → s.makes .throttleRelease d) ∧
      (d.pwr.throttled = true → d.pwr.caused = false →
        (d.fc.armed = true → s.makes .throttleRelease { d with pwr := { d.pwr with releaseDue := true } }) ∧
        (d.fc.armed = false → ∃ e : Dev, s.makes .throttleRelease e ∧ e = { d with pwr := e.pwr, ctrs := e.ctrs } ∧
          e.pwr = { d.pwr with throttled := false, releaseDue := false, powerEntries := 0
                               level := max 575 (d.pwr.level - 25 * d.pwr.powerEntries), clk := min (profileClock d.mc.profile) d.clkCap }))) ∧
    (∀ w : Word,
      let free : Dev := { d with heldLo := d.heldLo.erase 0 }
      let kept := free.setPreg .pwr 0x88 (w &&& 0xFFF#32)
      (d.pageAnswers .pwr = false → s.makes (.clkCapWrite w) free) ∧
      (d.pageAnswers .pwr = true → d.fc.armed = true → s.makes (.clkCapWrite w) kept) ∧
      (d.pageAnswers .pwr = true → d.fc.armed = false → ∃ e : Dev, s.makes (.clkCapWrite w) e ∧
        e = { kept with pwr := { d.pwr with clk := e.pwr.clk }, ctrs := e.ctrs } ∧ 575 ≤ e.pwr.clk ∧ e.pwr.clk ≤ profileClock d.mc.profile ∧
        (575 ≤ fld w 0 12 → fld w 0 12 ≤ profileClock d.mc.profile → e.pwr.clk = fld w 0 12 / 25 * 25))) ∧
    (d.mc.stage = .off → (∀ k, s.makes (.sensorFail k) d) ∧ ∀ r, s.makes (.sensorRead r) d) ∧
    (d.mc.stage ≠ .off → ∀ k : Fin 46,
      (d.pwr.failed.getD k.val false = true → s.makes (.sensorFail k) d) ∧
      (d.pwr.failed.getD k.val false = false → s.makes (.sensorFail k)
        ((({ d with pwr := { d.pwr with failed := d.pwr.failed.set k.val true } } : Dev).raise .pwr 4).thresholds [])) ∧
      ∀ v : BitVec 12,
        let x := v.toNat
        let sole : Prop := ∀ j, j < 46 → j ≠ k.val → d.sensor j < high j ∧ d.pwr.hot.getD j false = false
        let sorted : Prop := d.pwr.failed.wf = true ∧ d.pwr.hot.wf = true ∧ d.pwr.tripOnce.wf = true
        let taken : Pwr := { d.pwr with temps := d.pwr.temps.set k.val x, failed := d.pwr.failed.erase k.val }
        let logs (n : Nat) : Prop := d.actSev .pwr n = 0 ∧ d.isRailed .pwr n = false ∧ ∀ j, j < 4 →
          fld (d.preg .pwr (blkDew0 + 4 * j)) 0 12 = 0 ∨ fld (d.preg .pwr (blkDew0 + 4 * j)) 12 5 ≠ n
        let logged (n : Nat) : Dev := { (d.setPreg .pwr blkSticky (setBit (d.preg .pwr blkSticky) n true)) with
          flt := { d.flt with cnt := d.flt.cnt.modify (32 * Page.index .pwr + n) 0 fun x => satAdd x 1 } }
        let once : Prop := k.val < 38 ∧ d.pwr.tripOnce.getD k.val false = true ∧ 1200 ≤ x
        (sole → sorted → x < high k.val → d.pwr.hot.getD k.val false = false → d.pwr.temp = false → ∃ p : Pwr,
          s.makes (.sensorRead [(k, v)]) { d with pwr := p } ∧ p = { taken with hot := p.hot, tripOnce := p.tripOnce } ∧
            p.hot.getD k.val false = false ∧ p.tripOnce.getD k.val false = false) ∧
        (sole → sorted → high k.val ≤ x → x < limit k.val → d.pwr.hot.getD k.val false = true → d.pwr.temp = false → ∃ p : Pwr,
          s.makes (.sensorRead [(k, v)]) { d with pwr := p } ∧ p.hot.getD k.val false = true ∧ p.temps = taken.temps) ∧
        (sole → sorted → high k.val ≤ x → x < limit k.val → d.pwr.hot.getD k.val false = false → d.pwr.temp = false → logs 1 → ∃ p : Pwr,
          s.makes (.sensorRead [(k, v)]) { logged 1 with pwr := p } ∧ p.hot.getD k.val false = true ∧ p.temps = taken.temps) ∧
        (sole → sorted → limit k.val ≤ x → d.pwr.hot.getD k.val false = true → d.pwr.temp = false → logs 2 →
          d.pwr.tripOnce.getD k.val false = false → d.pwr.throttled = false → d.pwr.calm ≠ .calm → d.pwr.calm ≠ .waking → ∃ p : Pwr,
          s.makes (.sensorRead [(k, v)]) ((({ logged 2 with pwr := p } : Dev).bumpAlways .pwr 0xB0 1).slotEvent 3) ∧
            p = { taken with
              temp := true, throttled := true, releaseDue := false, hot := p.hot, tripOnce := p.tripOnce }) ∧
        (sole → sorted → x < high k.val → d.pwr.hot.getD k.val false = false → d.pwr.temp = true → d.pins.throttleLow = false → ∃ p : Pwr,
          s.makes (.sensorRead [(k, v)]) { d with pwr := p } ∧
            p = { taken with temp := false, hot := p.hot, tripOnce := p.tripOnce }) ∧
        (sole → sorted → limit k.val ≤ x → d.pwr.hot.getD k.val false = true → d.pwr.temp = true → d.mc.thermtrip = false → once →
          d.evr.queue.length < 256 → d.mc.stage ≠ .recovery → ∃ e : Dev, s.makes (.sensorRead [(k, v)]) (e.raise .pwr 5) ∧
          e.mc = { d.mc with thermtrip := true } ∧
          e.evr.queue = d.evr.queue ++ [d.event 0x30 (Page.index .pwr) 0 0 false (bytesLE 2 e.hottest) true]))

/-- R379, R600, R604, R606 to R610, R613, R619 to R621: every period adds the measured energy to its counters and grants the budget of the profile, no
consumer more than its demand, and the memory ports all of theirs where it fits, whatever the cores ask for; a fourth consecutive period over budget
throttles, and so does a later one of the run once that cause has cleared. A held core counts its cycles. Calm is entered only while everything is at
rest, and ends by wake, when a low THROTTLE_N that the package does not drive counts. A refresh that is due is done in its window, deferred up to
eight, then done at once with its stall. -/
def Obligations.GustAndCalm : Prop :=
  ∀ (s : State), s.dev.mainUp = true →
    let d := s.dev
    let free : Dev := { d with heldLo := d.heldLo.erase 0 }
    (∀ (energy estimate gated : List Nat) (avgW : Nat),
      let total := ((List.range 19).map fun i => energy.getD i 0).sum
      let budget := 2 * profileLimit d.mc.profile
      ∃ e : Dev, s.makes (.gustPeriod energy estimate gated avgW)
          (if 3 ≤ d.pwr.overBudget ∧ budget < total ∧ d.pwr.power = false then (e.raise .pwr 3).throttle else e) ∧
        e = { d with pwr := e.pwr, ctrs := e.ctrs } ∧
        e.ctr .pwr 0xA0 = satAdd (d.ctr .pwr 0xA0) total ∧
        (∀ i, i < 18 → e.ctr .pwr (0x100 + 8 * i) = satAdd (d.ctr .pwr (0x100 + 8 * i)) (energy.getD i 0)) ∧
        (∀ n, n < 8 → e.pwr.grants.getD (8 + n) 0 ≤ energy.getD (8 + n) 0 + estimate.getD (8 + n) 0) ∧
        (∀ c, c < 8 → e.pwr.grants.getD c 0 ≤ if d.coreEnabled c then energy.getD c 0 + estimate.getD c 0 else 0) ∧
        ((List.range 16).map fun i => e.pwr.grants.getD i 0).sum ≤ budget - 40 - energy.getD 16 0 - energy.getD 17 0 ∧
        (((List.range 8).map fun n => energy.getD (8 + n) 0 + estimate.getD (8 + n) 0).sum ≤ budget - 40 - energy.getD 16 0 - energy.getD 17 0 →
          ∀ n, n < 8 → e.pwr.grants.getD (8 + n) 0 = energy.getD (8 + n) 0 + estimate.getD (8 + n) 0) ∧
        (budget < total → e.pwr.overBudget = d.pwr.overBudget + 1) ∧ (total ≤ budget → e.pwr.overBudget = 0) ∧
        (3 ≤ d.pwr.overBudget → budget < total → d.pwr.power = false → e.pwr.power = true) ∧
        e.pwr.spent = ⟨[]⟩ ∧ e.pwr.avgW = avgW % 65536 ∧ e.pwr.calm = d.pwr.calm ∧ e.pwr.clk = d.pwr.clk) ∧
    (∀ (i : Fin 16) (n : Nat),
      let held : Dev := { d with pwr := { d.pwr with spent := d.pwr.spent.set i.val true } }
      s.makes (.grantSpent i n) (if i.val < 8 then held.bumpAlways .pwr 0xA8 n else held)) ∧
    (d.pageAnswers .pwr = false ∨ d.pageOn .pwr = false → s.makes .calm free ∧ s.makes .wake free) ∧
    (d.pageAnswers .pwr = true → d.pageOn .pwr = true →
      let may : Prop := d.pwr.calm = .run ∧ d.allHalted = true ∧ d.stages.cells = [] ∧ (d.colls.cells.all fun c => c.2.state != .running) = true ∧
        d.fc.armed = false ∧ bit (d.preg .tmb 0x80) 0 = false ∧ ∀ p, p < 12 → bit (d.preg (.fport p) 0x80) 0 = false
      (may → s.makes .calm { free with pwr := { d.pwr with refused := false, calm := .entering } }) ∧
      (¬ may → s.makes .calm { free with pwr := { d.pwr with refused := true } }) ∧
      (d.pwr.calm = .calm → s.makes .wake { free with pwr := { d.pwr with refused := false, calm := .waking } }) ∧
      (d.pwr.calm ≠ .calm → s.makes .wake { free with pwr := { d.pwr with refused := false } })) ∧
    (d.pwr.calm ≠ .entering → s.makes .calmEntered d) ∧
    (d.pwr.calm = .entering → ∃ e : Dev, s.makes .calmEntered e ∧ e = { d with pwr := { d.pwr with calm := .calm, throttled := false, releaseDue := false }, ports := e.ports } ∧
      ∀ p, (e.fport p).fast = (if (d.ports.get? p).isSome then false else (d.fport p).fast) ∧ (e.fport p).state = (d.fport p).state) ∧
    (d.pwr.calm ≠ .waking → s.makes .wakeDone d) ∧
    (d.pwr.calm = .waking → (∀ k, k < 46 → d.sensor k < if 38 ≤ k then 950 else 1050) →
      let e : Dev := { d with pwr := { d.pwr with calm := .run, temp := false, power := false, ext := d.pins.throttleLow } }
      (d.pins.throttleLow = false → s.makes .wakeDone e) ∧
      (d.pins.throttleLow = true → s.makes .wakeDone e.throttle)) ∧
    ∀ n : Fin 8,
      let debt := d.fc.debt.getD n.val 0
      (d.refreshing = false → s.makes (.hbmRefreshDue n) d.fcSettle) ∧
      (d.refreshing = true → d.windowOf n.val = true → s.makes (.hbmRefreshDue n) (d.bump (.mem n.val) 0xA0 1).fcSettle) ∧
      (d.refreshing = true → d.windowOf n.val = false →
        (debt < 8 → s.makes (.hbmRefreshDue n) ({ d with fc := { d.fc with debt := d.fc.debt.set n.val (debt + 1) } } : Dev).fcSettle) ∧
        (8 ≤ debt → s.makes (.hbmRefreshDue n) ((d.bump (.mem n.val) 0xA8 1).slotEvent 2).fcSettle))

/-! ### Host port and registers (23, 25) -/

/-- R635, R636, R644, R645, R649, R658: a doorbell moves a ring's tail or releases its completions, an index of the array's size or more does nothing, and
a completion that was held is written when there is room. A ring that is enabled with legal sizes starts afresh, what a command already started still
owes apart (that the doorbells go to 0 too is the model's choice, log entry 43); an enabled ring's other fields change by no write, which is counted.
The timer sends the message of pending completions. An acknowledgement with the page's sequence frees it, another one is counted. -/
def Obligations.HostRings : Prop :=
  ∀ (s : State) (ring : Fin 64),
    let d := s.dev
    let r := ring.val
    let x := d.hif.rings.getD r Ring.reset
    let cfg := d.preg .hif (0x410 + 32 * r)
    let put (e : Dev) (y : Ring) : Dev := { e with hif := { e.hif with rings := e.hif.rings.set r y } }
    (∀ w : Word,
      (d.mc.stage.full = false ∨ 2 ^ fld cfg 8 5 ≤ w.toNat → s.makes (.cmdTail ring w) d) ∧
      (d.mc.stage.full = true → w.toNat < 2 ^ fld cfg 8 5 → s.makes (.cmdTail ring w) (put d { x with tail := w.toNat })) ∧
      (d.mc.stage.full = false ∨ 2 ^ fld cfg 16 5 ≤ w.toNat → s.makes (.cplHead ring w) d) ∧
      (d.mc.stage.full = true → w.toNat < 2 ^ fld cfg 16 5 →
        let moved := put d { x with cplHead := w.toNat }
        (x.heldCpl = none → s.makes (.cplHead ring w) moved) ∧
        ∀ c, x.heldCpl = some c →
          ((x.cplTail + 1) % 2 ^ fld cfg 16 5 = w.toNat → s.makes (.cplHead ring w) (put moved { x with cplHead := w.toNat, heldCpl := some c })) ∧
          ((x.cplTail + 1) % 2 ^ fld cfg 16 5 ≠ w.toNat → s.makes (.cplHead ring w) (moved.writeCpl r c)))) ∧
    (∀ (path : Path) (w : Word),
      let free : Dev := { d with heldLo := d.heldLo.erase (pathNo path) }
      let v := w &&& 0x001F1F01#32
      let legal : Prop := 6 ≤ fld v 8 5 ∧ fld v 8 5 ≤ 16 ∧ 6 ≤ fld v 16 5 ∧ fld v 16 5 ≤ 16
      let stored (u : Word) := free.setPreg .hif (0x410 + 32 * r) u
      (d.pageAnswers .hif = false → s.makes (.ringEnable path ring w) free) ∧
      (d.pageAnswers .hif = true →
        (bit cfg 0 = true → (v ^^^ cfg) &&& 0x001F1F00#32 ≠ 0 → s.makes (.ringEnable path ring w) (free.ignored path (0x6410 + 32 * r))) ∧
        (bit cfg 0 = true → (v ^^^ cfg) &&& 0x001F1F00#32 = 0 → s.makes (.ringEnable path ring w) (stored v)) ∧
        (bit cfg 0 = false → bit w 0 = false → s.makes (.ringEnable path ring w) (stored v)) ∧
        (bit cfg 0 = false → bit w 0 = true → ¬ legal → s.makes (.ringEnable path ring w) (stored (setBit v 0 false))) ∧
        (bit cfg 0 = false → bit w 0 = true → legal →
          let fresh : Ring := { head := 0, tail := 0, cplTail := 0, cplHead := 0, seq := 0, waiting := x.waiting, copy := x.copy, heldCpl := none
                                fetchErr := false, irqPending := 0 }
          (x.heldCpl = none → s.makes (.ringEnable path ring w) (put (stored v) fresh)) ∧
          ∀ c, x.heldCpl = some c → s.makes (.ringEnable path ring w) ((put (stored v) fresh).writeCpl r c)))) ∧
    (0 < x.irqPending → fld (d.preg .hif (0x414 + 32 * r)) 24 8 ≠ 0 →
      s.makes (.irqTimer ring) ((put d { x with irqPending := 0 }).msix (fld (d.preg .hif (0x414 + 32 * r)) 0 11))) ∧
    (x.irqPending = 0 ∨ fld (d.preg .hif (0x414 + 32 * r)) 24 8 = 0 → s.makes (.irqTimer ring) d) ∧
    ∀ (page : BitVec 12) (seq : Word),
      let p := d.hif.pages.getD page.toNat ResultPage.reset
      (d.mc.stage.full = false → s.makes (.resultAck page seq) d) ∧
      (d.mc.stage.full = true → p.valid = true → p.seq = seq →
        s.makes (.resultAck page seq) { d with hif := { d.hif with pages := d.hif.pages.erase page.toNat } }) ∧
      (d.mc.stage.full = true → p.valid = false ∨ p.seq ≠ seq → s.makes (.resultAck page seq) (d.bump .hif 0xE8 1))

/-- R617, R637 to R644, R648: a ring that may run takes its next command, claims the result page it names, and completes with the lowest status that
holds: bad opcode, bad field, bad address, fenced, host error, timeout, page in use; else with OK and its value: NOP its own, a copy or fill its
length, CRC the CRC-64, READ its length with the data in the page, TIME the fabric time, SYNC the value before. A copy or fill moves its first
segment, up to the next 4 KiB boundary of HBM, and goes on with one a round; what it writes goes to the mirror buddies, whose acknowledgement it
awaits. A read that meets an uncorrectable codeword has no completion and raises the port's error. WAIT holds its ring until the object meets the
value or the time is over; it and SYNC are operations of the host channel. A command on stopped clocks waits. A completion entry holds tag, sequence,
status, ring, value, time and phase, and is held while the array is full. A ring's 64 bytes are taken apart at the offsets of R638 and named by their
opcode. The completion value of a command that fails is a free value (log entry 44); where segments end, and that a round is an idle step, are the
model's choices (log entry 42). -/
def Obligations.HostCommands : Prop :=
  ∀ (s : State) (ring : Fin 64) (c : HostCmd) (data : List Byte) (op : Byte) (bad : Option Nat),
    let d := s.dev
    let r := ring.val
    let h : HostRead := { cmd := c, bad := bad }
    let x := d.hif.rings.getD r Ring.reset
    let cfg := d.preg .hif (0x410 + 32 * r)
    let put (e : Dev) (y : Ring) : Dev := { e with hif := { e.hif with rings := e.hif.rings.set r y } }
    let ready : Prop := d.mc.stage.full = true ∧ d.mc.thermtrip = false ∧ d.pageOn .hif = true ∧ bit (d.preg .hif 0x80) 0 = true ∧ bit cfg 0 = true ∧
      x.fetchErr = false ∧ x.waiting = none ∧ x.copy = none ∧ x.heldCpl = none ∧ x.head ≠ x.tail
    let core := d.corePhys (fld c.a 16 3)
    let obj := fld c.a 0 13
    let free : Prop := d.realign = false ∧ d.hopBusy core = false
    let page : Option Nat := if bit c.flags 1 then some (fld c.page 0 12) else none
    let taken := put d { x with head := (x.head + 1) % 2 ^ fld cfg 8 5 }
    let claimed : Dev := match page with
      | some k => { taken with hif := { taken.hif with pages := d.hif.pages.set k { ResultPage.reset with claimed := true } } }
      | none => taken
    let b := c.b.toNat
    let n := c.len.toNat
    let reserved := fld c.flags 2 6 ≠ 0 ∨ fld c.page 12 4 ≠ 0 ∨ c.rsv ≠ 0
    let outside := b / 2 ^ 48 ≠ d.position ∨ 2 ^ 39 ≤ b % 2 ^ 48 ∨ b / 2 ^ 36 ≠ (b + (n - 1)) / 2 ^ 36
    let fails (cmd : Instr) (status : Nat) := s.makes cmd (claimed.endCmd r c { status := status, value := 0, data := [] })
    let gives (cmd : Instr) (e : Dev) (v : DWord) (bytes : List Byte) := s.makes cmd (e.endCmd r c { status := 0, value := v, data := bytes })
    let hbm (cmd : Instr) (badField : Prop) (result : Prop) : Prop :=
      let wrong : Prop := reserved ∨ b % 4 ≠ 0 ∨ n % 4 ≠ 0 ∨ badField
      (wrong → fails cmd 2) ∧ (¬ wrong → outside → fails cmd 3) ∧ (¬ wrong → ¬ outside → d.isFenced (.mem (b / 2 ^ 36 % 8)) = true → fails cmd 4) ∧
      (¬ wrong → ¬ outside → d.isFenced (.mem (b / 2 ^ 36 % 8)) = false → result)
    let length : Prop := n < 4 ∨ 2 ^ 36 < n
    let a := b % 2 ^ 48
    let seg := min n (4096 - a % 4096)
    let wrote (bs : List Byte) : Dev := if bs = [] then claimed else claimed.hostAct.hostPut (.host r) a bs
    let goes (e : Dev) (y : CopyRun) : Dev :=
      let ended (z : Option CopyRun) := put e { e.hif.rings.getD r Ring.reset with copy := z }
      if n ≤ y.off && !e.mirrorLeft (.host r) then (ended none).endCmd r c { status := 0, value := c.len, data := dwordBytes c.len } else ended (some y)
    let run (kind : CopyKind) (off : Nat) (counted : Bool) : CopyRun := { cmd := c, kind := kind, off := off, counted := counted }
    let plain (f : Instr → Prop) : Prop := f (.cmdNop ring op c) ∧ f (.time ring c)
    let onUnits (f : Instr → Prop) : Prop := f (.copyH2d ring c data) ∧ f (.copyD2h ring h) ∧ f (.fill ring c) ∧ f (.crc ring h) ∧ f (.read ring h)
    let busy : Prop := ∃ k, page = some k ∧ (d.hif.pages.getD k ResultPage.reset).claimed = true
    let inUse := taken.endCmd r c { status := 7, value := 0, data := [] }
    (¬ ready → plain (fun cmd => s.makes cmd d)) ∧
    (¬ ready ∨ d.coreUp = false → onUnits (fun cmd => s.makes cmd d)) ∧
    (¬ ready ∨ d.coreUp = false ∨ ¬ free → s.makes (.wait ring c) d ∧ s.makes (.sync ring c) d.fcSettle) ∧
    (ready → busy → plain (fun cmd => s.makes cmd inUse) ∧ (d.coreUp = true → onUnits (fun cmd => s.makes cmd inUse)) ∧
      (d.coreUp = true → free → s.makes (.wait ring c) inUse ∧ s.makes (.sync ring c) inUse.fcSettle)) ∧
    (ready → ¬ busy →
      (op ≠ 1 → fails (.cmdNop ring op c) 1) ∧ (reserved → fails (.cmdNop ring 1 c) 2 ∧ fails (.time ring c) 2) ∧
      (¬ reserved → gives (.cmdNop ring 1 c) claimed c.value (dwordBytes c.value) ∧
        gives (.time ring c) claimed (BitVec.ofNat 64 d.now) (dwordBytes (BitVec.ofNat 64 d.now)))) ∧
    (ready → ¬ busy → d.coreUp = true →
      hbm (.copyH2d ring c data) (length ∨ c.a.toNat % 4 ≠ 0) (
        (seg ≤ data.length → s.makes (.copyH2d ring c data) (goes (wrote (data.take seg)) (run (.h2d data) seg d.anyRun))) ∧
        (data.length < seg → s.makes (.copyH2d ring c data)
          ((put (wrote data) { (wrote data).hif.rings.getD r Ring.reset with copy := none }).endCmd r c { status := 5, value := 0, data := [] })) ∧
        (d.mirrorsOf a (min seg data.length) = [] → (wrote (data.take seg)).hbm = d.hbm.writeBytes a (data.take seg))) ∧
      hbm (.copyD2h ring h) (length ∨ c.a.toNat % 4 ≠ 0) (
        ((∃ k, bad = some k ∧ k < seg) → s.makes (.copyD2h ring h) (claimed.raise (.mem (a / 2 ^ 36)) 1)) ∧
        ((∀ k, bad = some k → seg ≤ k) → s.makes (.copyD2h ring h)
          (goes { claimed with sent := d.sent ++ [.hostWrite c.a.toNat (d.hbm.readBytes a seg)] } (run (.d2h bad) seg false)))) ∧
      hbm (.fill ring c) False (
        let bytes := (List.replicate (seg / 4) (bytesLE 4 c.value.toNat)).flatten
        s.makes (.fill ring c) (goes (wrote bytes) (run .fill seg (d.anyRun && n != 0))) ∧
        (d.mirrorsOf a seg = [] → (wrote bytes).hbm = d.hbm.writeBytes a bytes)) ∧
      hbm (.crc ring h) False (
        ((∃ k, bad = some k ∧ k < n) → s.makes (.crc ring h) (claimed.raise (.mem (a / 2 ^ 36)) 1)) ∧
        ((∀ k, bad = some k → n ≤ k) → gives (.crc ring h) claimed (crc64 0 (d.hbm.readBytes a n)) (dwordBytes (crc64 0 (d.hbm.readBytes a n))))) ∧
      hbm (.read ring h) (n < 4 ∨ 4080 < n ∨ page = none) (
        ((∃ k, bad = some k ∧ k < n) → s.makes (.read ring h) (claimed.raise (.mem (a / 2 ^ 36)) 1)) ∧
        ((∀ k, bad = some k → n ≤ k) → gives (.read ring h) claimed c.len (d.hbm.readBytes a n))) ∧
      (let unbound : Prop := d.boundCount d.mapCore ≤ fld c.a 16 3
       let fenced := d.isFenced (.core core)
       free →
         let refused (k : Nat) := s.makes (.sync ring c) (claimed.endCmd r c { status := k, value := 0, data := [] }).fcSettle
         (reserved → refused 2 ∧ fails (.wait ring c) 2) ∧ (¬ reserved → unbound → refused 3 ∧ fails (.wait ring c) 3) ∧
         (¬ reserved → ¬ unbound → fenced = true → refused 4 ∧ fails (.wait ring c) 4) ∧
         (¬ reserved → ¬ unbound → fenced = false →
           let old := d.objVal core obj
           let done := claimed.applyOp core obj (fun y => if bit c.a 24 then loWord c.value else y + loWord c.value) none
           s.makes (.wait ring c) (put claimed { x with head := (x.head + 1) % 2 ^ fld cfg 8 5, waiting := some c }) ∧
           s.makes (.sync ring c) ((done.hostAct.fcSettle.endCmd r c
             { status := 0, value := old.setWidth 64, data := dwordBytes (old.setWidth 64) }).fcSettle)))) ∧
    (∀ y, x.copy = some y → y.kind = .fill → 4 ≤ y.segLen → d.isFenced (.mem (y.cmd.b.toNat % 2 ^ 48 / 2 ^ 36)) = false →
      (∀ q, q ≠ r → (d.hif.rings.getD q Ring.reset).copy = none) →
      let bytes := (List.replicate (y.segLen / 4) (bytesLE 4 y.cmd.value.toNat)).flatten
      d.mirrorsOf (y.cmd.b.toNat % 2 ^ 48 + y.off) bytes.length = [] →
        d.copyRound.hbm = d.hbm.writeBytes (y.cmd.b.toNat % 2 ^ 48 + y.off) bytes ∧
        (y.off + bytes.length < y.cmd.len.toNat → (d.copyRound.hif.rings.getD r Ring.reset).copy =
          some { y with off := y.off + bytes.length, counted := y.counted || d.anyRun })) ∧
    (x.waiting = none → s.makes (.waitComplete ring) d ∧ s.makes (.waitTimeout ring) d) ∧
    (∀ w, x.waiting = some w →
      let v := d.objVal (d.corePhys (fld w.a 16 3)) (fld w.a 0 13)
      let met : Prop := (if bit w.a 25 then v = loWord w.value else (loWord w.value).toNat ≤ v.toNat) ∧
        d.coreUp = true ∧ d.realign = false ∧ d.hopBusy (d.corePhys (fld w.a 16 3)) = false
      let freed := put d { x with waiting := none }
      (met → s.makes (.waitComplete ring) (freed.endCmd r w { status := 0, value := v.setWidth 64, data := dwordBytes (v.setWidth 64) })) ∧
      (¬ met → s.makes (.waitComplete ring) d) ∧
      (w.timeout = 0 → s.makes (.waitTimeout ring) d) ∧
      (w.timeout ≠ 0 → s.makes (.waitTimeout ring) (freed.endCmd r w { status := 6, value := 0, data := [] }))) ∧
    (ready → page = none → bit c.flags 0 = false → ¬ reserved →
      let m := 2 ^ fld cfg 16 5
      let head := (x.head + 1) % 2 ^ fld cfg 8 5
      let base := (joinWords (d.preg .hif (0x40C + 32 * r)) (d.preg .hif (0x408 + 32 * r))).toNat
      let entry := bytesLE 4 c.tag.toNat ++ bytesLE 4 x.seq.toNat ++ [0, BitVec.ofNat 8 r, 0, 0] ++ bytesLE 8 c.value.toNat ++ bytesLE 8 d.now ++
        [0, 0, 0, if x.seq.toNat / m % 2 = 0 then 1 else 0]
      ((x.cplTail + 1) % m = x.cplHead → ∃ y : Ring, s.makes (.cmdNop ring 1 c) (put d y) ∧ y = { x with head := head, heldCpl := y.heldCpl } ∧
        y.heldCpl = some { tag := c.tag, status := 0, page := none, value := c.value, irq := false }) ∧
      ((x.cplTail + 1) % m ≠ x.cplHead → ∃ e : Dev, s.makes (.cmdNop ring 1 c) e ∧ e = { d with hif := e.hif, ctrs := e.ctrs, sent := e.sent } ∧
        e.sent = d.sent ++ [.hostWrite (base + 32 * (x.seq.toNat % m)) entry] ∧ entry.length = 32 ∧
        e.hif.rings.getD r Ring.reset = { x with head := head, cplTail := (x.cplTail + 1) % m, seq := x.seq + 1 } ∧
        ∀ q, q ≠ r → e.hif.rings.getD q Ring.reset = d.hif.rings.getD q Ring.reset)) ∧
    (c.rsv < 2 ^ 160 →
      let bytes (o : Byte) : List Byte := [o] ++ bytesLE 1 c.flags.toNat ++ bytesLE 2 c.page.toNat ++ bytesLE 4 c.tag.toNat ++ bytesLE 8 c.a.toNat ++ bytesLE 8 c.b.toNat ++
        bytesLE 8 c.len.toNat ++ bytesLE 8 c.value.toNat ++ bytesLE 4 c.timeout.toNat ++ bytesLE 20 c.rsv
      let named (o : Byte) (cmd : Instr) : Prop := ringCommand ring (bytes o) data bad = cmd
      (bytes op).length = 64 ∧ named 2 (.copyH2d ring c data) ∧ named 3 (.copyD2h ring h) ∧ named 4 (.fill ring c) ∧ named 5 (.crc ring h) ∧
      named 6 (.sync ring c) ∧ named 7 (.wait ring c) ∧ named 8 (.read ring h) ∧ named 9 (.time ring c) ∧
      (op.toNat < 2 ∨ 9 < op.toNat → named op (.cmdNop ring op c))) ∧
    ∀ (k : Nat) (v : DWord) (bytes : List Byte), page = some k →
      (d.endCmd r c { status := 0, value := v, data := bytes }).hif.pages.getD k ResultPage.reset =
        { claimed := true, valid := true, status := 0, ring := r, seq := x.seq, data := bytes }

/-- R631, R633: BAR2 reads and writes the HBM from its base; a byte beyond the installed 512 GiB or in a fenced port reads FF and is not written, and a
request with one is counted; one that reads an uncorrectable codeword has no completion and raises the port's error. What a write stores goes to the
mirror buddies. With the rest of the host port: HIF_CTRL is stored, and dlv_en from 0 to 1 starts the delivery ring afresh (R651); a write that stores
a byte while a tile runs is a host action (R495); a function level reset clears the host port's registers, rings, pages and table, and keeps the link
and a bundle that waits (R630). The model's choices: a read before the host port is enabled returns zeros (log entry 12), and while the clocks are
stopped none is served (log entry 42). -/
def Obligations.HostWindow : Prop :=
  ∀ (s : State),
    let d := s.dev
    let free : Dev := { d with heldLo := d.heldLo.erase 0 }
    let reach (o : Nat) : Option Nat :=
      let a := fld (d.preg .hif 0x88) 0 9 * 2 ^ 30 + o
      if 2 ^ 39 ≤ a ∨ d.isFenced (.mem (a / 2 ^ 36)) = true then none else some a
    (∀ w : Word,
      let kept := free.setPreg .hif 0x80 (w &&& 7#32)
      (d.pageAnswers .hif = false → s.makes (.dlvEnable w) free) ∧
      (d.pageAnswers .hif = true → bit (d.preg .hif 0x80) 1 = true ∨ bit w 1 = false → s.makes (.dlvEnable w) kept) ∧
      (d.pageAnswers .hif = true → bit (d.preg .hif 0x80) 1 = false → bit w 1 = true →
        s.makes (.dlvEnable w) { kept.setPreg .hif 0x9C 0 with hif := { d.hif with dlvTail := 0, dlvPhase := true } })) ∧
    (d.mc.stage.full = false → ∀ off (n : BitVec 13) bad, s.makes (.bar2Read off { n := n, bad := bad }) { d with sent := d.sent ++ [.readData (List.replicate n.toNat 0)] }) ∧
    (d.mc.stage.full = true → d.coreUp = false → ∀ off span, s.makes (.bar2Read off span) d) ∧
    (d.coreUp = false → ∀ off bs, s.makes (.bar2Write off bs) d) ∧
    (d.coreUp = true → ∀ off : BitVec 36,
      (∀ n : BitVec 13,
        let good : ReadSpan := { n := n, bad := false }
        let spoilt : ReadSpan := { n := n, bad := true }
        let bytes := (List.range n.toNat).map fun i => match reach (off.toNat + i) with
          | some a => d.hbm.get a
          | none => 0xFF#8
        (∀ a, 0 < n.toNat → reach off.toNat = some a → (∀ i, i < n.toNat → reach (off.toNat + i) ≠ none) →
          s.makes (.bar2Read off spoilt) (d.raise (.mem (a / 2 ^ 36)) 1)) ∧
        ((∀ i, i < n.toNat → reach (off.toNat + i) ≠ none) → s.makes (.bar2Read off good) { d with sent := d.sent ++ [.readData bytes] }) ∧
        ((∃ i, i < n.toNat ∧ reach (off.toNat + i) = none) → ∃ e : Dev, s.makes (.bar2Read off good) e ∧
          e = { d with sent := d.sent ++ [.readData bytes], ctrs := e.ctrs } ∧ (d.pageOn .hif = true → e.ctr .hif 0xC8 = satAdd (d.ctr .hif 0xC8) 1))) ∧
      (∀ (bs : List Byte) (a : Nat), bs ≠ [] → reach off.toNat = some a → (∀ i, i < bs.length → reach (off.toNat + i) ≠ none) →
        s.makes (.bar2Write off bs) (d.hostAct.hostPut .none a bs)) ∧
      ∀ bs : List Byte, off.toNat + bs.length ≤ 2 ^ 36 → (∀ a n, d.mirrorsOf a n = []) →
        let stores : Prop := ∃ i, i < bs.length ∧ reach (off.toNat + i) ≠ none
        ∃ e : Dev, s.makes (.bar2Write off bs) e ∧ e = { d with hbm := e.hbm, ctrs := e.ctrs, rsl := e.rsl } ∧
        (d.anyRun = false ∨ ¬ stores → e.rsl = d.rsl) ∧ (d.anyRun = true → stores → e.rsl = { d.rsl with hostOps := satAdd d.rsl.hostOps 1 }) ∧
        ((∃ i, i < bs.length ∧ reach (off.toNat + i) = none) → d.pageOn .hif = true → e.ctr .hif 0xC8 = satAdd (d.ctr .hif 0xC8) 1) ∧
        ((∀ i, i < bs.length → reach (off.toNat + i) ≠ none) → e.ctrs = d.ctrs) ∧
        (d.hbm.wf = true → ∀ i a, i < bs.length → reach (off.toNat + i) = some a → e.hbm.get a = bs.getD i 0) ∧
        ∀ a, (∀ i, i < bs.length → reach (off.toNat + i) ≠ some a) → e.hbm.get a = d.hbm.get a) ∧
    (d.pins.perstN = false ∨ d.mc.stage = .off ∨ d.mc.railLost = true → s.makes .functionLevelReset d) ∧
    (d.pins.perstN = true → d.mc.stage ≠ .off → d.mc.railLost = false → ∃ e : Dev, s.makes .functionLevelReset e ∧
      e = { d with regs := e.regs, ctrs := e.ctrs, flt := { d.flt with dew := e.flt.dew }, hif := e.hif } ∧
      e.hif = { Hif.reset with link := d.hif.link, held := d.hif.held, heldReported := d.hif.heldReported } ∧
      (∀ o, e.regs.get? o = if o / 0x1000 = 6 then none else d.regs.get? o) ∧ ∀ o, e.ctrs.get? o = if o / 0x1000 = 6 then none else d.ctrs.get? o)

/-- R16, R628, R680 to R682, R684: a write of a register stores the fields it has, a field that holds a reserved encoding (one out of its row's range)
excepted, which keeps its value; a write whose condition fails changes nothing and is counted with its offset and path; a write that is not of four
aligned bytes, or of an offset no table lists, is a bad access. The two halves of a 64-bit register are written together. BLK_CTRL.en is stored, and
soft_reset clears the page's counters (of a queue page where no message waits at an ingress) and, of a tile, halts and keeps its memories; it and its
write are ignored where the block's condition fails. While a soft reset of a block is in progress, writes of its own registers have no effect. The
model's choices: an offset no table lists is a bad access (log entry 12), which writes are ignored without a count (log entry 13), and what else a
soft reset leaves, which lasts until the next idle step (log entry 14). -/
def Obligations.RegisterWrites : Prop :=
  ∀ (s : State) (path : Path), path = .bar0 ∨ path = .mgmt → s.dev.mc.stage ≠ .off →
    let d := s.dev
    let free : Dev := { d with heldLo := d.heldLo.erase (pathNo path) }
    (∀ (off : BitVec 28) (size : Nat) (w : Word), size ≠ 4 ∨ off.toNat % 4 ≠ 0 → s.makes (.registerWrite path off size w) (free.badAccess off.toNat true false)) ∧
    (∀ (off : BitVec 28) (w : Word), off.toNat % 4 = 0 → 2 ^ 26 ≤ off.toNat ∨ placeOf off.toNat = .reserved →
      s.makes (.registerWrite path off 4 w) (free.badAccess off.toNat true true)) ∧
    (∀ (off : BitVec 28) (w : Word) (p : Page) (o : Nat), off.toNat % 4 = 0 → off.toNat < 2 ^ 26 → placeOf off.toNat = .page p o →
      let cmd := Instr.registerWrite path off 4 w
      (d.pageUp p = false → s.makes cmd free) ∧
      (p.hasReg o = true → 0x80 ≤ o → d.softBusy.contains p.index = true → s.makes cmd free) ∧
      (d.pageUp p = true → p.hasReg o = false → s.makes cmd (free.badAccess off.toNat true true)) ∧
      (d.pageAnswers p = true → p.hasReg o = true → 0x80 ≤ o → free.actWrite path p o w = none → ∀ row, p.row? o = some row →
        let held := free.guardOk p row.guard
        let old := d.preg p o
        (row.wide = none → held = true →
            (row.caps = [] → s.makes cmd (free.setPreg p o (row.merge old w))) ∧
            ∀ f, row.caps = [f] →
              let legal : Prop := f.least ≤ fld w f.lo f.len ∧ fld w f.lo f.len ≤ f.most
              (legal → s.makes cmd (free.setPreg p o (row.merge old w))) ∧
              (¬ legal → s.makes cmd (free.setPreg p o (row.merge old (setFld w f.lo f.len (fld old f.lo f.len)))))) ∧
          (row.wide = none → held = false → s.makes cmd (free.ignored path (p.base + o))) ∧
          (row.wide = some false → s.makes cmd { d with heldLo := (d.heldLo.erase (pathNo path)).set (pathNo path) (p.base + o, w) }) ∧
          (row.wide = some true → held = false → s.makes cmd (free.ignored path (p.base + o))) ∧
          (∀ low lo, row.wide = some true → held = true → p.row? (o - 4) = some low → d.heldLo.get? (pathNo path) = some (off.toNat - 4, lo) → 4 ≤ off.toNat →
            let both := keepCaps row.caps (joinWords old (d.preg p (o - 4))) (joinWords w lo)
            (row.caps = [] → both = joinWords w lo) ∧
            s.makes cmd ((free.setPreg p (o - 4) (low.merge (d.preg p (o - 4)) (loWord both))).setPreg p o (row.merge old (hiWord both)))))) ∧
    (∀ (off : BitVec 26) (w : Word) (p : Page), placeOf (off.toNat / 0x1000 * 0x1000 + blkCtrl) = .page p blkCtrl →
      let en := bit w 0
      (d.pageUp p = false → s.makes (.blkCtrlEn path off w) free ∧ s.makes (.softReset path off w) free) ∧
      (d.pageUp p = true →
        (bit w 1 = false ∨ free.softOk p = none → s.makes (.blkCtrlEn path off w) (free.setEn p en)) ∧
        (bit w 1 = false → p ∈ [Page.glb, .pwr, .evr, .tel, .hif] → s.makes (.blkCtrlEn path off w) (free.setPreg p blkCtrl (if en then 1 else 0))) ∧
        (free.softOk p = none → s.makes (.softReset path off w) (free.setEn p en)) ∧
        (free.softOk p = some false → s.makes (.softReset path off w) (free.ignored path (p.base + blkCtrl)) ∧
          (bit w 1 = true → s.makes (.blkCtrlEn path off w) (free.ignored path (p.base + blkCtrl)))) ∧
        (free.softOk p = some true → let e := free.softEffect p
          let busy : Dev := { e with softBusy := if e.softBusy.contains p.index then e.softBusy else e.softBusy ++ [p.index] }
          s.makes (.softReset path off w) (busy.setEn p en) ∧
          ((∀ c, p = .queue c → d.ingress.cells = []) →
          (∀ k, k / 0x1000 = p.base / 0x1000 → e.ctrs.get? k = none) ∧
          (∀ t, p = .tile t → (e.tile t).fg.run = false ∧ (e.tile t).sel = none ∧ (e.tile t).wcb = [] ∧ (e.tile t).spad = (d.tile t).spad ∧
            (e.tile t).imem = (d.tile t).imem) ∧ e.hbm = d.hbm ∧ e.pool = d.pool))))

/-! ### Start-up and reset (24) -/

/-- R10, R599, R617, R662 to R666, R670, R674, R675, R702, R711: PWR_OK rising boots the MC with the profile of the straps, and the link dies that have
their reference clock are noted; PWR_OK falling resets everything but fuses and flash. A lost rail resets the main domain and holds it until PWR_OK
has fallen. PERST_N low resets the main domain and the host port, keeping the fences of FAILED units; high, it starts stage 2. A FULL reset leaves no
program, no tile state and no register written. JTAG_TRST_N resets the TAP, which selects IDCODE. Outputs are released or idle with PWR_OK low and
with the main domain in reset. An update clears units from the MC's store and is recorded. The model's choices: a rail loss is noted for the next boot
(log entry 49), and memory reads as zero after a reset (log entry 2). -/
def Obligations.PowerAndReset : Prop :=
  ∀ (s : State),
    let d := s.dev
    let blank (e : Dev) : Prop := e.regs = ⟨[]⟩ ∧ e.ctrs = ⟨[]⟩ ∧ e.tiles = ⟨[]⟩ ∧ e.pool = ⟨[]⟩ ∧ e.hbm = Mem.empty ∧ e.fc = Fc.reset ∧ e.colls = ⟨[]⟩ ∧
      e.ports = ⟨[]⟩ ∧ e.stages = ⟨[]⟩ ∧ e.fuses = d.fuses ∧ e.inc = d.inc + 1 ∧ e.sent = d.sent
    let runs (m : Mc) : Prop := m.booted = true ∧ m.railLost = false ∧ m.holdAck = false ∧ m.thermtrip = false ∧ m.stage ≠ .recovery
    let stored (m : Mc) : Prop := m.failedStore = d.mc.failedStore ∧ m.keystone = d.mc.keystone ∧ m.journal = d.mc.journal
    (d.pins.pwrOk = false → s.makes .powerDown d ∧ s.makes .railLoss d) ∧
    (d.pins.pwrOk = true → (∀ a b v l, s.makes (.powerUp a b v l) d) ∧ ∃ e : Dev, s.makes .powerDown e ∧ blank e ∧ stored e.mc ∧ e.mc.stage = .off ∧
      e.pins = { d.pins with pwrOk := false } ∧ e.evr.circ = d.evr.circ ∧ e.evr.fixedSlots = d.evr.fixedSlots ∧ e.evr.counters = d.evr.counters ∧
      e.evr.key = d.evr.key ∧ e.evr.queue = [] ∧ e.flt = Flt.reset ∧ e.hif = Hif.reset) ∧
    (d.pins.pwrOk = false → ∀ (cool1 cool2 : BitVec 2) (bootSel : Bool) (addr : BitVec 3) (fref : BitVec 2),
      ∃ e : Dev, s.makes (.powerUp cool1 cool2 bootSel ⟨addr, fref⟩) (if cool1 = cool2 ∧ cool2 ≠ 3 then e else e.raise .pwr 0) ∧ blank e ∧ stored e.mc ∧
        e.mc.stage = .mcBoot ∧ e.mc.bootSel = bootSel ∧ e.mc.i3cAddr = addr ∧ e.mc.railLost = false ∧ e.mc.cause = (if d.mc.railLost then 3 else 0) ∧
        e.mc.profile = (if cool1 = cool2 ∧ cool2 ≠ 3 then cool2.toNat else 0) ∧ e.pins = { d.pins with pwrOk := true, fref := fref }) ∧
    (d.pins.pwrOk = true → d.mc.railLost = true → s.makes .railLoss d) ∧
    (d.pins.pwrOk = true → d.mc.railLost = false → ∃ e : Dev, s.makes .railLoss e ∧ blank e ∧ e.hif = Hif.reset ∧ e.flt = Flt.reset ∧ e.evr = d.evr.pageReset ∧ e.pins = d.pins ∧
      e.mc.railLost = true ∧ e.mc.afterReset = false ∧ e.mc.holdAck = false ∧ e.mc.stage = (if d.mc.stage = .recovery then .recovery else .mcBoot) ∧
      e.mc.resetCnt = satAdd d.mc.resetCnt 1 ∧ ¬ runs e.mc) ∧
    (d.pins.perstN = false → s.makes .perstAssert d) ∧
    (d.pins.perstN = true → d.pins.pwrOk = false → s.makes .perstAssert { d with pins := { d.pins with perstN := false } }) ∧
    (d.pins.perstN = true → d.pins.pwrOk = true → ∃ e : Dev, s.makes .perstAssert e ∧ blank e ∧ e.hif = Hif.reset ∧ e.evr = d.evr.pageReset ∧
      e.pins = { d.pins with perstN := false } ∧ e.mc.cause = 1 ∧ e.mc.afterReset = false ∧ e.mc.holdAck = d.mc.holdAck ∧
      e.mc.stage = (if d.mc.stage = .recovery then .recovery else if d.mc.holdAck then .hold else .mcBoot) ∧
      e.flt.health = d.flt.health ∧ (∀ u, e.isFenced u = true → d.flt.health.getD u.code 0 = 2)) ∧
    (∀ link : BitVec 9,
      let up : Dev := { d with pins := { d.pins with perstN := true } }
      let linked : Dev := { up with hif := { d.hif with link := BitVec.ofNat 32 link.toNat } }
      (d.pins.perstN = true → s.makes (.perstDeassert link) d) ∧
      (d.pins.perstN = false → d.pins.pwrOk = false ∨ d.mc.railLost = true → s.makes (.perstDeassert link) up) ∧
      (d.pins.perstN = false → d.pins.pwrOk = true → d.mc.railLost = false → ¬ runs d.mc → s.makes (.perstDeassert link) linked) ∧
      (d.pins.perstN = false → d.pins.pwrOk = true → runs d.mc → ∃ e : Dev, s.makes (.perstDeassert link) e ∧ e = { linked with
          mc := { d.mc with stage := .fuse }, pwr := e.pwr, regs := e.regs, ctrs := ⟨[]⟩, latch := ⟨[]⟩, heldLo := ⟨[]⟩, softBusy := []
          evr := d.evr.pageReset, flt := e.flt } ∧
        e.pwr = { d.pwr with level := profileClock d.mc.profile, clk := profileClock d.mc.profile } ∧ (∀ o, o % 0x1000 ≠ blkSticky → e.regs.get? o = none) ∧
        e.flt.health = d.flt.health ∧ e.flt.fenced = d.flt.fenced ∧ e.flt.resetId = d.flt.resetId ∧ e.flt.queue = [] ∧ e.flt.active = none)) ∧
    (∃ e : Dev, s.makes .jtagTrst e ∧ e = { d with pins := { d.pins with tapReset := true } } ∧
      e.tapData = some (if d.fuses.b0 then 0x10A728EF#32 else 0x00A728EF#32)) ∧
    (d.pins.pwrOk = false → d.pin .fault = .released ∧ d.pin .thermtrip = .released ∧ d.pin .i3cSda = .released ∧ d.pin .spi = .highZ ∧
      d.pin .jtagTdo = .highZ ∧ d.pin .lull = .released ∧ d.pin .throttle = .released ∧ d.pin .pcie = .idle ∧ ∀ p, d.pin (.fabric p) = .idle) ∧
    (d.mainInReset = true → d.pin .lull = .released ∧ d.pin .throttle = .released ∧ (d.mc.holdAck = false → d.pin .fault = .released) ∧
      ∀ p, d.pin (.fabric p) = .idle) ∧
    (d.mainUp = true → s.makes .smbusFallback { d with mc := { d.mc with smbus := true } }) ∧
    (d.mainUp = false → s.makes .smbusFallback d) ∧
    ∀ (tile : Bool) (v : Word) (cleared : List (BitVec 13)),
      (d.pins.pwrOk = false ∨ d.evr.ready = false → s.makes (.firmwareUpdate tile v cleared) d) ∧
      (d.pins.pwrOk = true → d.evr.ready = true → d.evr.queue.length < 256 → ∃ e : Dev, s.makes (.firmwareUpdate tile v cleared) e ∧
        e = { d with mc := { d.mc with failedStore := e.mc.failedStore }, evr := { d.evr with queue := e.evr.queue } } ∧
        (∀ u, u ∈ e.mc.failedStore ↔ u ∈ d.mc.failedStore ∧ ∀ c, c ∈ cleared → c.toNat ≠ u) ∧
        e.evr.queue = d.evr.queue ++ [d.event 2 0 3 0 false
          (bytesLE 4 (if tile then d.mc.tfwVer else d.mc.mcVer).toNat ++ bytesLE 4 v.toNat ++ [if tile then 1 else 0]) true])

/-- R577, R588, R593, R670 to R674: each stage goes to the next, and no command of a stage acts in another: the active slot's image boots where it
verifies (signature, key digest, security version, size), else the other's, else the MC enters recovery; FAILED units of the store are fenced, and no
usable core is a failure; arrays and stacks are written zero; a stack that does not train has its port fenced; a tile whose checkrun fails is FAILED;
a configuration request that HOST_EN completes ends start-up, one before it draws Retry. The model's choices (log entries 49, 10, 38, 39): the
operands say what flash, fuses, training and checkruns find, a failed start-up still answers, arrays and stacks of zeros are empty tables, and the
events queued before a boot follow POWER_ON. -/
def Obligations.StartUpStages : Prop :=
  ∀ (s : State),
    let d := s.dev
    let at_ (st : Stage) : Prop := d.mc.stage = st
    (∀ flash, ¬ (at_ .mcBoot ∧ d.mc.booted = false) → s.makes (.mcBoot flash) d) ∧
    (at_ .mcBoot → d.mc.booted = false →
      ∀ flash : BootFlash, flash.bad = [] →
        let usable (slotB : Bool) (i : FwImage) : Prop := (if slotB then flash.b else flash.a) = some i ∧ i.signed = true ∧
          i.keyDigest = d.fuses.keyDigest ∧ d.fuses.minSecurity ≤ i.security ∧ i.size ≤ 2 ^ 22
        ((∀ slotB i, ¬ usable slotB i) → s.makes (.mcBoot flash) { d with
          evr := { d.evr.boot [] with queue := (d.evr.boot []).queue.filter fun e => e.code == 2 }
          mc := { d.mc with fallback := true, stage := .recovery } }) ∧
        ∀ (slotB : Bool) (i : FwImage), usable slotB i → (slotB ≠ flash.activeB → ∀ j, ¬ usable flash.activeB j) →
        (d.mc.bootSel = true → ∃ e : Dev, s.makes (.mcBoot flash) e ∧ e.mc.stage = .recovery ∧ e.mc.mcVer = i.version ∧ e.mc.slotB = slotB ∧
          e.mc.fallback = (slotB != flash.activeB) ∧ e.mc.booted = false) ∧
        (d.mc.bootSel = false → ∃ e : Dev, s.makes (.mcBoot flash) e ∧ e.mc.booted = true ∧ e.mc.slotB = slotB ∧ e.mc.fallback = (slotB != flash.activeB) ∧
          e.mc.mcVer = i.version ∧ e.evr.ready = true ∧ (e.evr.queue.map fun x => x.code) = 1 :: (d.evr.queue.map fun x => x.code).take 255 ∧
          e.evr.circ = (d.evr.boot []).circ ∧
          (e.mc.stage = .fuse ↔ d.pins.perstN = true ∧ d.mc.railLost = false ∧ d.mc.holdAck = false ∧ d.mc.thermtrip = false) ∧
          (e.mc.stage ≠ .fuse → e.mc.stage = .mcBoot))) ∧
    (∀ ok, ¬ at_ .fuse → s.makes (.fuse ok) d) ∧
    (at_ .fuse → s.makes (.fuse false) { d with mc := { d.mc with stage := .failed } }) ∧
    (at_ .fuse → d.mc.failedStore = [] → s.makes (.fuse true) { d with mc := { d.mc with
        stage := if ((List.range 8).any fun c => d.coreEnabled c && !d.isFenced (.core c)) = true then .sramInit else .failed } }) ∧
    (∀ x u, at_ .fuse → d.mc.failedStore = [x] → FUnit.ofCode x = some u → d.evr.queue.length < 256 → ∃ e : Dev, s.makes (.fuse true) e ∧
      e.isFenced u = true ∧ e.flt.health.getD x 0 = 2 ∧ (e.mc.stage = .sramInit ∨ e.mc.stage = .failed)) ∧
    (¬ at_ .sramInit → s.makes .sramInit d) ∧
    (at_ .sramInit → s.makes .sramInit { d with tiles := ⟨[]⟩, pool := ⟨[]⟩, mc := { d.mc with stage := .hbmTrain } }) ∧
    (∀ failed lanes, ¬ at_ .hbmTrain → s.makes (.hbmTrain failed lanes) d) ∧
    (at_ .hbmTrain → ∀ (failed : BitVec 8) (lanes : List Byte), d.evr.queue.length + 8 < 256 → ∃ e : Dev, s.makes (.hbmTrain failed lanes) e ∧
      e = { d with regs := e.regs, evr := { d.evr with queue := e.evr.queue }, flt := { d.flt with fenced := e.flt.fenced }
                   mc := { d.mc with memFail := failed, stage := .hbmZero } } ∧
      ∀ n, n < 8 → e.isFenced (.mem n) = (d.isFenced (.mem n) || bit failed n) ∧
        fld (e.preg (.mem n) 0x84) 0 8 = (if bit failed n then 0 else 64) ∧ fld (e.preg (.mem n) 0x84) 8 8 = (lanes.getD n 0).toNat) ∧
    (¬ at_ .hbmZero → s.makes .hbmZero d) ∧
    (at_ .hbmZero → s.makes .hbmZero { d with hbm := Mem.empty, mc := { d.mc with stage := .tileFw } }) ∧
    (∀ v f m l t, ¬ at_ .tileFw → s.makes (.tileFw v f m l t) d) ∧
    (at_ .tileFw → ∀ v : Word,
      (∃ e : Dev, s.makes (.tileFw v [] [] [] []) e ∧ e = { d with mc := { d.mc with tfwVer := v, coresOk := e.mc.coresOk, stage := .hostEn } } ∧
        ∀ c, c < 8 → e.mc.coresOk.getLsbD c = (d.coreEnabled c && (d.flt.health.getD (FUnit.core c).code 0 != 2) &&
          (List.range 204).all fun i => d.flt.health.getD (FUnit.tile (204 * c + i)).code 0 != 2)) ∧
      ∀ t : Fin 1632, d.coreEnabled (tileCore t.val) = true → d.isSpare t.val = false → d.actSev .flt 5 = 0 → (∀ j, j < 4 → fld (d.preg .flt (blkDew0 + 4 * j)) 0 12 = 0) →
        d.evr.queue.length + 4 < 256 → ∃ e : Dev, s.makes (.tileFw v [t] [] [] []) e ∧
        e.flt.health.getD (FUnit.tile t.val).code 0 = 2 ∧ (d.flt.health.getD (FUnit.tile t.val).code 0 ≠ 2 → e.isFenced (.tile t.val) = true) ∧
        e.mc.stage = .hostEn ∧ e.mc.coresOk.getLsbD (tileCore t.val) = false) ∧
    (∀ ms : BitVec 16,
      let answers (ok : Bool) : Dev := { d with sent := d.sent ++ [.config ok] }
      (d.pins.pwrOk = false ∨ d.pins.perstN = false ∨ d.mc.railLost = true → s.makes (.configurationRequest ms) d) ∧
      (d.pins.pwrOk = true → d.pins.perstN = true → d.mc.railLost = false →
        (at_ .hostEn → s.makes (.configurationRequest ms)
          { d with mc := { d.mc with stage := .ready, afterReset := false, bootTime := BitVec.ofNat 32 ms.toNat }, sent := d.sent ++ [.config true] }) ∧
        (at_ .ready ∨ at_ .failed ∨ at_ .recovery → s.makes (.configurationRequest ms) (answers true)) ∧
        (at_ .off ∨ at_ .mcBoot ∨ at_ .fuse ∨ at_ .sramInit ∨ at_ .hbmTrain ∨ at_ .hbmZero ∨ at_ .tileFw ∨ at_ .hold →
          s.makes (.configurationRequest ms) (answers false))))

/-! ### Reset values and invariants -/

/-- R81, R84, R238, R277, R310, R421, R458, R561, R583, R623, R657, R682 and the register tables: what registers hold before anything is written; every
tile halted with an empty buffer, no fence, no forecast. Memory is canonical. That the package is off, and the fuses of QT2-1536-B0, are the model's
choices (log entries 10 and 1); that unwritten memory reads 0 before start-up is too (log entry 2). -/
def Obligations.ResetValues : Prop :=
  let d := State.reset.dev
  State.reset.pending = [] ∧ d.memOk ∧ d.mc.stage = .off ∧
  (∀ t, (d.tile t).fg.run = false ∧ (d.tile t).bg.run = false ∧ (d.tile t).wcb = [] ∧ (d.tile t).sel = none) ∧
  (∀ t, t < 1632 → d.preg (.tile t) 0x88 = 0x00100100#32 ∧ d.preg (.tile t) 0x98 = 0 ∧ d.preg (.tile t) blkDew0 = 0x03C81010#32) ∧
  (∀ c, c < 8 → d.preg (.pool c) 0x84 = 0x00FC0000#32 ∧ d.preg (.pool c) 0x8C = 0x00040000#32 ∧ d.preg (.core c) 0x100 = 0x07FAC688#32 ∧
    d.preg (.stream c) 0x84 = 0x1000 ∧ d.preg (.sync c) 0x84 = 0x01000000#32 ∧ ∀ obj, obj < 8192 → d.objVal c obj = 0) ∧
  (∀ p, p < 12 → d.preg (.fport p) 0x80 = 0x4000 ∧ (d.fport p).state = .disabled) ∧
  d.preg .pwr 0x88 = 0x640 ∧ d.preg .flt 0xA4 = 0x3E8 ∧ d.preg .flt 0xA8 = 0x2710 ∧ d.preg .hif 0x98 = 0x18 ∧ d.preg .tmb 0xA4 = 0x00989680#32 ∧
  d.preg .tmb 0x220 = 0x47E ∧ d.preg .fab 0x8C = 0x2000 ∧ (∀ u, d.isFenced u = false) ∧ d.fc.armed = false ∧ d.tmb.present = false ∧ d.tmb.state = .free ∧
  ∀ p, p ∈ [Page.glb, .pwr, .flt, .evr, .tmb, .tel, .hif, .rsl, .fab] → d.preg p blkCtrl = 0 ∧ d.preg p blkIntEn = 1 ∧ d.preg p blkIntStat = 0

/-- R87, R222 to R225, R284: every step keeps memory canonical: HBM, the core pools and each tile's scratchpad list rising addresses and no byte that
reads as an unlisted one does, and each write-combining buffer has at most one entry for a line, with bytes of that line alone. -/
def Obligations.MemoryStaysCanonical : Prop :=
  ∀ s s' : State, s.dev.memOk → step s = .next s' → s'.dev.memOk

/-- R2, R662 to R664: no command, no reset and no tick changes what is fused: the enabled cores, the stepping, the spare positions, the chip identity, nor
what they say of the MC's image. And every command ends: no step is a fault or a refusal (that an event is a command, which changes nothing where its
condition does not hold, is the model's choice, log entry 5). -/
def Obligations.FusesStay : Prop :=
  ∀ s : State, ∃ s', step s = .next s' ∧ s'.dev.fuses = s.dev.fuses
end

