-- ==== Sys2Proof/Laws/Tables.lean ====
section
/-! SUPPORT. What the operations on sparse tables and on byte memory answer: a read after a write, what a write leaves
alone, and that every memory operation keeps the canonical form of `Mem`. -/

namespace Sys2Proof

/-! ### Lists of cells -/

section
variable {α : Type}

@[simp] theorem cellsGet_set_same (l : List (Nat × α)) (k : Nat) (v : α) : cellsGet (cellsSet l k v) k = some v := by
  induction l with
  | nil => simp [cellsSet, cellsGet]
  | cons x r ih =>
    obtain ⟨k', v'⟩ := x
    simp only [cellsSet]
    split
    · simp [cellsGet]
    · split
      · simp [cellsGet]
      · rename_i h1 h2
        simp [cellsGet, show ¬ k' = k by omega, ih]

theorem cellsGet_set_other (l : List (Nat × α)) {k j : Nat} (v : α) (h : j ≠ k) :
    cellsGet (cellsSet l k v) j = cellsGet l j := by
  induction l with
  | nil => simp [cellsSet, cellsGet, Ne.symm h]
  | cons x r ih =>
    obtain ⟨k', v'⟩ := x
    simp only [cellsSet]
    split
    · simp [cellsGet, Ne.symm h]
    · split
      · rename_i h1 h2
        subst h2
        simp [cellsGet, Ne.symm h]
      · simp [cellsGet, ih]

theorem cellsGet_erase_other (l : List (Nat × α)) {k j : Nat} (h : j ≠ k) :
    cellsGet (cellsErase l k) j = cellsGet l j := by
  induction l with
  | nil => rfl
  | cons x r ih =>
    obtain ⟨k', v'⟩ := x
    simp only [cellsErase]
    split
    · rename_i h1
      subst h1
      simp [cellsGet, Ne.symm h]
    · simp [cellsGet, ih]

/-- Every key of a list lies above a bound. -/
def above (b : Nat) (l : List (Nat × α)) : Prop := ∀ c ∈ l, b < c.1

theorem keysRise_cons (a : Nat × α) (l : List (Nat × α)) : keysRise (a :: l) = true ↔ above a.1 l ∧ keysRise l = true := by
  induction l generalizing a with
  | nil => simp [keysRise, above]
  | cons b r ih =>
    simp only [keysRise, Bool.and_eq_true, decide_eq_true_eq, ih b]
    constructor
    · rintro ⟨h, hb, hr⟩
      refine ⟨?_, hb, hr⟩
      intro c hc
      rcases List.mem_cons.1 hc with rfl | hc
      · exact h
      · exact Nat.lt_trans h (hb c hc)
    · rintro ⟨h, hb, hr⟩
      exact ⟨h b (List.mem_cons_self ..), hb, hr⟩

theorem above_set {b : Nat} {l : List (Nat × α)} {k : Nat} (v : α) (h : above b l) (hk : b < k) : above b (cellsSet l k v) := by
  induction l with
  | nil => intro c hc; simp [cellsSet] at hc; subst hc; exact hk
  | cons x r ih =>
    obtain ⟨k', v'⟩ := x
    have hr : above b r := fun c hc => h c (List.mem_cons_of_mem _ hc)
    simp only [cellsSet]
    split
    · intro c hc
      rcases List.mem_cons.1 hc with rfl | hc
      · exact hk
      · exact h c hc
    · split
      · intro c hc
        rcases List.mem_cons.1 hc with rfl | hc
        · exact hk
        · exact hr c hc
      · intro c hc
        rcases List.mem_cons.1 hc with rfl | hc
        · exact h _ (List.mem_cons_self ..)
        · exact ih hr c hc

theorem keysRise_set {l : List (Nat × α)} (k : Nat) (v : α) (h : keysRise l = true) : keysRise (cellsSet l k v) = true := by
  induction l with
  | nil => rfl
  | cons x r ih =>
    obtain ⟨k', v'⟩ := x
    have hc := (keysRise_cons _ _).1 h
    simp only [cellsSet]
    split
    · rename_i hlt
      rw [keysRise_cons]
      refine ⟨?_, h⟩
      intro c hm
      rcases List.mem_cons.1 hm with rfl | hm
      · exact hlt
      · exact Nat.lt_trans hlt (hc.1 c hm)
    · split
      · rename_i h1 h2
        subst h2
        exact (keysRise_cons _ _).2 hc
      · rename_i h1 h2
        exact (keysRise_cons _ _).2 ⟨above_set v hc.1 (by simp only; omega), ih hc.2⟩

theorem mem_of_mem_erase {l : List (Nat × α)} {k : Nat} {c : Nat × α} (h : c ∈ cellsErase l k) : c ∈ l := by
  induction l with
  | nil => exact h
  | cons x r ih =>
    obtain ⟨k', v'⟩ := x
    simp only [cellsErase] at h
    split at h
    · exact List.mem_cons_of_mem _ h
    · rcases List.mem_cons.1 h with rfl | h
      · exact List.mem_cons_self ..
      · exact List.mem_cons_of_mem _ (ih h)

theorem keysRise_erase {l : List (Nat × α)} (k : Nat) (h : keysRise l = true) : keysRise (cellsErase l k) = true := by
  induction l with
  | nil => rfl
  | cons x r ih =>
    obtain ⟨k', v'⟩ := x
    have hc := (keysRise_cons _ _).1 h
    simp only [cellsErase]
    split
    · exact hc.2
    · exact (keysRise_cons _ _).2 ⟨fun c hm => hc.1 c (mem_of_mem_erase hm), ih hc.2⟩

theorem cellsGet_above {l : List (Nat × α)} {k : Nat} (h : above k l) : cellsGet l k = none := by
  induction l with
  | nil => rfl
  | cons x r ih =>
    have := h x (List.mem_cons_self ..)
    simp only [cellsGet, show ¬ x.1 = k by omega, if_false]
    exact ih fun c hc => h c (List.mem_cons_of_mem _ hc)

theorem cellsGet_erase_same {l : List (Nat × α)} (k : Nat) (h : keysRise l = true) : cellsGet (cellsErase l k) k = none := by
  induction l with
  | nil => rfl
  | cons x r ih =>
    obtain ⟨k', v'⟩ := x
    have hc := (keysRise_cons _ _).1 h
    simp only [cellsErase]
    split
    · rename_i hk
      subst hk
      exact cellsGet_above hc.1
    · rename_i hk
      simp [cellsGet, hk, ih hc.2]

end

/-! ### Tables -/

section
variable {α : Type}

@[simp] theorem Tbl.get?_set_same (t : Tbl α) (k : Nat) (v : α) : (t.set k v).get? k = some v := cellsGet_set_same ..

theorem Tbl.get?_set_other (t : Tbl α) {k j : Nat} (v : α) (h : j ≠ k) : (t.set k v).get? j = t.get? j := cellsGet_set_other _ v h

@[simp] theorem Tbl.getD_set_same (t : Tbl α) (k : Nat) (v d : α) : (t.set k v).getD k d = v := by simp [Tbl.getD]

theorem Tbl.getD_set_other (t : Tbl α) {k j : Nat} (v d : α) (h : j ≠ k) : (t.set k v).getD j d = t.getD j d := by
  simp [Tbl.getD, Tbl.get?_set_other _ _ h]

theorem Tbl.getD_set (t : Tbl α) (k j : Nat) (v d : α) : (t.set k v).getD j d = if j = k then v else t.getD j d := by
  by_cases h : j = k
  · subst h; simp
  · simp [h, Tbl.getD_set_other _ _ _ h]

theorem Tbl.get?_erase_other (t : Tbl α) {k j : Nat} (h : j ≠ k) : (t.erase k).get? j = t.get? j := cellsGet_erase_other _ h

@[simp] theorem Tbl.getD_modify_same (t : Tbl α) (k : Nat) (d : α) (f : α → α) : (t.modify k d f).getD k d = f (t.getD k d) := by
  simp [Tbl.modify]

theorem Tbl.getD_modify_other (t : Tbl α) {k j : Nat} (d e : α) (f : α → α) (h : j ≠ k) : (t.modify k d f).getD j e = t.getD j e := by
  simp [Tbl.modify, Tbl.getD_set_other _ _ _ h]

@[simp] theorem Tbl.wf_set {t : Tbl α} (k : Nat) (v : α) (h : t.wf = true) : (t.set k v).wf = true := keysRise_set k v h

@[simp] theorem Tbl.wf_erase {t : Tbl α} (k : Nat) (h : t.wf = true) : (t.erase k).wf = true := keysRise_erase k h

end

namespace Machine

/-! ### Byte memory -/

@[simp] theorem Mem.get_empty (a : Nat) : Mem.empty.get a = 0 := rfl

theorem Mem.get_set_other (m : Mem) {a x : Nat} (b : Byte) (h : x ≠ a) : (m.set a b).get x = m.get x := by
  unfold Mem.set Mem.get
  split
  · rw [cellsGet_erase_other _ h]
  · rw [cellsGet_set_other _ b h]

theorem Mem.get_set_same {m : Mem} (a : Nat) (b : Byte) (h : m.wf = true) : (m.set a b).get a = b := by
  unfold Mem.set Mem.get
  split
  · rename_i hb
    simp only [Mem.wf, Bool.and_eq_true] at h
    rw [cellsGet_erase_same a h.1]
    exact hb.symm
  · simp

theorem Mem.wf_set {m : Mem} (a : Nat) (b : Byte) (h : m.wf = true) : (m.set a b).wf = true := by
  simp only [Mem.wf, Bool.and_eq_true, List.all_eq_true] at h ⊢
  unfold Mem.set
  split
  · exact ⟨keysRise_erase a h.1, fun c hc => h.2 c (mem_of_mem_erase hc)⟩
  · rename_i hb
    refine ⟨keysRise_set a b h.1, ?_⟩
    have key : ∀ l : List (Nat × Byte), (∀ c ∈ l, (c.2 != 0) = true) → ∀ c ∈ cellsSet l a b, (c.2 != 0) = true := by
      intro l
      induction l with
      | nil => intro _ c hc; simp [cellsSet] at hc; subst hc; simpa using hb
      | cons x r ih =>
        obtain ⟨k', v'⟩ := x
        intro hl c hc
        simp only [cellsSet] at hc
        split at hc
        · rcases List.mem_cons.1 hc with rfl | hc
          · simpa using hb
          · exact hl c hc
        · split at hc
          · rcases List.mem_cons.1 hc with rfl | hc
            · simpa using hb
            · exact hl c (List.mem_cons_of_mem _ hc)
          · rcases List.mem_cons.1 hc with rfl | hc
            · exact hl _ (List.mem_cons_self ..)
            · exact ih (fun c hc => hl c (List.mem_cons_of_mem _ hc)) c hc
    exact key m.cells h.2

theorem Mem.wf_writeBytes {m : Mem} (a : Nat) (bs : List Byte) (h : m.wf = true) : (m.writeBytes a bs).wf = true := by
  induction bs generalizing m a with
  | nil => exact h
  | cons b r ih => exact ih (a + 1) (Mem.wf_set a b h)

theorem Mem.wf_setWord {m : Mem} (a : Nat) (w : Word) (h : m.wf = true) : (m.setWord a w).wf = true := Mem.wf_writeBytes _ _ h

@[simp] theorem Mem.wf_empty : Mem.empty.wf = true := rfl

/-- A write leaves every byte outside its span alone. -/
theorem Mem.get_writeBytes_outside (m : Mem) (a x : Nat) (bs : List Byte) (h : x < a ∨ a + bs.length ≤ x) :
    (m.writeBytes a bs).get x = m.get x := by
  induction bs generalizing m a with
  | nil => rfl
  | cons b r ih =>
    simp only [List.length_cons] at h
    simp only [Mem.writeBytes]
    rw [ih _ _ (by omega), Mem.get_set_other _ _ (by omega)]

/-- A written byte reads back. -/
theorem Mem.get_writeBytes_inside {m : Mem} (a i : Nat) (bs : List Byte) (h : m.wf = true) (hi : i < bs.length) :
    (m.writeBytes a bs).get (a + i) = bs.getD i 0 := by
  induction bs generalizing m a i with
  | nil => simp at hi
  | cons b r ih =>
    simp only [Mem.writeBytes]
    cases i with
    | zero =>
      rw [Mem.get_writeBytes_outside _ _ _ _ (by omega)]
      simpa using Mem.get_set_same a b h
    | succ j =>
      have := ih (a + 1) j (Mem.wf_set a b h) (by simpa using hi)
      rw [show a + (j + 1) = a + 1 + j by omega, this]
      simp

@[simp] theorem Mem.length_readBytes (m : Mem) (a n : Nat) : (m.readBytes a n).length = n := by simp [Mem.readBytes]

end Machine
end Sys2Proof
end

