-- ==== Sys2Proof/Laws/State.lean ====
section
/-! SUPPORT. What the named updates of the state leave alone, field by field, and what a register, a tile or a context reads as
after its own update. -/

namespace Sys2Proof.Machine

variable (s : State) (d : Dev)

@[simp] theorem State.on_pending (f : Dev → Dev) : (s.on f).pending = s.pending := rfl
@[simp] theorem State.on_dev (f : Dev → Dev) : (s.on f).dev = f s.dev := rfl

/-! ### Dev.wr -/

@[simp] theorem Dev.wr_fuses (o : Nat) (w : Word) : (d.wr o w).fuses = d.fuses := rfl
@[simp] theorem Dev.wr_mc (o : Nat) (w : Word) : (d.wr o w).mc = d.mc := rfl
@[simp] theorem Dev.wr_evr (o : Nat) (w : Word) : (d.wr o w).evr = d.evr := rfl
@[simp] theorem Dev.wr_pins (o : Nat) (w : Word) : (d.wr o w).pins = d.pins := rfl
@[simp] theorem Dev.wr_hif (o : Nat) (w : Word) : (d.wr o w).hif = d.hif := rfl
@[simp] theorem Dev.wr_ctrs (o : Nat) (w : Word) : (d.wr o w).ctrs = d.ctrs := rfl
@[simp] theorem Dev.wr_latch (o : Nat) (w : Word) : (d.wr o w).latch = d.latch := rfl
@[simp] theorem Dev.wr_heldLo (o : Nat) (w : Word) : (d.wr o w).heldLo = d.heldLo := rfl
@[simp] theorem Dev.wr_flt (o : Nat) (w : Word) : (d.wr o w).flt = d.flt := rfl
@[simp] theorem Dev.wr_pwr (o : Nat) (w : Word) : (d.wr o w).pwr = d.pwr := rfl
@[simp] theorem Dev.wr_tiles (o : Nat) (w : Word) : (d.wr o w).tiles = d.tiles := rfl
@[simp] theorem Dev.wr_unitBaro (o : Nat) (w : Word) : (d.wr o w).unitBaro = d.unitBaro := rfl
@[simp] theorem Dev.wr_baroFly (o : Nat) (w : Word) : (d.wr o w).baroFly = d.baroFly := rfl
@[simp] theorem Dev.wr_pool (o : Nat) (w : Word) : (d.wr o w).pool = d.pool := rfl
@[simp] theorem Dev.wr_poolOps (o : Nat) (w : Word) : (d.wr o w).poolOps = d.poolOps := rfl
@[simp] theorem Dev.wr_hbm (o : Nat) (w : Word) : (d.wr o w).hbm = d.hbm := rfl
@[simp] theorem Dev.wr_puts (o : Nat) (w : Word) : (d.wr o w).puts = d.puts := rfl
@[simp] theorem Dev.wr_msgs (o : Nat) (w : Word) : (d.wr o w).msgs = d.msgs := rfl
@[simp] theorem Dev.wr_ingress (o : Nat) (w : Word) : (d.wr o w).ingress = d.ingress := rfl
@[simp] theorem Dev.wr_spilled (o : Nat) (w : Word) : (d.wr o w).spilled = d.spilled := rfl
@[simp] theorem Dev.wr_coreQ (o : Nat) (w : Word) : (d.wr o w).coreQ = d.coreQ := rfl
@[simp] theorem Dev.wr_chanUnit (o : Nat) (w : Word) : (d.wr o w).chanUnit = d.chanUnit := rfl
@[simp] theorem Dev.wr_chanFly (o : Nat) (w : Word) : (d.wr o w).chanFly = d.chanFly := rfl
@[simp] theorem Dev.wr_chanTotal (o : Nat) (w : Word) : (d.wr o w).chanTotal = d.chanTotal := rfl
@[simp] theorem Dev.wr_syncs (o : Nat) (w : Word) : (d.wr o w).syncs = d.syncs := rfl
@[simp] theorem Dev.wr_watches (o : Nat) (w : Word) : (d.wr o w).watches = d.watches := rfl
@[simp] theorem Dev.wr_bars (o : Nat) (w : Word) : (d.wr o w).bars = d.bars := rfl
@[simp] theorem Dev.wr_rounds (o : Nat) (w : Word) : (d.wr o w).rounds = d.rounds := rfl
@[simp] theorem Dev.wr_fabBars (o : Nat) (w : Word) : (d.wr o w).fabBars = d.fabBars := rfl
@[simp] theorem Dev.wr_rels (o : Nat) (w : Word) : (d.wr o w).rels = d.rels := rfl
@[simp] theorem Dev.wr_realign (o : Nat) (w : Word) : (d.wr o w).realign = d.realign := rfl
@[simp] theorem Dev.wr_stages (o : Nat) (w : Word) : (d.wr o w).stages = d.stages := rfl
@[simp] theorem Dev.wr_segs (o : Nat) (w : Word) : (d.wr o w).segs = d.segs := rfl
@[simp] theorem Dev.wr_segId (o : Nat) (w : Word) : (d.wr o w).segId = d.segId := rfl
@[simp] theorem Dev.wr_retain (o : Nat) (w : Word) : (d.wr o w).retain = d.retain := rfl
@[simp] theorem Dev.wr_posts (o : Nat) (w : Word) : (d.wr o w).posts = d.posts := rfl
@[simp] theorem Dev.wr_diePkts (o : Nat) (w : Word) : (d.wr o w).diePkts = d.diePkts := rfl
@[simp] theorem Dev.wr_fabWait (o : Nat) (w : Word) : (d.wr o w).fabWait = d.fabWait := rfl
@[simp] theorem Dev.wr_outReqs (o : Nat) (w : Word) : (d.wr o w).outReqs = d.outReqs := rfl
@[simp] theorem Dev.wr_ports (o : Nat) (w : Word) : (d.wr o w).ports = d.ports := rfl
@[simp] theorem Dev.wr_tko (o : Nat) (w : Word) : (d.wr o w).tko = d.tko := rfl
@[simp] theorem Dev.wr_tkoRun (o : Nat) (w : Word) : (d.wr o w).tkoRun = d.tkoRun := rfl
@[simp] theorem Dev.wr_inc (o : Nat) (w : Word) : (d.wr o w).inc = d.inc := rfl
@[simp] theorem Dev.wr_tmb (o : Nat) (w : Word) : (d.wr o w).tmb = d.tmb := rfl
@[simp] theorem Dev.wr_fc (o : Nat) (w : Word) : (d.wr o w).fc = d.fc := rfl
@[simp] theorem Dev.wr_colls (o : Nat) (w : Word) : (d.wr o w).colls = d.colls := rfl
@[simp] theorem Dev.wr_collQ (o : Nat) (w : Word) : (d.wr o w).collQ = d.collQ := rfl
@[simp] theorem Dev.wr_rsl (o : Nat) (w : Word) : (d.wr o w).rsl = d.rsl := rfl
@[simp] theorem Dev.wr_sent (o : Nat) (w : Word) : (d.wr o w).sent = d.sent := rfl
@[simp] theorem Dev.wr_hostInj (o : Nat) (w : Word) : (d.wr o w).hostInj = d.hostInj := rfl
@[simp] theorem Dev.wr_syncHeld (o : Nat) (w : Word) : (d.wr o w).syncHeld = d.syncHeld := rfl
@[simp] theorem Dev.wr_gen254 (o : Nat) (w : Word) : (d.wr o w).gen254 = d.gen254 := rfl
@[simp] theorem Dev.wr_draws (o : Nat) (w : Word) : (d.wr o w).draws = d.draws := rfl
@[simp] theorem Dev.wr_netSeq (o : Nat) (w : Word) : (d.wr o w).netSeq = d.netSeq := rfl
@[simp] theorem Dev.wr_ns (o : Nat) (w : Word) : (d.wr o w).ns = d.ns := rfl
@[simp] theorem Dev.wr_noc (o : Nat) (w : Word) : (d.wr o w).noc = d.noc := rfl
@[simp] theorem Dev.wr_mirQ (o : Nat) (w : Word) : (d.wr o w).mirQ = d.mirQ := rfl
@[simp] theorem Dev.wr_softBusy (o : Nat) (w : Word) : (d.wr o w).softBusy = d.softBusy := rfl

/-! ### Dev.setPreg -/

@[simp] theorem Dev.setPreg_fuses (p : Page) (o : Nat) (w : Word) : (d.setPreg p o w).fuses = d.fuses := rfl
@[simp] theorem Dev.setPreg_mc (p : Page) (o : Nat) (w : Word) : (d.setPreg p o w).mc = d.mc := rfl
@[simp] theorem Dev.setPreg_evr (p : Page) (o : Nat) (w : Word) : (d.setPreg p o w).evr = d.evr := rfl
@[simp] theorem Dev.setPreg_pins (p : Page) (o : Nat) (w : Word) : (d.setPreg p o w).pins = d.pins := rfl
@[simp] theorem Dev.setPreg_hif (p : Page) (o : Nat) (w : Word) : (d.setPreg p o w).hif = d.hif := rfl
@[simp] theorem Dev.setPreg_ctrs (p : Page) (o : Nat) (w : Word) : (d.setPreg p o w).ctrs = d.ctrs := rfl
@[simp] theorem Dev.setPreg_latch (p : Page) (o : Nat) (w : Word) : (d.setPreg p o w).latch = d.latch := rfl
@[simp] theorem Dev.setPreg_heldLo (p : Page) (o : Nat) (w : Word) : (d.setPreg p o w).heldLo = d.heldLo := rfl
@[simp] theorem Dev.setPreg_flt (p : Page) (o : Nat) (w : Word) : (d.setPreg p o w).flt = d.flt := rfl
@[simp] theorem Dev.setPreg_pwr (p : Page) (o : Nat) (w : Word) : (d.setPreg p o w).pwr = d.pwr := rfl
@[simp] theorem Dev.setPreg_tiles (p : Page) (o : Nat) (w : Word) : (d.setPreg p o w).tiles = d.tiles := rfl
@[simp] theorem Dev.setPreg_unitBaro (p : Page) (o : Nat) (w : Word) : (d.setPreg p o w).unitBaro = d.unitBaro := rfl
@[simp] theorem Dev.setPreg_baroFly (p : Page) (o : Nat) (w : Word) : (d.setPreg p o w).baroFly = d.baroFly := rfl
@[simp] theorem Dev.setPreg_pool (p : Page) (o : Nat) (w : Word) : (d.setPreg p o w).pool = d.pool := rfl
@[simp] theorem Dev.setPreg_poolOps (p : Page) (o : Nat) (w : Word) : (d.setPreg p o w).poolOps = d.poolOps := rfl
@[simp] theorem Dev.setPreg_hbm (p : Page) (o : Nat) (w : Word) : (d.setPreg p o w).hbm = d.hbm := rfl
@[simp] theorem Dev.setPreg_puts (p : Page) (o : Nat) (w : Word) : (d.setPreg p o w).puts = d.puts := rfl
@[simp] theorem Dev.setPreg_msgs (p : Page) (o : Nat) (w : Word) : (d.setPreg p o w).msgs = d.msgs := rfl
@[simp] theorem Dev.setPreg_ingress (p : Page) (o : Nat) (w : Word) : (d.setPreg p o w).ingress = d.ingress := rfl
@[simp] theorem Dev.setPreg_spilled (p : Page) (o : Nat) (w : Word) : (d.setPreg p o w).spilled = d.spilled := rfl
@[simp] theorem Dev.setPreg_coreQ (p : Page) (o : Nat) (w : Word) : (d.setPreg p o w).coreQ = d.coreQ := rfl
@[simp] theorem Dev.setPreg_chanUnit (p : Page) (o : Nat) (w : Word) : (d.setPreg p o w).chanUnit = d.chanUnit := rfl
@[simp] theorem Dev.setPreg_chanFly (p : Page) (o : Nat) (w : Word) : (d.setPreg p o w).chanFly = d.chanFly := rfl
@[simp] theorem Dev.setPreg_chanTotal (p : Page) (o : Nat) (w : Word) : (d.setPreg p o w).chanTotal = d.chanTotal := rfl
@[simp] theorem Dev.setPreg_syncs (p : Page) (o : Nat) (w : Word) : (d.setPreg p o w).syncs = d.syncs := rfl
@[simp] theorem Dev.setPreg_watches (p : Page) (o : Nat) (w : Word) : (d.setPreg p o w).watches = d.watches := rfl
@[simp] theorem Dev.setPreg_bars (p : Page) (o : Nat) (w : Word) : (d.setPreg p o w).bars = d.bars := rfl
@[simp] theorem Dev.setPreg_rounds (p : Page) (o : Nat) (w : Word) : (d.setPreg p o w).rounds = d.rounds := rfl
@[simp] theorem Dev.setPreg_fabBars (p : Page) (o : Nat) (w : Word) : (d.setPreg p o w).fabBars = d.fabBars := rfl
@[simp] theorem Dev.setPreg_rels (p : Page) (o : Nat) (w : Word) : (d.setPreg p o w).rels = d.rels := rfl
@[simp] theorem Dev.setPreg_realign (p : Page) (o : Nat) (w : Word) : (d.setPreg p o w).realign = d.realign := rfl
@[simp] theorem Dev.setPreg_stages (p : Page) (o : Nat) (w : Word) : (d.setPreg p o w).stages = d.stages := rfl
@[simp] theorem Dev.setPreg_segs (p : Page) (o : Nat) (w : Word) : (d.setPreg p o w).segs = d.segs := rfl
@[simp] theorem Dev.setPreg_segId (p : Page) (o : Nat) (w : Word) : (d.setPreg p o w).segId = d.segId := rfl
@[simp] theorem Dev.setPreg_retain (p : Page) (o : Nat) (w : Word) : (d.setPreg p o w).retain = d.retain := rfl
@[simp] theorem Dev.setPreg_posts (p : Page) (o : Nat) (w : Word) : (d.setPreg p o w).posts = d.posts := rfl
@[simp] theorem Dev.setPreg_diePkts (p : Page) (o : Nat) (w : Word) : (d.setPreg p o w).diePkts = d.diePkts := rfl
@[simp] theorem Dev.setPreg_fabWait (p : Page) (o : Nat) (w : Word) : (d.setPreg p o w).fabWait = d.fabWait := rfl
@[simp] theorem Dev.setPreg_outReqs (p : Page) (o : Nat) (w : Word) : (d.setPreg p o w).outReqs = d.outReqs := rfl
@[simp] theorem Dev.setPreg_ports (p : Page) (o : Nat) (w : Word) : (d.setPreg p o w).ports = d.ports := rfl
@[simp] theorem Dev.setPreg_tko (p : Page) (o : Nat) (w : Word) : (d.setPreg p o w).tko = d.tko := rfl
@[simp] theorem Dev.setPreg_tkoRun (p : Page) (o : Nat) (w : Word) : (d.setPreg p o w).tkoRun = d.tkoRun := rfl
@[simp] theorem Dev.setPreg_inc (p : Page) (o : Nat) (w : Word) : (d.setPreg p o w).inc = d.inc := rfl
@[simp] theorem Dev.setPreg_tmb (p : Page) (o : Nat) (w : Word) : (d.setPreg p o w).tmb = d.tmb := rfl
@[simp] theorem Dev.setPreg_fc (p : Page) (o : Nat) (w : Word) : (d.setPreg p o w).fc = d.fc := rfl
@[simp] theorem Dev.setPreg_colls (p : Page) (o : Nat) (w : Word) : (d.setPreg p o w).colls = d.colls := rfl
@[simp] theorem Dev.setPreg_collQ (p : Page) (o : Nat) (w : Word) : (d.setPreg p o w).collQ = d.collQ := rfl
@[simp] theorem Dev.setPreg_rsl (p : Page) (o : Nat) (w : Word) : (d.setPreg p o w).rsl = d.rsl := rfl
@[simp] theorem Dev.setPreg_sent (p : Page) (o : Nat) (w : Word) : (d.setPreg p o w).sent = d.sent := rfl
@[simp] theorem Dev.setPreg_hostInj (p : Page) (o : Nat) (w : Word) : (d.setPreg p o w).hostInj = d.hostInj := rfl
@[simp] theorem Dev.setPreg_syncHeld (p : Page) (o : Nat) (w : Word) : (d.setPreg p o w).syncHeld = d.syncHeld := rfl
@[simp] theorem Dev.setPreg_gen254 (p : Page) (o : Nat) (w : Word) : (d.setPreg p o w).gen254 = d.gen254 := rfl
@[simp] theorem Dev.setPreg_draws (p : Page) (o : Nat) (w : Word) : (d.setPreg p o w).draws = d.draws := rfl
@[simp] theorem Dev.setPreg_netSeq (p : Page) (o : Nat) (w : Word) : (d.setPreg p o w).netSeq = d.netSeq := rfl
@[simp] theorem Dev.setPreg_ns (p : Page) (o : Nat) (w : Word) : (d.setPreg p o w).ns = d.ns := rfl
@[simp] theorem Dev.setPreg_noc (p : Page) (o : Nat) (w : Word) : (d.setPreg p o w).noc = d.noc := rfl
@[simp] theorem Dev.setPreg_mirQ (p : Page) (o : Nat) (w : Word) : (d.setPreg p o w).mirQ = d.mirQ := rfl
@[simp] theorem Dev.setPreg_softBusy (p : Page) (o : Nat) (w : Word) : (d.setPreg p o w).softBusy = d.softBusy := rfl

/-! ### Dev.setTile -/

@[simp] theorem Dev.setTile_fuses (t : Nat) (x : Tile) : (d.setTile t x).fuses = d.fuses := rfl
@[simp] theorem Dev.setTile_mc (t : Nat) (x : Tile) : (d.setTile t x).mc = d.mc := rfl
@[simp] theorem Dev.setTile_evr (t : Nat) (x : Tile) : (d.setTile t x).evr = d.evr := rfl
@[simp] theorem Dev.setTile_pins (t : Nat) (x : Tile) : (d.setTile t x).pins = d.pins := rfl
@[simp] theorem Dev.setTile_hif (t : Nat) (x : Tile) : (d.setTile t x).hif = d.hif := rfl
@[simp] theorem Dev.setTile_regs (t : Nat) (x : Tile) : (d.setTile t x).regs = d.regs := rfl
@[simp] theorem Dev.setTile_ctrs (t : Nat) (x : Tile) : (d.setTile t x).ctrs = d.ctrs := rfl
@[simp] theorem Dev.setTile_latch (t : Nat) (x : Tile) : (d.setTile t x).latch = d.latch := rfl
@[simp] theorem Dev.setTile_heldLo (t : Nat) (x : Tile) : (d.setTile t x).heldLo = d.heldLo := rfl
@[simp] theorem Dev.setTile_flt (t : Nat) (x : Tile) : (d.setTile t x).flt = d.flt := rfl
@[simp] theorem Dev.setTile_pwr (t : Nat) (x : Tile) : (d.setTile t x).pwr = d.pwr := rfl
@[simp] theorem Dev.setTile_unitBaro (t : Nat) (x : Tile) : (d.setTile t x).unitBaro = d.unitBaro := rfl
@[simp] theorem Dev.setTile_baroFly (t : Nat) (x : Tile) : (d.setTile t x).baroFly = d.baroFly := rfl
@[simp] theorem Dev.setTile_pool (t : Nat) (x : Tile) : (d.setTile t x).pool = d.pool := rfl
@[simp] theorem Dev.setTile_poolOps (t : Nat) (x : Tile) : (d.setTile t x).poolOps = d.poolOps := rfl
@[simp] theorem Dev.setTile_hbm (t : Nat) (x : Tile) : (d.setTile t x).hbm = d.hbm := rfl
@[simp] theorem Dev.setTile_puts (t : Nat) (x : Tile) : (d.setTile t x).puts = d.puts := rfl
@[simp] theorem Dev.setTile_msgs (t : Nat) (x : Tile) : (d.setTile t x).msgs = d.msgs := rfl
@[simp] theorem Dev.setTile_ingress (t : Nat) (x : Tile) : (d.setTile t x).ingress = d.ingress := rfl
@[simp] theorem Dev.setTile_spilled (t : Nat) (x : Tile) : (d.setTile t x).spilled = d.spilled := rfl
@[simp] theorem Dev.setTile_coreQ (t : Nat) (x : Tile) : (d.setTile t x).coreQ = d.coreQ := rfl
@[simp] theorem Dev.setTile_chanUnit (t : Nat) (x : Tile) : (d.setTile t x).chanUnit = d.chanUnit := rfl
@[simp] theorem Dev.setTile_chanFly (t : Nat) (x : Tile) : (d.setTile t x).chanFly = d.chanFly := rfl
@[simp] theorem Dev.setTile_chanTotal (t : Nat) (x : Tile) : (d.setTile t x).chanTotal = d.chanTotal := rfl
@[simp] theorem Dev.setTile_syncs (t : Nat) (x : Tile) : (d.setTile t x).syncs = d.syncs := rfl
@[simp] theorem Dev.setTile_watches (t : Nat) (x : Tile) : (d.setTile t x).watches = d.watches := rfl
@[simp] theorem Dev.setTile_bars (t : Nat) (x : Tile) : (d.setTile t x).bars = d.bars := rfl
@[simp] theorem Dev.setTile_rounds (t : Nat) (x : Tile) : (d.setTile t x).rounds = d.rounds := rfl
@[simp] theorem Dev.setTile_fabBars (t : Nat) (x : Tile) : (d.setTile t x).fabBars = d.fabBars := rfl
@[simp] theorem Dev.setTile_rels (t : Nat) (x : Tile) : (d.setTile t x).rels = d.rels := rfl
@[simp] theorem Dev.setTile_realign (t : Nat) (x : Tile) : (d.setTile t x).realign = d.realign := rfl
@[simp] theorem Dev.setTile_stages (t : Nat) (x : Tile) : (d.setTile t x).stages = d.stages := rfl
@[simp] theorem Dev.setTile_segs (t : Nat) (x : Tile) : (d.setTile t x).segs = d.segs := rfl
@[simp] theorem Dev.setTile_segId (t : Nat) (x : Tile) : (d.setTile t x).segId = d.segId := rfl
@[simp] theorem Dev.setTile_retain (t : Nat) (x : Tile) : (d.setTile t x).retain = d.retain := rfl
@[simp] theorem Dev.setTile_posts (t : Nat) (x : Tile) : (d.setTile t x).posts = d.posts := rfl
@[simp] theorem Dev.setTile_diePkts (t : Nat) (x : Tile) : (d.setTile t x).diePkts = d.diePkts := rfl
@[simp] theorem Dev.setTile_fabWait (t : Nat) (x : Tile) : (d.setTile t x).fabWait = d.fabWait := rfl
@[simp] theorem Dev.setTile_outReqs (t : Nat) (x : Tile) : (d.setTile t x).outReqs = d.outReqs := rfl
@[simp] theorem Dev.setTile_ports (t : Nat) (x : Tile) : (d.setTile t x).ports = d.ports := rfl
@[simp] theorem Dev.setTile_tko (t : Nat) (x : Tile) : (d.setTile t x).tko = d.tko := rfl
@[simp] theorem Dev.setTile_tkoRun (t : Nat) (x : Tile) : (d.setTile t x).tkoRun = d.tkoRun := rfl
@[simp] theorem Dev.setTile_inc (t : Nat) (x : Tile) : (d.setTile t x).inc = d.inc := rfl
@[simp] theorem Dev.setTile_tmb (t : Nat) (x : Tile) : (d.setTile t x).tmb = d.tmb := rfl
@[simp] theorem Dev.setTile_fc (t : Nat) (x : Tile) : (d.setTile t x).fc = d.fc := rfl
@[simp] theorem Dev.setTile_colls (t : Nat) (x : Tile) : (d.setTile t x).colls = d.colls := rfl
@[simp] theorem Dev.setTile_collQ (t : Nat) (x : Tile) : (d.setTile t x).collQ = d.collQ := rfl
@[simp] theorem Dev.setTile_rsl (t : Nat) (x : Tile) : (d.setTile t x).rsl = d.rsl := rfl
@[simp] theorem Dev.setTile_sent (t : Nat) (x : Tile) : (d.setTile t x).sent = d.sent := rfl
@[simp] theorem Dev.setTile_hostInj (t : Nat) (x : Tile) : (d.setTile t x).hostInj = d.hostInj := rfl
@[simp] theorem Dev.setTile_syncHeld (t : Nat) (x : Tile) : (d.setTile t x).syncHeld = d.syncHeld := rfl
@[simp] theorem Dev.setTile_gen254 (t : Nat) (x : Tile) : (d.setTile t x).gen254 = d.gen254 := rfl
@[simp] theorem Dev.setTile_draws (t : Nat) (x : Tile) : (d.setTile t x).draws = d.draws := rfl
@[simp] theorem Dev.setTile_netSeq (t : Nat) (x : Tile) : (d.setTile t x).netSeq = d.netSeq := rfl
@[simp] theorem Dev.setTile_ns (t : Nat) (x : Tile) : (d.setTile t x).ns = d.ns := rfl
@[simp] theorem Dev.setTile_noc (t : Nat) (x : Tile) : (d.setTile t x).noc = d.noc := rfl
@[simp] theorem Dev.setTile_mirQ (t : Nat) (x : Tile) : (d.setTile t x).mirQ = d.mirQ := rfl
@[simp] theorem Dev.setTile_softBusy (t : Nat) (x : Tile) : (d.setTile t x).softBusy = d.softBusy := rfl

/-! ### Dev.modTile -/

@[simp] theorem Dev.modTile_fuses (t : Nat) (f : Tile → Tile) : (d.modTile t f).fuses = d.fuses := rfl
@[simp] theorem Dev.modTile_mc (t : Nat) (f : Tile → Tile) : (d.modTile t f).mc = d.mc := rfl
@[simp] theorem Dev.modTile_evr (t : Nat) (f : Tile → Tile) : (d.modTile t f).evr = d.evr := rfl
@[simp] theorem Dev.modTile_pins (t : Nat) (f : Tile → Tile) : (d.modTile t f).pins = d.pins := rfl
@[simp] theorem Dev.modTile_hif (t : Nat) (f : Tile → Tile) : (d.modTile t f).hif = d.hif := rfl
@[simp] theorem Dev.modTile_regs (t : Nat) (f : Tile → Tile) : (d.modTile t f).regs = d.regs := rfl
@[simp] theorem Dev.modTile_ctrs (t : Nat) (f : Tile → Tile) : (d.modTile t f).ctrs = d.ctrs := rfl
@[simp] theorem Dev.modTile_latch (t : Nat) (f : Tile → Tile) : (d.modTile t f).latch = d.latch := rfl
@[simp] theorem Dev.modTile_heldLo (t : Nat) (f : Tile → Tile) : (d.modTile t f).heldLo = d.heldLo := rfl
@[simp] theorem Dev.modTile_flt (t : Nat) (f : Tile → Tile) : (d.modTile t f).flt = d.flt := rfl
@[simp] theorem Dev.modTile_pwr (t : Nat) (f : Tile → Tile) : (d.modTile t f).pwr = d.pwr := rfl
@[simp] theorem Dev.modTile_unitBaro (t : Nat) (f : Tile → Tile) : (d.modTile t f).unitBaro = d.unitBaro := rfl
@[simp] theorem Dev.modTile_baroFly (t : Nat) (f : Tile → Tile) : (d.modTile t f).baroFly = d.baroFly := rfl
@[simp] theorem Dev.modTile_pool (t : Nat) (f : Tile → Tile) : (d.modTile t f).pool = d.pool := rfl
@[simp] theorem Dev.modTile_poolOps (t : Nat) (f : Tile → Tile) : (d.modTile t f).poolOps = d.poolOps := rfl
@[simp] theorem Dev.modTile_hbm (t : Nat) (f : Tile → Tile) : (d.modTile t f).hbm = d.hbm := rfl
@[simp] theorem Dev.modTile_puts (t : Nat) (f : Tile → Tile) : (d.modTile t f).puts = d.puts := rfl
@[simp] theorem Dev.modTile_msgs (t : Nat) (f : Tile → Tile) : (d.modTile t f).msgs = d.msgs := rfl
@[simp] theorem Dev.modTile_ingress (t : Nat) (f : Tile → Tile) : (d.modTile t f).ingress = d.ingress := rfl
@[simp] theorem Dev.modTile_spilled (t : Nat) (f : Tile → Tile) : (d.modTile t f).spilled = d.spilled := rfl
@[simp] theorem Dev.modTile_coreQ (t : Nat) (f : Tile → Tile) : (d.modTile t f).coreQ = d.coreQ := rfl
@[simp] theorem Dev.modTile_chanUnit (t : Nat) (f : Tile → Tile) : (d.modTile t f).chanUnit = d.chanUnit := rfl
@[simp] theorem Dev.modTile_chanFly (t : Nat) (f : Tile → Tile) : (d.modTile t f).chanFly = d.chanFly := rfl
@[simp] theorem Dev.modTile_chanTotal (t : Nat) (f : Tile → Tile) : (d.modTile t f).chanTotal = d.chanTotal := rfl
@[simp] theorem Dev.modTile_syncs (t : Nat) (f : Tile → Tile) : (d.modTile t f).syncs = d.syncs := rfl
@[simp] theorem Dev.modTile_watches (t : Nat) (f : Tile → Tile) : (d.modTile t f).watches = d.watches := rfl
@[simp] theorem Dev.modTile_bars (t : Nat) (f : Tile → Tile) : (d.modTile t f).bars = d.bars := rfl
@[simp] theorem Dev.modTile_rounds (t : Nat) (f : Tile → Tile) : (d.modTile t f).rounds = d.rounds := rfl
@[simp] theorem Dev.modTile_fabBars (t : Nat) (f : Tile → Tile) : (d.modTile t f).fabBars = d.fabBars := rfl
@[simp] theorem Dev.modTile_rels (t : Nat) (f : Tile → Tile) : (d.modTile t f).rels = d.rels := rfl
@[simp] theorem Dev.modTile_realign (t : Nat) (f : Tile → Tile) : (d.modTile t f).realign = d.realign := rfl
@[simp] theorem Dev.modTile_stages (t : Nat) (f : Tile → Tile) : (d.modTile t f).stages = d.stages := rfl
@[simp] theorem Dev.modTile_segs (t : Nat) (f : Tile → Tile) : (d.modTile t f).segs = d.segs := rfl
@[simp] theorem Dev.modTile_segId (t : Nat) (f : Tile → Tile) : (d.modTile t f).segId = d.segId := rfl
@[simp] theorem Dev.modTile_retain (t : Nat) (f : Tile → Tile) : (d.modTile t f).retain = d.retain := rfl
@[simp] theorem Dev.modTile_posts (t : Nat) (f : Tile → Tile) : (d.modTile t f).posts = d.posts := rfl
@[simp] theorem Dev.modTile_diePkts (t : Nat) (f : Tile → Tile) : (d.modTile t f).diePkts = d.diePkts := rfl
@[simp] theorem Dev.modTile_fabWait (t : Nat) (f : Tile → Tile) : (d.modTile t f).fabWait = d.fabWait := rfl
@[simp] theorem Dev.modTile_outReqs (t : Nat) (f : Tile → Tile) : (d.modTile t f).outReqs = d.outReqs := rfl
@[simp] theorem Dev.modTile_ports (t : Nat) (f : Tile → Tile) : (d.modTile t f).ports = d.ports := rfl
@[simp] theorem Dev.modTile_tko (t : Nat) (f : Tile → Tile) : (d.modTile t f).tko = d.tko := rfl
@[simp] theorem Dev.modTile_tkoRun (t : Nat) (f : Tile → Tile) : (d.modTile t f).tkoRun = d.tkoRun := rfl
@[simp] theorem Dev.modTile_inc (t : Nat) (f : Tile → Tile) : (d.modTile t f).inc = d.inc := rfl
@[simp] theorem Dev.modTile_tmb (t : Nat) (f : Tile → Tile) : (d.modTile t f).tmb = d.tmb := rfl
@[simp] theorem Dev.modTile_fc (t : Nat) (f : Tile → Tile) : (d.modTile t f).fc = d.fc := rfl
@[simp] theorem Dev.modTile_colls (t : Nat) (f : Tile → Tile) : (d.modTile t f).colls = d.colls := rfl
@[simp] theorem Dev.modTile_collQ (t : Nat) (f : Tile → Tile) : (d.modTile t f).collQ = d.collQ := rfl
@[simp] theorem Dev.modTile_rsl (t : Nat) (f : Tile → Tile) : (d.modTile t f).rsl = d.rsl := rfl
@[simp] theorem Dev.modTile_sent (t : Nat) (f : Tile → Tile) : (d.modTile t f).sent = d.sent := rfl
@[simp] theorem Dev.modTile_hostInj (t : Nat) (f : Tile → Tile) : (d.modTile t f).hostInj = d.hostInj := rfl
@[simp] theorem Dev.modTile_syncHeld (t : Nat) (f : Tile → Tile) : (d.modTile t f).syncHeld = d.syncHeld := rfl
@[simp] theorem Dev.modTile_gen254 (t : Nat) (f : Tile → Tile) : (d.modTile t f).gen254 = d.gen254 := rfl
@[simp] theorem Dev.modTile_draws (t : Nat) (f : Tile → Tile) : (d.modTile t f).draws = d.draws := rfl
@[simp] theorem Dev.modTile_netSeq (t : Nat) (f : Tile → Tile) : (d.modTile t f).netSeq = d.netSeq := rfl
@[simp] theorem Dev.modTile_ns (t : Nat) (f : Tile → Tile) : (d.modTile t f).ns = d.ns := rfl
@[simp] theorem Dev.modTile_noc (t : Nat) (f : Tile → Tile) : (d.modTile t f).noc = d.noc := rfl
@[simp] theorem Dev.modTile_mirQ (t : Nat) (f : Tile → Tile) : (d.modTile t f).mirQ = d.mirQ := rfl
@[simp] theorem Dev.modTile_softBusy (t : Nat) (f : Tile → Tile) : (d.modTile t f).softBusy = d.softBusy := rfl

/-! ### Dev.modCtx -/

@[simp] theorem Dev.modCtx_fuses (t : Nat) (b : Bool) (f : Ctx → Ctx) : (d.modCtx t b f).fuses = d.fuses := rfl
@[simp] theorem Dev.modCtx_mc (t : Nat) (b : Bool) (f : Ctx → Ctx) : (d.modCtx t b f).mc = d.mc := rfl
@[simp] theorem Dev.modCtx_evr (t : Nat) (b : Bool) (f : Ctx → Ctx) : (d.modCtx t b f).evr = d.evr := rfl
@[simp] theorem Dev.modCtx_pins (t : Nat) (b : Bool) (f : Ctx → Ctx) : (d.modCtx t b f).pins = d.pins := rfl
@[simp] theorem Dev.modCtx_hif (t : Nat) (b : Bool) (f : Ctx → Ctx) : (d.modCtx t b f).hif = d.hif := rfl
@[simp] theorem Dev.modCtx_regs (t : Nat) (b : Bool) (f : Ctx → Ctx) : (d.modCtx t b f).regs = d.regs := rfl
@[simp] theorem Dev.modCtx_ctrs (t : Nat) (b : Bool) (f : Ctx → Ctx) : (d.modCtx t b f).ctrs = d.ctrs := rfl
@[simp] theorem Dev.modCtx_latch (t : Nat) (b : Bool) (f : Ctx → Ctx) : (d.modCtx t b f).latch = d.latch := rfl
@[simp] theorem Dev.modCtx_heldLo (t : Nat) (b : Bool) (f : Ctx → Ctx) : (d.modCtx t b f).heldLo = d.heldLo := rfl
@[simp] theorem Dev.modCtx_flt (t : Nat) (b : Bool) (f : Ctx → Ctx) : (d.modCtx t b f).flt = d.flt := rfl
@[simp] theorem Dev.modCtx_pwr (t : Nat) (b : Bool) (f : Ctx → Ctx) : (d.modCtx t b f).pwr = d.pwr := rfl
@[simp] theorem Dev.modCtx_unitBaro (t : Nat) (b : Bool) (f : Ctx → Ctx) : (d.modCtx t b f).unitBaro = d.unitBaro := rfl
@[simp] theorem Dev.modCtx_baroFly (t : Nat) (b : Bool) (f : Ctx → Ctx) : (d.modCtx t b f).baroFly = d.baroFly := rfl
@[simp] theorem Dev.modCtx_pool (t : Nat) (b : Bool) (f : Ctx → Ctx) : (d.modCtx t b f).pool = d.pool := rfl
@[simp] theorem Dev.modCtx_poolOps (t : Nat) (b : Bool) (f : Ctx → Ctx) : (d.modCtx t b f).poolOps = d.poolOps := rfl
@[simp] theorem Dev.modCtx_hbm (t : Nat) (b : Bool) (f : Ctx → Ctx) : (d.modCtx t b f).hbm = d.hbm := rfl
@[simp] theorem Dev.modCtx_puts (t : Nat) (b : Bool) (f : Ctx → Ctx) : (d.modCtx t b f).puts = d.puts := rfl
@[simp] theorem Dev.modCtx_msgs (t : Nat) (b : Bool) (f : Ctx → Ctx) : (d.modCtx t b f).msgs = d.msgs := rfl
@[simp] theorem Dev.modCtx_ingress (t : Nat) (b : Bool) (f : Ctx → Ctx) : (d.modCtx t b f).ingress = d.ingress := rfl
@[simp] theorem Dev.modCtx_spilled (t : Nat) (b : Bool) (f : Ctx → Ctx) : (d.modCtx t b f).spilled = d.spilled := rfl
@[simp] theorem Dev.modCtx_coreQ (t : Nat) (b : Bool) (f : Ctx → Ctx) : (d.modCtx t b f).coreQ = d.coreQ := rfl
@[simp] theorem Dev.modCtx_chanUnit (t : Nat) (b : Bool) (f : Ctx → Ctx) : (d.modCtx t b f).chanUnit = d.chanUnit := rfl
@[simp] theorem Dev.modCtx_chanFly (t : Nat) (b : Bool) (f : Ctx → Ctx) : (d.modCtx t b f).chanFly = d.chanFly := rfl
@[simp] theorem Dev.modCtx_chanTotal (t : Nat) (b : Bool) (f : Ctx → Ctx) : (d.modCtx t b f).chanTotal = d.chanTotal := rfl
@[simp] theorem Dev.modCtx_syncs (t : Nat) (b : Bool) (f : Ctx → Ctx) : (d.modCtx t b f).syncs = d.syncs := rfl
@[simp] theorem Dev.modCtx_watches (t : Nat) (b : Bool) (f : Ctx → Ctx) : (d.modCtx t b f).watches = d.watches := rfl
@[simp] theorem Dev.modCtx_bars (t : Nat) (b : Bool) (f : Ctx → Ctx) : (d.modCtx t b f).bars = d.bars := rfl
@[simp] theorem Dev.modCtx_rounds (t : Nat) (b : Bool) (f : Ctx → Ctx) : (d.modCtx t b f).rounds = d.rounds := rfl
@[simp] theorem Dev.modCtx_fabBars (t : Nat) (b : Bool) (f : Ctx → Ctx) : (d.modCtx t b f).fabBars = d.fabBars := rfl
@[simp] theorem Dev.modCtx_rels (t : Nat) (b : Bool) (f : Ctx → Ctx) : (d.modCtx t b f).rels = d.rels := rfl
@[simp] theorem Dev.modCtx_realign (t : Nat) (b : Bool) (f : Ctx → Ctx) : (d.modCtx t b f).realign = d.realign := rfl
@[simp] theorem Dev.modCtx_stages (t : Nat) (b : Bool) (f : Ctx → Ctx) : (d.modCtx t b f).stages = d.stages := rfl
@[simp] theorem Dev.modCtx_segs (t : Nat) (b : Bool) (f : Ctx → Ctx) : (d.modCtx t b f).segs = d.segs := rfl
@[simp] theorem Dev.modCtx_segId (t : Nat) (b : Bool) (f : Ctx → Ctx) : (d.modCtx t b f).segId = d.segId := rfl
@[simp] theorem Dev.modCtx_retain (t : Nat) (b : Bool) (f : Ctx → Ctx) : (d.modCtx t b f).retain = d.retain := rfl
@[simp] theorem Dev.modCtx_posts (t : Nat) (b : Bool) (f : Ctx → Ctx) : (d.modCtx t b f).posts = d.posts := rfl
@[simp] theorem Dev.modCtx_diePkts (t : Nat) (b : Bool) (f : Ctx → Ctx) : (d.modCtx t b f).diePkts = d.diePkts := rfl
@[simp] theorem Dev.modCtx_fabWait (t : Nat) (b : Bool) (f : Ctx → Ctx) : (d.modCtx t b f).fabWait = d.fabWait := rfl
@[simp] theorem Dev.modCtx_outReqs (t : Nat) (b : Bool) (f : Ctx → Ctx) : (d.modCtx t b f).outReqs = d.outReqs := rfl
@[simp] theorem Dev.modCtx_ports (t : Nat) (b : Bool) (f : Ctx → Ctx) : (d.modCtx t b f).ports = d.ports := rfl
@[simp] theorem Dev.modCtx_tko (t : Nat) (b : Bool) (f : Ctx → Ctx) : (d.modCtx t b f).tko = d.tko := rfl
@[simp] theorem Dev.modCtx_tkoRun (t : Nat) (b : Bool) (f : Ctx → Ctx) : (d.modCtx t b f).tkoRun = d.tkoRun := rfl
@[simp] theorem Dev.modCtx_inc (t : Nat) (b : Bool) (f : Ctx → Ctx) : (d.modCtx t b f).inc = d.inc := rfl
@[simp] theorem Dev.modCtx_tmb (t : Nat) (b : Bool) (f : Ctx → Ctx) : (d.modCtx t b f).tmb = d.tmb := rfl
@[simp] theorem Dev.modCtx_fc (t : Nat) (b : Bool) (f : Ctx → Ctx) : (d.modCtx t b f).fc = d.fc := rfl
@[simp] theorem Dev.modCtx_colls (t : Nat) (b : Bool) (f : Ctx → Ctx) : (d.modCtx t b f).colls = d.colls := rfl
@[simp] theorem Dev.modCtx_collQ (t : Nat) (b : Bool) (f : Ctx → Ctx) : (d.modCtx t b f).collQ = d.collQ := rfl
@[simp] theorem Dev.modCtx_rsl (t : Nat) (b : Bool) (f : Ctx → Ctx) : (d.modCtx t b f).rsl = d.rsl := rfl
@[simp] theorem Dev.modCtx_sent (t : Nat) (b : Bool) (f : Ctx → Ctx) : (d.modCtx t b f).sent = d.sent := rfl
@[simp] theorem Dev.modCtx_hostInj (t : Nat) (b : Bool) (f : Ctx → Ctx) : (d.modCtx t b f).hostInj = d.hostInj := rfl
@[simp] theorem Dev.modCtx_syncHeld (t : Nat) (b : Bool) (f : Ctx → Ctx) : (d.modCtx t b f).syncHeld = d.syncHeld := rfl
@[simp] theorem Dev.modCtx_gen254 (t : Nat) (b : Bool) (f : Ctx → Ctx) : (d.modCtx t b f).gen254 = d.gen254 := rfl
@[simp] theorem Dev.modCtx_draws (t : Nat) (b : Bool) (f : Ctx → Ctx) : (d.modCtx t b f).draws = d.draws := rfl
@[simp] theorem Dev.modCtx_netSeq (t : Nat) (b : Bool) (f : Ctx → Ctx) : (d.modCtx t b f).netSeq = d.netSeq := rfl
@[simp] theorem Dev.modCtx_ns (t : Nat) (b : Bool) (f : Ctx → Ctx) : (d.modCtx t b f).ns = d.ns := rfl
@[simp] theorem Dev.modCtx_noc (t : Nat) (b : Bool) (f : Ctx → Ctx) : (d.modCtx t b f).noc = d.noc := rfl
@[simp] theorem Dev.modCtx_mirQ (t : Nat) (b : Bool) (f : Ctx → Ctx) : (d.modCtx t b f).mirQ = d.mirQ := rfl
@[simp] theorem Dev.modCtx_softBusy (t : Nat) (b : Bool) (f : Ctx → Ctx) : (d.modCtx t b f).softBusy = d.softBusy := rfl

/-! ### Dev.bumpAlways -/

@[simp] theorem Dev.bumpAlways_fuses (p : Page) (o n : Nat) : (d.bumpAlways p o n).fuses = d.fuses := rfl
@[simp] theorem Dev.bumpAlways_mc (p : Page) (o n : Nat) : (d.bumpAlways p o n).mc = d.mc := rfl
@[simp] theorem Dev.bumpAlways_evr (p : Page) (o n : Nat) : (d.bumpAlways p o n).evr = d.evr := rfl
@[simp] theorem Dev.bumpAlways_pins (p : Page) (o n : Nat) : (d.bumpAlways p o n).pins = d.pins := rfl
@[simp] theorem Dev.bumpAlways_hif (p : Page) (o n : Nat) : (d.bumpAlways p o n).hif = d.hif := rfl
@[simp] theorem Dev.bumpAlways_regs (p : Page) (o n : Nat) : (d.bumpAlways p o n).regs = d.regs := rfl
@[simp] theorem Dev.bumpAlways_latch (p : Page) (o n : Nat) : (d.bumpAlways p o n).latch = d.latch := rfl
@[simp] theorem Dev.bumpAlways_heldLo (p : Page) (o n : Nat) : (d.bumpAlways p o n).heldLo = d.heldLo := rfl
@[simp] theorem Dev.bumpAlways_flt (p : Page) (o n : Nat) : (d.bumpAlways p o n).flt = d.flt := rfl
@[simp] theorem Dev.bumpAlways_pwr (p : Page) (o n : Nat) : (d.bumpAlways p o n).pwr = d.pwr := rfl
@[simp] theorem Dev.bumpAlways_tiles (p : Page) (o n : Nat) : (d.bumpAlways p o n).tiles = d.tiles := rfl
@[simp] theorem Dev.bumpAlways_unitBaro (p : Page) (o n : Nat) : (d.bumpAlways p o n).unitBaro = d.unitBaro := rfl
@[simp] theorem Dev.bumpAlways_baroFly (p : Page) (o n : Nat) : (d.bumpAlways p o n).baroFly = d.baroFly := rfl
@[simp] theorem Dev.bumpAlways_pool (p : Page) (o n : Nat) : (d.bumpAlways p o n).pool = d.pool := rfl
@[simp] theorem Dev.bumpAlways_poolOps (p : Page) (o n : Nat) : (d.bumpAlways p o n).poolOps = d.poolOps := rfl
@[simp] theorem Dev.bumpAlways_hbm (p : Page) (o n : Nat) : (d.bumpAlways p o n).hbm = d.hbm := rfl
@[simp] theorem Dev.bumpAlways_puts (p : Page) (o n : Nat) : (d.bumpAlways p o n).puts = d.puts := rfl
@[simp] theorem Dev.bumpAlways_msgs (p : Page) (o n : Nat) : (d.bumpAlways p o n).msgs = d.msgs := rfl
@[simp] theorem Dev.bumpAlways_ingress (p : Page) (o n : Nat) : (d.bumpAlways p o n).ingress = d.ingress := rfl
@[simp] theorem Dev.bumpAlways_spilled (p : Page) (o n : Nat) : (d.bumpAlways p o n).spilled = d.spilled := rfl
@[simp] theorem Dev.bumpAlways_coreQ (p : Page) (o n : Nat) : (d.bumpAlways p o n).coreQ = d.coreQ := rfl
@[simp] theorem Dev.bumpAlways_chanUnit (p : Page) (o n : Nat) : (d.bumpAlways p o n).chanUnit = d.chanUnit := rfl
@[simp] theorem Dev.bumpAlways_chanFly (p : Page) (o n : Nat) : (d.bumpAlways p o n).chanFly = d.chanFly := rfl
@[simp] theorem Dev.bumpAlways_chanTotal (p : Page) (o n : Nat) : (d.bumpAlways p o n).chanTotal = d.chanTotal := rfl
@[simp] theorem Dev.bumpAlways_syncs (p : Page) (o n : Nat) : (d.bumpAlways p o n).syncs = d.syncs := rfl
@[simp] theorem Dev.bumpAlways_watches (p : Page) (o n : Nat) : (d.bumpAlways p o n).watches = d.watches := rfl
@[simp] theorem Dev.bumpAlways_bars (p : Page) (o n : Nat) : (d.bumpAlways p o n).bars = d.bars := rfl
@[simp] theorem Dev.bumpAlways_rounds (p : Page) (o n : Nat) : (d.bumpAlways p o n).rounds = d.rounds := rfl
@[simp] theorem Dev.bumpAlways_fabBars (p : Page) (o n : Nat) : (d.bumpAlways p o n).fabBars = d.fabBars := rfl
@[simp] theorem Dev.bumpAlways_rels (p : Page) (o n : Nat) : (d.bumpAlways p o n).rels = d.rels := rfl
@[simp] theorem Dev.bumpAlways_realign (p : Page) (o n : Nat) : (d.bumpAlways p o n).realign = d.realign := rfl
@[simp] theorem Dev.bumpAlways_stages (p : Page) (o n : Nat) : (d.bumpAlways p o n).stages = d.stages := rfl
@[simp] theorem Dev.bumpAlways_segs (p : Page) (o n : Nat) : (d.bumpAlways p o n).segs = d.segs := rfl
@[simp] theorem Dev.bumpAlways_segId (p : Page) (o n : Nat) : (d.bumpAlways p o n).segId = d.segId := rfl
@[simp] theorem Dev.bumpAlways_retain (p : Page) (o n : Nat) : (d.bumpAlways p o n).retain = d.retain := rfl
@[simp] theorem Dev.bumpAlways_posts (p : Page) (o n : Nat) : (d.bumpAlways p o n).posts = d.posts := rfl
@[simp] theorem Dev.bumpAlways_diePkts (p : Page) (o n : Nat) : (d.bumpAlways p o n).diePkts = d.diePkts := rfl
@[simp] theorem Dev.bumpAlways_fabWait (p : Page) (o n : Nat) : (d.bumpAlways p o n).fabWait = d.fabWait := rfl
@[simp] theorem Dev.bumpAlways_outReqs (p : Page) (o n : Nat) : (d.bumpAlways p o n).outReqs = d.outReqs := rfl
@[simp] theorem Dev.bumpAlways_ports (p : Page) (o n : Nat) : (d.bumpAlways p o n).ports = d.ports := rfl
@[simp] theorem Dev.bumpAlways_tko (p : Page) (o n : Nat) : (d.bumpAlways p o n).tko = d.tko := rfl
@[simp] theorem Dev.bumpAlways_tkoRun (p : Page) (o n : Nat) : (d.bumpAlways p o n).tkoRun = d.tkoRun := rfl
@[simp] theorem Dev.bumpAlways_inc (p : Page) (o n : Nat) : (d.bumpAlways p o n).inc = d.inc := rfl
@[simp] theorem Dev.bumpAlways_tmb (p : Page) (o n : Nat) : (d.bumpAlways p o n).tmb = d.tmb := rfl
@[simp] theorem Dev.bumpAlways_fc (p : Page) (o n : Nat) : (d.bumpAlways p o n).fc = d.fc := rfl
@[simp] theorem Dev.bumpAlways_colls (p : Page) (o n : Nat) : (d.bumpAlways p o n).colls = d.colls := rfl
@[simp] theorem Dev.bumpAlways_collQ (p : Page) (o n : Nat) : (d.bumpAlways p o n).collQ = d.collQ := rfl
@[simp] theorem Dev.bumpAlways_rsl (p : Page) (o n : Nat) : (d.bumpAlways p o n).rsl = d.rsl := rfl
@[simp] theorem Dev.bumpAlways_sent (p : Page) (o n : Nat) : (d.bumpAlways p o n).sent = d.sent := rfl
@[simp] theorem Dev.bumpAlways_hostInj (p : Page) (o n : Nat) : (d.bumpAlways p o n).hostInj = d.hostInj := rfl
@[simp] theorem Dev.bumpAlways_syncHeld (p : Page) (o n : Nat) : (d.bumpAlways p o n).syncHeld = d.syncHeld := rfl
@[simp] theorem Dev.bumpAlways_gen254 (p : Page) (o n : Nat) : (d.bumpAlways p o n).gen254 = d.gen254 := rfl
@[simp] theorem Dev.bumpAlways_draws (p : Page) (o n : Nat) : (d.bumpAlways p o n).draws = d.draws := rfl
@[simp] theorem Dev.bumpAlways_netSeq (p : Page) (o n : Nat) : (d.bumpAlways p o n).netSeq = d.netSeq := rfl
@[simp] theorem Dev.bumpAlways_ns (p : Page) (o n : Nat) : (d.bumpAlways p o n).ns = d.ns := rfl
@[simp] theorem Dev.bumpAlways_noc (p : Page) (o n : Nat) : (d.bumpAlways p o n).noc = d.noc := rfl
@[simp] theorem Dev.bumpAlways_mirQ (p : Page) (o n : Nat) : (d.bumpAlways p o n).mirQ = d.mirQ := rfl
@[simp] theorem Dev.bumpAlways_softBusy (p : Page) (o n : Nat) : (d.bumpAlways p o n).softBusy = d.softBusy := rfl

/-! ### Dev.emit -/

@[simp] theorem Dev.emit_fuses (e : Emission) : (d.emit e).fuses = d.fuses := rfl
@[simp] theorem Dev.emit_mc (e : Emission) : (d.emit e).mc = d.mc := rfl
@[simp] theorem Dev.emit_evr (e : Emission) : (d.emit e).evr = d.evr := rfl
@[simp] theorem Dev.emit_pins (e : Emission) : (d.emit e).pins = d.pins := rfl
@[simp] theorem Dev.emit_hif (e : Emission) : (d.emit e).hif = d.hif := rfl
@[simp] theorem Dev.emit_regs (e : Emission) : (d.emit e).regs = d.regs := rfl
@[simp] theorem Dev.emit_ctrs (e : Emission) : (d.emit e).ctrs = d.ctrs := rfl
@[simp] theorem Dev.emit_latch (e : Emission) : (d.emit e).latch = d.latch := rfl
@[simp] theorem Dev.emit_heldLo (e : Emission) : (d.emit e).heldLo = d.heldLo := rfl
@[simp] theorem Dev.emit_flt (e : Emission) : (d.emit e).flt = d.flt := rfl
@[simp] theorem Dev.emit_pwr (e : Emission) : (d.emit e).pwr = d.pwr := rfl
@[simp] theorem Dev.emit_tiles (e : Emission) : (d.emit e).tiles = d.tiles := rfl
@[simp] theorem Dev.emit_unitBaro (e : Emission) : (d.emit e).unitBaro = d.unitBaro := rfl
@[simp] theorem Dev.emit_baroFly (e : Emission) : (d.emit e).baroFly = d.baroFly := rfl
@[simp] theorem Dev.emit_pool (e : Emission) : (d.emit e).pool = d.pool := rfl
@[simp] theorem Dev.emit_poolOps (e : Emission) : (d.emit e).poolOps = d.poolOps := rfl
@[simp] theorem Dev.emit_hbm (e : Emission) : (d.emit e).hbm = d.hbm := rfl
@[simp] theorem Dev.emit_puts (e : Emission) : (d.emit e).puts = d.puts := rfl
@[simp] theorem Dev.emit_msgs (e : Emission) : (d.emit e).msgs = d.msgs := rfl
@[simp] theorem Dev.emit_ingress (e : Emission) : (d.emit e).ingress = d.ingress := rfl
@[simp] theorem Dev.emit_spilled (e : Emission) : (d.emit e).spilled = d.spilled := rfl
@[simp] theorem Dev.emit_coreQ (e : Emission) : (d.emit e).coreQ = d.coreQ := rfl
@[simp] theorem Dev.emit_chanUnit (e : Emission) : (d.emit e).chanUnit = d.chanUnit := rfl
@[simp] theorem Dev.emit_chanFly (e : Emission) : (d.emit e).chanFly = d.chanFly := rfl
@[simp] theorem Dev.emit_chanTotal (e : Emission) : (d.emit e).chanTotal = d.chanTotal := rfl
@[simp] theorem Dev.emit_syncs (e : Emission) : (d.emit e).syncs = d.syncs := rfl
@[simp] theorem Dev.emit_watches (e : Emission) : (d.emit e).watches = d.watches := rfl
@[simp] theorem Dev.emit_bars (e : Emission) : (d.emit e).bars = d.bars := rfl
@[simp] theorem Dev.emit_rounds (e : Emission) : (d.emit e).rounds = d.rounds := rfl
@[simp] theorem Dev.emit_fabBars (e : Emission) : (d.emit e).fabBars = d.fabBars := rfl
@[simp] theorem Dev.emit_rels (e : Emission) : (d.emit e).rels = d.rels := rfl
@[simp] theorem Dev.emit_realign (e : Emission) : (d.emit e).realign = d.realign := rfl
@[simp] theorem Dev.emit_stages (e : Emission) : (d.emit e).stages = d.stages := rfl
@[simp] theorem Dev.emit_segs (e : Emission) : (d.emit e).segs = d.segs := rfl
@[simp] theorem Dev.emit_segId (e : Emission) : (d.emit e).segId = d.segId := rfl
@[simp] theorem Dev.emit_retain (e : Emission) : (d.emit e).retain = d.retain := rfl
@[simp] theorem Dev.emit_posts (e : Emission) : (d.emit e).posts = d.posts := rfl
@[simp] theorem Dev.emit_diePkts (e : Emission) : (d.emit e).diePkts = d.diePkts := rfl
@[simp] theorem Dev.emit_fabWait (e : Emission) : (d.emit e).fabWait = d.fabWait := rfl
@[simp] theorem Dev.emit_outReqs (e : Emission) : (d.emit e).outReqs = d.outReqs := rfl
@[simp] theorem Dev.emit_ports (e : Emission) : (d.emit e).ports = d.ports := rfl
@[simp] theorem Dev.emit_tko (e : Emission) : (d.emit e).tko = d.tko := rfl
@[simp] theorem Dev.emit_tkoRun (e : Emission) : (d.emit e).tkoRun = d.tkoRun := rfl
@[simp] theorem Dev.emit_inc (e : Emission) : (d.emit e).inc = d.inc := rfl
@[simp] theorem Dev.emit_tmb (e : Emission) : (d.emit e).tmb = d.tmb := rfl
@[simp] theorem Dev.emit_fc (e : Emission) : (d.emit e).fc = d.fc := rfl
@[simp] theorem Dev.emit_colls (e : Emission) : (d.emit e).colls = d.colls := rfl
@[simp] theorem Dev.emit_collQ (e : Emission) : (d.emit e).collQ = d.collQ := rfl
@[simp] theorem Dev.emit_rsl (e : Emission) : (d.emit e).rsl = d.rsl := rfl
@[simp] theorem Dev.emit_hostInj (e : Emission) : (d.emit e).hostInj = d.hostInj := rfl
@[simp] theorem Dev.emit_syncHeld (e : Emission) : (d.emit e).syncHeld = d.syncHeld := rfl
@[simp] theorem Dev.emit_gen254 (e : Emission) : (d.emit e).gen254 = d.gen254 := rfl
@[simp] theorem Dev.emit_draws (e : Emission) : (d.emit e).draws = d.draws := rfl
@[simp] theorem Dev.emit_netSeq (e : Emission) : (d.emit e).netSeq = d.netSeq := rfl
@[simp] theorem Dev.emit_ns (e : Emission) : (d.emit e).ns = d.ns := rfl
@[simp] theorem Dev.emit_noc (e : Emission) : (d.emit e).noc = d.noc := rfl
@[simp] theorem Dev.emit_mirQ (e : Emission) : (d.emit e).mirQ = d.mirQ := rfl
@[simp] theorem Dev.emit_softBusy (e : Emission) : (d.emit e).softBusy = d.softBusy := rfl

/-! ### Reads after updates -/

theorem Dev.rd_wr (o j : Nat) (w : Word) : (d.wr o w).rd j = if j = o then w else d.rd j := by
  by_cases h : j = o
  · subst h; simp [Dev.rd, Dev.wr]
  · simp [Dev.rd, Dev.wr, h, Tbl.get?_set_other _ _ h]

@[simp] theorem Dev.rd_wr_same (o : Nat) (w : Word) : (d.wr o w).rd o = w := by simp [Dev.rd_wr]

@[simp] theorem Dev.preg_setPreg_same (p : Page) (o : Nat) (w : Word) : (d.setPreg p o w).preg p o = w := Dev.rd_wr_same ..

theorem Dev.preg_setPreg (p q : Page) (o j : Nat) (w : Word) :
    (d.setPreg p o w).preg q j = if q.base + j = p.base + o then w else d.preg q j := Dev.rd_wr ..

/-- What depends on the stored registers alone reads the same after a change of anything else. -/
theorem Dev.preg_congr {d e : Dev} (h : e.regs = d.regs) (p : Page) (o : Nat) : e.preg p o = d.preg p o := by
  simp [Dev.preg, Dev.rd, h]

@[simp] theorem Dev.preg_setTile (t : Nat) (x : Tile) (p : Page) (o : Nat) : (d.setTile t x).preg p o = d.preg p o := rfl
@[simp] theorem Dev.preg_modTile (t : Nat) (f : Tile → Tile) (p : Page) (o : Nat) : (d.modTile t f).preg p o = d.preg p o := rfl
@[simp] theorem Dev.preg_modCtx (t : Nat) (b : Bool) (f : Ctx → Ctx) (p : Page) (o : Nat) : (d.modCtx t b f).preg p o = d.preg p o := rfl
@[simp] theorem Dev.preg_bumpAlways (q : Page) (i n : Nat) (p : Page) (o : Nat) : (d.bumpAlways q i n).preg p o = d.preg p o := rfl

@[simp] theorem Dev.tile_setTile_same (t : Nat) (x : Tile) : (d.setTile t x).tile t = x := by simp [Dev.tile, Dev.setTile]

theorem Dev.tile_setTile_other (x : Tile) {t u : Nat} (h : u ≠ t) : (d.setTile t x).tile u = d.tile u := by
  simp [Dev.tile, Dev.setTile, Tbl.getD_set_other _ _ _ h]

@[simp] theorem Dev.tile_modTile_same (t : Nat) (f : Tile → Tile) : (d.modTile t f).tile t = f (d.tile t) := by simp [Dev.modTile]

theorem Dev.tile_modTile_other (f : Tile → Tile) {t u : Nat} (h : u ≠ t) : (d.modTile t f).tile u = d.tile u := by
  simp [Dev.modTile, Dev.tile_setTile_other _ _ h]

@[simp] theorem Tile.ctx_setCtx_same (x : Tile) (b : Bool) (c : Ctx) : (x.setCtx b c).ctx b = c := by
  cases b <;> rfl

@[simp] theorem Tile.ctx_setCtx_other (x : Tile) (b : Bool) (c : Ctx) : (x.setCtx b c).ctx (!b) = x.ctx (!b) := by
  cases b <;> rfl

@[simp] theorem Tile.setCtx_setCtx (x : Tile) (b : Bool) (c e : Ctx) : (x.setCtx b c).setCtx b e = x.setCtx b e := by
  cases b <;> rfl

theorem cellsSet_cellsSet {α : Type} (l : List (Nat × α)) (k : Nat) (v w : α) :
    cellsSet (cellsSet l k v) k w = cellsSet l k w := by
  induction l with
  | nil => simp [cellsSet]
  | cons x r ih =>
    obtain ⟨k', v'⟩ := x
    simp only [cellsSet]
    split
    · simp [cellsSet]
    · split
      · simp [cellsSet]
      · rename_i h1 h2
        simp [cellsSet, h1, h2, ih]

@[simp] theorem Dev.setTile_setTile (t : Nat) (x y : Tile) : (d.setTile t x).setTile t y = d.setTile t y := by
  simp [Dev.setTile, Tbl.set, cellsSet_cellsSet]

/-- Two changes of one tile are one. -/
@[simp] theorem Dev.modTile_modTile (t : Nat) (f g : Tile → Tile) : (d.modTile t f).modTile t g = d.modTile t fun x => g (f x) := by
  simp [Dev.modTile]

@[simp] theorem Dev.modCtx_modCtx (t : Nat) (b : Bool) (f g : Ctx → Ctx) :
    (d.modCtx t b f).modCtx t b g = d.modCtx t b fun c => g (f c) := by
  simp [Dev.modCtx]

@[simp] theorem Dev.tile_modCtx_same (t : Nat) (b : Bool) (f : Ctx → Ctx) :
    (d.modCtx t b f).tile t = (d.tile t).setCtx b (f ((d.tile t).ctx b)) := by simp [Dev.modCtx]

theorem Dev.tile_modCtx_other (b : Bool) (f : Ctx → Ctx) {t u : Nat} (h : u ≠ t) : (d.modCtx t b f).tile u = d.tile u := by
  simp [Dev.modCtx, Dev.tile_modTile_other _ _ h]

@[simp] theorem Dev.tile_bumpAlways (p : Page) (o n t : Nat) : (d.bumpAlways p o n).tile t = d.tile t := rfl
@[simp] theorem Dev.tile_wr (o : Nat) (w : Word) (t : Nat) : (d.wr o w).tile t = d.tile t := rfl
@[simp] theorem Dev.tile_setPreg (p : Page) (o : Nat) (w : Word) (t : Nat) : (d.setPreg p o w).tile t = d.tile t := rfl

@[simp] theorem Tile.setCtx_sel (x : Tile) (b : Bool) (c : Ctx) : (x.setCtx b c).sel = x.sel := by cases b <;> rfl
@[simp] theorem Tile.setCtx_switching (x : Tile) (b : Bool) (c : Ctx) : (x.setCtx b c).switching = x.switching := by cases b <;> rfl
@[simp] theorem Tile.setCtx_slots (x : Tile) (b : Bool) (c : Ctx) : (x.setCtx b c).slots = x.slots := by cases b <;> rfl
@[simp] theorem Tile.setCtx_imem (x : Tile) (b : Bool) (c : Ctx) : (x.setCtx b c).imem = x.imem := by cases b <;> rfl
@[simp] theorem Tile.setCtx_spad (x : Tile) (b : Bool) (c : Ctx) : (x.setCtx b c).spad = x.spad := by cases b <;> rfl
@[simp] theorem Tile.setCtx_groups (x : Tile) (b : Bool) (c : Ctx) : (x.setCtx b c).groups = x.groups := by cases b <;> rfl
@[simp] theorem Tile.setCtx_wcb (x : Tile) (b : Bool) (c : Ctx) : (x.setCtx b c).wcb = x.wcb := by cases b <;> rfl
@[simp] theorem Tile.setCtx_lwatch (x : Tile) (b : Bool) (c : Ctx) : (x.setCtx b c).lwatch = x.lwatch := by cases b <;> rfl
@[simp] theorem Tile.setCtx_layer (x : Tile) (b : Bool) (c : Ctx) : (x.setCtx b c).layer = x.layer := by cases b <;> rfl
@[simp] theorem Tile.setCtx_ratio (x : Tile) (b : Bool) (c : Ctx) : (x.setCtx b c).ratio = x.ratio := by cases b <;> rfl
@[simp] theorem Tile.setCtx_baro (x : Tile) (b : Bool) (c : Ctx) : (x.setCtx b c).baro = x.baro := by cases b <;> rfl
@[simp] theorem Tile.setCtx_chan (x : Tile) (b : Bool) (c : Ctx) : (x.setCtx b c).chan = x.chan := by cases b <;> rfl
@[simp] theorem Tile.setCtx_ports (x : Tile) (b : Bool) (c : Ctx) : (x.setCtx b c).ports = x.ports := by cases b <;> rfl
@[simp] theorem Tile.setCtx_bars (x : Tile) (b : Bool) (c : Ctx) : (x.setCtx b c).bars = x.bars := by cases b <;> rfl
@[simp] theorem Tile.setCtx_puts (x : Tile) (b : Bool) (c : Ctx) : (x.setCtx b c).puts = x.puts := by cases b <;> rfl

/-! ### Registers of a context (R56, R91) -/

@[simp] theorem Ctx.rs_zero (c : Ctx) : c.rs 0 = 0 := rfl
@[simp] theorem Ctx.rp_zero (c : Ctx) : c.rp 0 = BitVec.allOnes 64 := rfl
@[simp] theorem Ctx.ws_zero (c : Ctx) (w : Word) : c.ws 0 w = c := rfl
@[simp] theorem Ctx.wp_zero (c : Ctx) (w : BitVec 64) : c.wp 0 w = c := rfl

theorem Ctx.rs_ws (c : Ctx) (n m : Nat) (w : Word) : (c.ws n w).rs m = if m = n ∧ n ≠ 0 then w else c.rs m := by
  unfold Ctx.ws Ctx.rs
  by_cases hn : n = 0
  · simp [hn]
  · by_cases hm : m = n
    · subst hm; simp [hn]
    · simp [hn, hm, Tbl.getD_set_other _ _ _ hm]

theorem Ctx.ra_wa (c : Ctx) (n m : Nat) (w : Word) : (c.wa n w).ra m = if m = n then w else c.ra m := by
  simp [Ctx.wa, Ctx.ra, Tbl.getD_set]

theorem Ctx.rv_wv (c : Ctx) (n m : Nat) (l : Lanes) : (c.wv n l).rv m = if m = n then l else c.rv m := by
  simp [Ctx.wv, Ctx.rv, Tbl.getD_set]

theorem Ctx.rp_wp (c : Ctx) (n m : Nat) (w : BitVec 64) : (c.wp n w).rp m = if m = n ∧ n ≠ 0 then w else c.rp m := by
  unfold Ctx.wp Ctx.rp
  by_cases hn : n = 0
  · simp [hn]
  · by_cases hm : m = n
    · subst hm; simp [hn]
    · simp [hn, hm, Tbl.getD_set_other _ _ _ hm]

@[simp] theorem Ctx.ws_run (c : Ctx) (n : Nat) (w : Word) : (c.ws n w).run = c.run := by unfold Ctx.ws; split <;> rfl
@[simp] theorem Ctx.ws_pc (c : Ctx) (n : Nat) (w : Word) : (c.ws n w).pc = c.pc := by unfold Ctx.ws; split <;> rfl
@[simp] theorem Ctx.ws_a (c : Ctx) (n : Nat) (w : Word) : (c.ws n w).a = c.a := by unfold Ctx.ws; split <;> rfl
@[simp] theorem Ctx.ws_v (c : Ctx) (n : Nat) (w : Word) : (c.ws n w).v = c.v := by unfold Ctx.ws; split <;> rfl
@[simp] theorem Ctx.ws_p (c : Ctx) (n : Nat) (w : Word) : (c.ws n w).p = c.p := by unfold Ctx.ws; split <;> rfl
@[simp] theorem Ctx.ws_fpstat (c : Ctx) (n : Nat) (w : Word) : (c.ws n w).fpstat = c.fpstat := by unfold Ctx.ws; split <;> rfl
@[simp] theorem Ctx.ws_trap (c : Ctx) (n : Nat) (w : Word) : (c.ws n w).trap = c.trap := by unfold Ctx.ws; split <;> rfl
@[simp] theorem Ctx.ws_trapInfo (c : Ctx) (n : Nat) (w : Word) : (c.ws n w).trapInfo = c.trapInfo := by unfold Ctx.ws; split <;> rfl
@[simp] theorem Ctx.ws_pend (c : Ctx) (n : Nat) (w : Word) : (c.ws n w).pend = c.pend := by unfold Ctx.ws; split <;> rfl
@[simp] theorem Ctx.ws_loads (c : Ctx) (n : Nat) (w : Word) : (c.ws n w).loads = c.loads := by unfold Ctx.ws; split <;> rfl
@[simp] theorem Ctx.ws_stall (c : Ctx) (n : Nat) (w : Word) : (c.ws n w).stall = c.stall := by unfold Ctx.ws; split <;> rfl
@[simp] theorem Ctx.ws_waits (c : Ctx) (n : Nat) (w : Word) : (c.ws n w).waits = c.waits := by unfold Ctx.ws; split <;> rfl
@[simp] theorem Ctx.ws_halting (c : Ctx) (n : Nat) (w : Word) : (c.ws n w).halting = c.halting := by unfold Ctx.ws; split <;> rfl
@[simp] theorem Ctx.ws_watches (c : Ctx) (n : Nat) (w : Word) : (c.ws n w).watches = c.watches := by unfold Ctx.ws; split <;> rfl
@[simp] theorem Ctx.wa_run (c : Ctx) (n : Nat) (w : Word) : (c.wa n w).run = c.run := rfl
@[simp] theorem Ctx.wa_pc (c : Ctx) (n : Nat) (w : Word) : (c.wa n w).pc = c.pc := rfl
@[simp] theorem Ctx.wa_s (c : Ctx) (n : Nat) (w : Word) : (c.wa n w).s = c.s := rfl
@[simp] theorem Ctx.wa_v (c : Ctx) (n : Nat) (w : Word) : (c.wa n w).v = c.v := rfl
@[simp] theorem Ctx.wa_p (c : Ctx) (n : Nat) (w : Word) : (c.wa n w).p = c.p := rfl
@[simp] theorem Ctx.wa_fpstat (c : Ctx) (n : Nat) (w : Word) : (c.wa n w).fpstat = c.fpstat := rfl
@[simp] theorem Ctx.wa_trap (c : Ctx) (n : Nat) (w : Word) : (c.wa n w).trap = c.trap := rfl
@[simp] theorem Ctx.wa_trapInfo (c : Ctx) (n : Nat) (w : Word) : (c.wa n w).trapInfo = c.trapInfo := rfl
@[simp] theorem Ctx.wa_pend (c : Ctx) (n : Nat) (w : Word) : (c.wa n w).pend = c.pend := rfl
@[simp] theorem Ctx.wa_loads (c : Ctx) (n : Nat) (w : Word) : (c.wa n w).loads = c.loads := rfl
@[simp] theorem Ctx.wa_stall (c : Ctx) (n : Nat) (w : Word) : (c.wa n w).stall = c.stall := rfl
@[simp] theorem Ctx.wa_waits (c : Ctx) (n : Nat) (w : Word) : (c.wa n w).waits = c.waits := rfl
@[simp] theorem Ctx.wa_halting (c : Ctx) (n : Nat) (w : Word) : (c.wa n w).halting = c.halting := rfl
@[simp] theorem Ctx.wa_watches (c : Ctx) (n : Nat) (w : Word) : (c.wa n w).watches = c.watches := rfl
@[simp] theorem Ctx.wv_run (c : Ctx) (n : Nat) (w : Lanes) : (c.wv n w).run = c.run := rfl
@[simp] theorem Ctx.wv_pc (c : Ctx) (n : Nat) (w : Lanes) : (c.wv n w).pc = c.pc := rfl
@[simp] theorem Ctx.wv_s (c : Ctx) (n : Nat) (w : Lanes) : (c.wv n w).s = c.s := rfl
@[simp] theorem Ctx.wv_a (c : Ctx) (n : Nat) (w : Lanes) : (c.wv n w).a = c.a := rfl
@[simp] theorem Ctx.wv_p (c : Ctx) (n : Nat) (w : Lanes) : (c.wv n w).p = c.p := rfl
@[simp] theorem Ctx.wv_fpstat (c : Ctx) (n : Nat) (w : Lanes) : (c.wv n w).fpstat = c.fpstat := rfl
@[simp] theorem Ctx.wv_trap (c : Ctx) (n : Nat) (w : Lanes) : (c.wv n w).trap = c.trap := rfl
@[simp] theorem Ctx.wv_trapInfo (c : Ctx) (n : Nat) (w : Lanes) : (c.wv n w).trapInfo = c.trapInfo := rfl
@[simp] theorem Ctx.wv_pend (c : Ctx) (n : Nat) (w : Lanes) : (c.wv n w).pend = c.pend := rfl
@[simp] theorem Ctx.wv_loads (c : Ctx) (n : Nat) (w : Lanes) : (c.wv n w).loads = c.loads := rfl
@[simp] theorem Ctx.wv_stall (c : Ctx) (n : Nat) (w : Lanes) : (c.wv n w).stall = c.stall := rfl
@[simp] theorem Ctx.wv_waits (c : Ctx) (n : Nat) (w : Lanes) : (c.wv n w).waits = c.waits := rfl
@[simp] theorem Ctx.wv_halting (c : Ctx) (n : Nat) (w : Lanes) : (c.wv n w).halting = c.halting := rfl
@[simp] theorem Ctx.wv_watches (c : Ctx) (n : Nat) (w : Lanes) : (c.wv n w).watches = c.watches := rfl
@[simp] theorem Ctx.wp_run (c : Ctx) (n : Nat) (w : BitVec 64) : (c.wp n w).run = c.run := by unfold Ctx.wp; split <;> rfl
@[simp] theorem Ctx.wp_pc (c : Ctx) (n : Nat) (w : BitVec 64) : (c.wp n w).pc = c.pc := by unfold Ctx.wp; split <;> rfl
@[simp] theorem Ctx.wp_s (c : Ctx) (n : Nat) (w : BitVec 64) : (c.wp n w).s = c.s := by unfold Ctx.wp; split <;> rfl
@[simp] theorem Ctx.wp_a (c : Ctx) (n : Nat) (w : BitVec 64) : (c.wp n w).a = c.a := by unfold Ctx.wp; split <;> rfl
@[simp] theorem Ctx.wp_v (c : Ctx) (n : Nat) (w : BitVec 64) : (c.wp n w).v = c.v := by unfold Ctx.wp; split <;> rfl
@[simp] theorem Ctx.wp_fpstat (c : Ctx) (n : Nat) (w : BitVec 64) : (c.wp n w).fpstat = c.fpstat := by unfold Ctx.wp; split <;> rfl
@[simp] theorem Ctx.wp_trap (c : Ctx) (n : Nat) (w : BitVec 64) : (c.wp n w).trap = c.trap := by unfold Ctx.wp; split <;> rfl
@[simp] theorem Ctx.wp_trapInfo (c : Ctx) (n : Nat) (w : BitVec 64) : (c.wp n w).trapInfo = c.trapInfo := by unfold Ctx.wp; split <;> rfl
@[simp] theorem Ctx.wp_pend (c : Ctx) (n : Nat) (w : BitVec 64) : (c.wp n w).pend = c.pend := by unfold Ctx.wp; split <;> rfl
@[simp] theorem Ctx.wp_loads (c : Ctx) (n : Nat) (w : BitVec 64) : (c.wp n w).loads = c.loads := by unfold Ctx.wp; split <;> rfl
@[simp] theorem Ctx.wp_stall (c : Ctx) (n : Nat) (w : BitVec 64) : (c.wp n w).stall = c.stall := by unfold Ctx.wp; split <;> rfl
@[simp] theorem Ctx.wp_waits (c : Ctx) (n : Nat) (w : BitVec 64) : (c.wp n w).waits = c.waits := by unfold Ctx.wp; split <;> rfl
@[simp] theorem Ctx.wp_halting (c : Ctx) (n : Nat) (w : BitVec 64) : (c.wp n w).halting = c.halting := by unfold Ctx.wp; split <;> rfl
@[simp] theorem Ctx.wp_watches (c : Ctx) (n : Nat) (w : BitVec 64) : (c.wp n w).watches = c.watches := by unfold Ctx.wp; split <;> rfl

end Sys2Proof.Machine
end

