-- ==== Sys2Proof/Laws/Buffer.lean ====
section
/-! SUPPORT. What a tile's loads observe through the write-combining buffer (R222 to R225): a flush changes nothing that a
load observes, a store changes its own bytes alone, and both keep the canonical form of the tile. -/

namespace Sys2Proof.Machine

/-! ### Writing an entry's bytes at the bank -/

theorem get_foldl_set_other (m : Mem) (base b : Nat) (cs : List (Nat × Byte)) (h : ∀ c ∈ cs, base + c.1 ≠ b) :
    (cs.foldl (fun m c => m.set (base + c.1) c.2) m).get b = m.get b := by
  induction cs generalizing m with
  | nil => rfl
  | cons c r ih =>
    simp only [List.foldl_cons]
    rw [ih _ fun c hc => h c (List.mem_cons_of_mem _ hc), Mem.get_set_other _ _ (Ne.symm (h c (List.mem_cons_self ..)))]

theorem wf_foldl_set {m : Mem} (base : Nat) (cs : List (Nat × Byte)) (h : m.wf = true) :
    (cs.foldl (fun m c => m.set (base + c.1) c.2) m).wf = true := by
  induction cs generalizing m with
  | nil => exact h
  | cons c r ih => exact ih (Mem.wf_set _ _ h)

theorem get_foldl_set_same {m : Mem} (base k : Nat) (v : Byte) (cs : List (Nat × Byte)) (hm : m.wf = true)
    (hr : keysRise cs = true) (h : cellsGet cs k = some v) :
    (cs.foldl (fun m c => m.set (base + c.1) c.2) m).get (base + k) = v := by
  induction cs generalizing m with
  | nil => simp [cellsGet] at h
  | cons c r ih =>
    have hc := (keysRise_cons _ _).1 hr
    simp only [List.foldl_cons]
    simp only [cellsGet] at h
    split at h
    · rename_i hk
      simp only [Option.some.injEq] at h
      rw [get_foldl_set_other]
      · rw [← hk, ← h]
        exact Mem.get_set_same _ _ hm
      · intro x hx he
        have := hc.1 x hx
        omega
    · exact ih (Mem.wf_set _ _ hm) hc.2 h

theorem wf_flushEntry {m : Mem} (e : WcbEntry) (h : m.wf = true) : (flushEntry m e).wf = true := wf_foldl_set _ _ h

theorem wf_flushAll {m : Mem} (es : List WcbEntry) (h : m.wf = true) : (es.foldl flushEntry m).wf = true := by
  induction es generalizing m with
  | nil => exact h
  | cons e r ih => exact ih (wf_flushEntry e h)

/-- An entry is canonical: its bytes, each once, lie below 64. -/
def WcbEntry.ok (e : WcbEntry) : Prop := e.bytes.wf = true ∧ ∀ c ∈ e.bytes.cells, c.1 < 64

/-- A flushed entry leaves the bytes of other lines alone. -/
theorem get_flushEntry_line {m : Mem} {e : WcbEntry} {b : Nat} (he : e.ok) (h : b / 64 ≠ e.line) :
    (flushEntry m e).get b = m.get b := by
  apply get_foldl_set_other
  intro c hc heq
  have := he.2 c hc
  apply h
  omega

/-- A flushed entry leaves the bytes that it does not hold alone. -/
theorem get_flushEntry_none {m : Mem} {e : WcbEntry} {b : Nat} (he : e.ok) (h : e.bytes.get? (b % 64) = none) :
    (flushEntry m e).get b = m.get b := by
  apply get_foldl_set_other
  intro c hc heq
  have hlt := he.2 c hc
  have hk : c.1 = b % 64 := by omega
  have hmem : ∀ l : List (Nat × Byte), c ∈ l → cellsGet l c.1 ≠ none := by
    intro l
    induction l with
    | nil => intro h; simp at h
    | cons x r ih =>
      intro hx
      simp only [cellsGet]
      split
      · simp
      · rename_i hne
        rcases List.mem_cons.1 hx with rfl | hx
        · exact absurd rfl hne
        · exact ih hx
  exact hmem _ hc (by rw [hk]; exact h)

theorem get_flushEntry_some {m : Mem} {e : WcbEntry} {b : Nat} {v : Byte} (hm : m.wf = true) (he : e.ok) (hl : b / 64 = e.line)
    (h : e.bytes.get? (b % 64) = some v) : (flushEntry m e).get b = v := by
  have := get_foldl_set_same (64 * e.line) (b % 64) v e.bytes.cells hm he.1 h
  rw [show 64 * e.line + b % 64 = b by omega] at this
  exact this

theorem get_flushEntries_other {m : Mem} {es : List WcbEntry} {b : Nat} (he : ∀ e ∈ es, e.ok) (h : ∀ e ∈ es, e.line ≠ b / 64) :
    (es.foldl flushEntry m).get b = m.get b := by
  induction es generalizing m with
  | nil => rfl
  | cons e r ih =>
    simp only [List.foldl_cons]
    rw [ih (fun e h => he e (List.mem_cons_of_mem _ h)) (fun e hh => h e (List.mem_cons_of_mem _ hh)),
      get_flushEntry_line (he e (List.mem_cons_self ..)) (Ne.symm (h e (List.mem_cons_self ..)))]

/-! ### What a load observes -/

/-- The byte that a buffer over a bank shows. -/
def seen (m : Mem) (es : List WcbEntry) (b : Nat) : Byte :=
  match es.find? fun e => e.line == b / 64 && (e.bytes.get? (b % 64)).isSome with
  | some e => e.bytes.getD (b % 64) 0
  | none => m.get b

theorem Tile.byte_eq_seen (x : Tile) (b : Nat) : x.byte b = seen x.spad x.wcb b := rfl

/-- With no entry of the byte's line the bank shows. -/
theorem seen_none {m : Mem} {es : List WcbEntry} {b : Nat} (h : ∀ e ∈ es, e.line ≠ b / 64) : seen m es b = m.get b := by
  have : es.find? (fun e => e.line == b / 64 && (e.bytes.get? (b % 64)).isSome) = none := by
    rw [List.find?_eq_none]
    intro e he
    simp [h e he]
  simp [seen, this]

theorem seen_cons_other {m : Mem} {e : WcbEntry} {es : List WcbEntry} {b : Nat} (h : e.line ≠ b / 64) :
    seen m (e :: es) b = seen m es b := by
  simp [seen, h]

theorem seen_cons_some {m : Mem} {e : WcbEntry} {es : List WcbEntry} {b : Nat} {v : Byte} (h : e.line = b / 64)
    (hv : e.bytes.get? (b % 64) = some v) : seen m (e :: es) b = v := by
  simp [seen, h, hv, Tbl.getD]

theorem seen_cons_none {m : Mem} {e : WcbEntry} {es : List WcbEntry} {b : Nat} (hv : e.bytes.get? (b % 64) = none) :
    seen m (e :: es) b = seen m es b := by
  simp [seen, hv]

theorem seen_congr {m n : Mem} {es : List WcbEntry} {b : Nat} (h : m.get b = n.get b) : seen m es b = seen n es b := by
  simp only [seen]
  split <;> simp [h]

/-- Flushing part of a buffer whose lines differ changes no byte that is seen. -/
theorem seen_flush {m : Mem} {es : List WcbEntry} (p : WcbEntry → Bool) (b : Nat) (hm : m.wf = true) (he : ∀ e ∈ es, e.ok)
    (hn : (es.map fun e => e.line).Nodup) :
    seen ((es.filter p).foldl flushEntry m) (es.filter fun e => !p e) b = seen m es b := by
  induction es generalizing m with
  | nil => rfl
  | cons e r ih =>
    simp only [List.map_cons, List.nodup_cons] at hn
    have her : ∀ e ∈ r, e.ok := fun e h => he e (List.mem_cons_of_mem _ h)
    have heo := he e (List.mem_cons_self ..)
    by_cases hp : p e = true
    · simp only [List.filter_cons, hp, if_true, Bool.not_true, Bool.false_eq_true, if_false, List.foldl_cons]
      rw [ih (wf_flushEntry e hm) her hn.2]
      by_cases hl : e.line = b / 64
      · have hno : ∀ e' ∈ r, e'.line ≠ b / 64 := by
          intro e' h' heq
          exact hn.1 (List.mem_map.2 ⟨e', h', by rw [heq, hl]⟩)
        rw [seen_none hno]
        cases hv : e.bytes.get? (b % 64) with
        | some v => rw [seen_cons_some hl hv, get_flushEntry_some hm heo hl.symm hv]
        | none => rw [seen_cons_none hv, seen_none hno, get_flushEntry_none heo hv]
      · rw [seen_cons_other hl]
        exact seen_congr (get_flushEntry_line heo (Ne.symm hl))
    · simp only [List.filter_cons, hp, Bool.not_false, if_true, Bool.false_eq_true, if_false]
      have ih' := ih hm her hn.2
      by_cases hl : e.line = b / 64
      · have hno : ∀ e' ∈ r, e'.line ≠ b / 64 := by
          intro e' h' heq
          exact hn.1 (List.mem_map.2 ⟨e', h', by rw [heq, hl]⟩)
        cases hv : e.bytes.get? (b % 64) with
        | some v => rw [seen_cons_some hl hv, seen_cons_some hl hv]
        | none => rw [seen_cons_none hv, seen_cons_none hv, ih']
      · rw [seen_cons_other hl, seen_cons_other hl, ih']

theorem Tile.ok_iff (x : Tile) : x.ok ↔ x.spad.wf = true ∧ (x.wcb.map fun e => e.line).Nodup ∧ ∀ e ∈ x.wcb, e.ok := Iff.rfl

/-- A flush keeps the canonical form and every byte that a load observes. -/
theorem Tile.flush_ok {x : Tile} (p : WcbEntry → Bool) (h : x.ok) : (x.flush p).ok := by
  obtain ⟨h1, h2, h3⟩ := h
  refine ⟨wf_flushAll _ h1, ?_, fun e he => h3 e (List.mem_filter.1 he).1⟩
  exact h2.sublist ((List.filter_sublist).map _)

theorem Tile.flush_byte {x : Tile} (p : WcbEntry → Bool) (h : x.ok) (b : Nat) : (x.flush p).byte b = x.byte b :=
  seen_flush p b h.1 h.2.2 h.2.1

theorem Tile.flushSpan_ok {x : Tile} (a n : Nat) (h : x.ok) : (x.flushSpan a n).ok := by
  unfold Tile.flushSpan
  split
  · exact h
  · exact Tile.flush_ok _ h

theorem Tile.flushSpan_byte {x : Tile} (a n : Nat) (h : x.ok) (b : Nat) : (x.flushSpan a n).byte b = x.byte b := by
  unfold Tile.flushSpan
  split
  · rfl
  · exact Tile.flush_byte _ h b

/-- After the lines of a span are flushed, the bank shows the bytes of the span. -/
theorem Tile.flushSpan_lines {x : Tile} (a n b : Nat) (hb : a ≤ b ∧ b < a + n) : ∀ e ∈ (x.flushSpan a n).wcb, e.line ≠ b / 64 := by
  intro e he hl
  unfold Tile.flushSpan at he
  rw [if_neg (by omega)] at he
  simp only [Tile.flush, List.mem_filter] at he
  have h2 := he.2
  simp only [Bool.not_eq_true', Bool.and_eq_false_iff, decide_eq_false_iff_not] at h2
  omega

theorem Tile.store_ok {x : Tile} (a : Nat) (bs : List Byte) (h : x.ok) : (x.store a bs).ok := by
  have hf := Tile.flushSpan_ok a bs.length h
  exact ⟨Mem.wf_writeBytes _ _ hf.1, hf.2.1, hf.2.2⟩

/-- A store changes its own bytes alone. -/
theorem Tile.store_byte {x : Tile} (a : Nat) (bs : List Byte) (h : x.ok) (b : Nat) :
    (x.store a bs).byte b = if a ≤ b ∧ b < a + bs.length then bs.getD (b - a) 0 else x.byte b := by
  have hf := Tile.flushSpan_ok a bs.length h
  have hs : (x.store a bs).byte b = seen ((x.flushSpan a bs.length).spad.writeBytes a bs) (x.flushSpan a bs.length).wcb b := rfl
  rw [hs]
  split
  · rename_i hb
    rw [seen_none (Tile.flushSpan_lines a _ b hb)]
    have := Mem.get_writeBytes_inside (m := (x.flushSpan a bs.length).spad) a (b - a) bs hf.1 (by omega)
    rwa [show a + (b - a) = b by omega] at this
  · rename_i hb
    rw [seen_congr (Mem.get_writeBytes_outside _ _ _ _ (by omega))]
    exact Tile.flushSpan_byte a _ h b

/-! ### Narrow stores -/

theorem Tbl.get?_setMany {α : Type} (t : Tbl α) (k j : Nat) (vs : List α) :
    (t.setMany k vs).get? j = if k ≤ j ∧ j < k + vs.length then vs[j - k]? else t.get? j := by
  induction vs generalizing t k with
  | nil =>
    simp only [Tbl.setMany, List.length_nil, Nat.add_zero]
    rw [if_neg (by omega)]
  | cons v r ih =>
    simp only [Tbl.setMany, ih, List.length_cons]
    by_cases h1 : k + 1 ≤ j ∧ j < k + 1 + r.length
    · rw [if_pos h1, if_pos (by omega), show j - k = (j - (k + 1)) + 1 by omega]
      simp
    · rw [if_neg h1]
      by_cases h2 : j = k
      · subst h2
        simp
      · rw [Tbl.get?_set_other _ _ h2, if_neg (by omega)]

theorem Tbl.wf_setMany {α : Type} {t : Tbl α} (k : Nat) (vs : List α) (h : t.wf = true) : (t.setMany k vs).wf = true := by
  induction vs generalizing t k with
  | nil => exact h
  | cons v r ih => exact ih (k + 1) (Tbl.wf_set k v h)

theorem mem_cellsSet {α : Type} {l : List (Nat × α)} {k : Nat} {v : α} {c : Nat × α} (h : c ∈ cellsSet l k v) :
    c = (k, v) ∨ c ∈ l := by
  induction l with
  | nil => simpa [cellsSet] using h
  | cons x r ih =>
    obtain ⟨k', v'⟩ := x
    simp only [cellsSet] at h
    split at h
    · simpa using h
    · split at h
      · rcases List.mem_cons.1 h with h | h
        · exact .inl h
        · exact .inr (List.mem_cons_of_mem _ h)
      · rcases List.mem_cons.1 h with h | h
        · exact .inr (by simp [h])
        · rcases ih h with h | h
          · exact .inl h
          · exact .inr (List.mem_cons_of_mem _ h)

theorem keys_setMany {t : Tbl Byte} (k : Nat) (vs : List Byte) (h : ∀ c ∈ t.cells, c.1 < 64) (hk : k + vs.length ≤ 64) :
    ∀ c ∈ (t.setMany k vs).cells, c.1 < 64 := by
  induction vs generalizing t k with
  | nil => exact h
  | cons v r ih =>
    simp only [List.length_cons] at hk
    refine ih (k + 1) ?_ (by omega)
    intro c hc
    rcases mem_cellsSet hc with rfl | hc
    · show k < 64
      omega
    · exact h c hc

/-- The entry after a narrow store of its line. -/
def mergeEntry (bg : Bool) (a : Nat) (bs : List Byte) (e : WcbEntry) : WcbEntry :=
  { e with bytes := e.bytes.setMany (a % 64) bs, fg := e.fg || !bg, bg := e.bg || bg }

theorem mergeEntry_ok {bg : Bool} {a : Nat} {bs : List Byte} {e : WcbEntry} (h : e.ok) (hk : a % 64 + bs.length ≤ 64) :
    (mergeEntry bg a bs e).ok := ⟨Tbl.wf_setMany _ _ h.1, keys_setMany _ _ h.2 hk⟩

/-- The byte of an entry's own line after a narrow store of it. -/
theorem seen_merge (m : Mem) (bg : Bool) (a b : Nat) (bs : List Byte) (e : WcbEntry) (es : List WcbEntry)
    (hl : e.line = a / 64) (hk : a % 64 + bs.length ≤ 64) :
    seen m (mergeEntry bg a bs e :: es) b = if a ≤ b ∧ b < a + bs.length then bs.getD (b - a) 0 else seen m (e :: es) b := by
  have hle : (mergeEntry bg a bs e).line = e.line := rfl
  have hg : (mergeEntry bg a bs e).bytes.get? (b % 64) =
      if a % 64 ≤ b % 64 ∧ b % 64 < a % 64 + bs.length then bs[b % 64 - a % 64]? else e.bytes.get? (b % 64) :=
    Tbl.get?_setMany ..
  by_cases hb : b / 64 = a / 64
  · by_cases hin : a ≤ b ∧ b < a + bs.length
    · rw [if_pos hin]
      rw [if_pos (by omega), show b % 64 - a % 64 = b - a by omega, List.getElem?_eq_getElem (by omega)] at hg
      rw [seen_cons_some (by rw [hle, hl, hb]) hg]
      simp [List.getElem?_eq_getElem (show b - a < bs.length by omega)]
    · rw [if_neg hin]
      rw [if_neg (by omega)] at hg
      cases hv : e.bytes.get? (b % 64) with
      | some v => rw [seen_cons_some (by rw [hle, hl, hb]) (by rw [hg, hv]), seen_cons_some (by rw [hl, hb]) hv]
      | none => rw [seen_cons_none (by rw [hg, hv]), seen_cons_none hv]
  · rw [if_neg (by omega), seen_cons_other (by rw [hle, hl]; exact Ne.symm hb), seen_cons_other (by rw [hl]; exact Ne.symm hb)]

/-- A narrow store whose line is buffered. -/
theorem seen_map_merge (m : Mem) (bg : Bool) (a b : Nat) (bs : List Byte) (es : List WcbEntry) (hn : (es.map fun e => e.line).Nodup)
    (hex : ∃ e ∈ es, e.line = a / 64) (hk : a % 64 + bs.length ≤ 64) :
    seen m (es.map fun e => if e.line = a / 64 then mergeEntry bg a bs e else e) b =
      if a ≤ b ∧ b < a + bs.length then bs.getD (b - a) 0 else seen m es b := by
  induction es with
  | nil => simp at hex
  | cons e r ih =>
    simp only [List.map_cons, List.nodup_cons] at hn
    by_cases hl : e.line = a / 64
    · have hno : ∀ e' ∈ r, ¬ e'.line = a / 64 := by
        intro e' h' heq
        exact hn.1 (List.mem_map.2 ⟨e', h', by rw [heq, hl]⟩)
      have hr : r.map (fun e => if e.line = a / 64 then mergeEntry bg a bs e else e) = r := by
        conv => rhs; rw [← List.map_id r]
        apply List.map_congr_left
        intro e' h'
        simp [hno e' h']
      simp only [List.map_cons, hl, if_true, hr]
      exact seen_merge m bg a b bs e r hl hk
    · have hex' : ∃ e ∈ r, e.line = a / 64 := by
        obtain ⟨e', h', he'⟩ := hex
        rcases List.mem_cons.1 h' with rfl | h'
        · exact absurd he' hl
        · exact ⟨e', h', he'⟩
      have ih' := ih hn.2 hex'
      simp only [List.map_cons, hl, if_false]
      by_cases hb : e.line = b / 64
      · have hbn : ¬ (a ≤ b ∧ b < a + bs.length) := by
          intro hin
          apply hl
          omega
        cases hv : e.bytes.get? (b % 64) with
        | some v => rw [seen_cons_some hb hv, seen_cons_some hb hv, if_neg hbn]
        | none => rw [seen_cons_none hv, seen_cons_none hv, ih']
      · rw [seen_cons_other hb, seen_cons_other hb, ih']

/-- An entry added behind entries of other lines shows its bytes. -/
theorem seen_append (m : Mem) (es : List WcbEntry) (f : WcbEntry) (b : Nat) (h : f.line = b / 64 → ∀ e ∈ es, e.line ≠ b / 64) :
    seen m (es ++ [f]) b = if f.line = b / 64 ∧ (f.bytes.get? (b % 64)).isSome then f.bytes.getD (b % 64) 0 else seen m es b := by
  induction es with
  | nil =>
    by_cases hl : f.line = b / 64
    · cases hv : f.bytes.get? (b % 64) with
      | some v => simp [seen, hl, hv]
      | none => simp [seen, hv]
    · simp [seen, hl]
  | cons e r ih =>
    have ih' := ih fun hl e' h' => h hl e' (List.mem_cons_of_mem _ h')
    simp only [List.cons_append]
    by_cases hl : e.line = b / 64
    · have hf : ¬ f.line = b / 64 := fun hf => h hf e (List.mem_cons_self ..) hl
      cases hv : e.bytes.get? (b % 64) with
      | some v => rw [seen_cons_some hl hv, seen_cons_some hl hv]; simp [hf]
      | none => rw [seen_cons_none hv, seen_cons_none hv, ih']
    · rw [seen_cons_other hl, seen_cons_other hl, ih']

/-- A narrow store whose line no entry of the buffer has: a fresh entry. -/
theorem seen_fresh (m : Mem) (bg : Bool) (a b : Nat) (bs : List Byte) (es : List WcbEntry) (hno : ∀ e ∈ es, e.line ≠ a / 64)
    (hk : a % 64 + bs.length ≤ 64) :
    seen m (es ++ [mergeEntry bg a bs { line := a / 64, bytes := ⟨[]⟩, fg := false, bg := false }]) b =
      if a ≤ b ∧ b < a + bs.length then bs.getD (b - a) 0 else seen m es b := by
  rw [seen_append]
  · have hg : (mergeEntry bg a bs { line := a / 64, bytes := ⟨[]⟩, fg := false, bg := false }).bytes.get? (b % 64) =
        if a % 64 ≤ b % 64 ∧ b % 64 < a % 64 + bs.length then bs[b % 64 - a % 64]? else none := Tbl.get?_setMany ..
    have hl : (mergeEntry bg a bs { line := a / 64, bytes := ⟨[]⟩, fg := false, bg := false }).line = a / 64 := rfl
    rw [hl, hg]
    simp only [Tbl.getD]
    rw [hg]
    by_cases hin : a ≤ b ∧ b < a + bs.length
    · rw [if_pos (show a % 64 ≤ b % 64 ∧ b % 64 < a % 64 + bs.length by omega), if_pos hin,
        show b % 64 - a % 64 = b - a by omega, List.getElem?_eq_getElem (by omega)]
      simp [show a / 64 = b / 64 by omega, List.getElem?_eq_getElem (show b - a < bs.length by omega)]
    · rw [if_neg hin, if_neg]
      rintro ⟨h1, h2⟩
      rw [if_neg (by omega)] at h2
      simp at h2
  · intro hl e he
    rw [← hl]
    exact hno e he

/-- A narrow store within one line changes its own bytes alone, and keeps the canonical form. -/
theorem Tile.narrowStore_spec {x : Tile} (bg : Bool) (a : Nat) (bs : List Byte) (h : x.ok) (hk : a % 64 + bs.length ≤ 64) :
    (x.narrowStore bg a bs).ok ∧
    ∀ b, (x.narrowStore bg a bs).byte b = if a ≤ b ∧ b < a + bs.length then bs.getD (b - a) 0 else x.byte b := by
  obtain ⟨h1, h2, h3⟩ := h
  have fin : ∀ y : Tile, y.ok → (∀ b, y.byte b = if a ≤ b ∧ b < a + bs.length then bs.getD (b - a) 0 else x.byte b) →
      (y.flush fun e => 64 ≤ e.bytes.cells.length).ok ∧
      ∀ b, (y.flush fun e => 64 ≤ e.bytes.cells.length).byte b =
        if a ≤ b ∧ b < a + bs.length then bs.getD (b - a) 0 else x.byte b :=
    fun y hy hb => ⟨Tile.flush_ok _ hy, fun b => by rw [Tile.flush_byte _ hy, hb]⟩
  have fresh : ∀ y : Tile, y.ok → (∀ e ∈ y.wcb, e.line ≠ a / 64) → (∀ b, y.byte b = x.byte b) →
      (({ y with wcb := y.wcb ++ [mergeEntry bg a bs { line := a / 64, bytes := ⟨[]⟩, fg := false, bg := false }] } : Tile)).ok ∧
      ∀ b, (({ y with wcb := y.wcb ++ [mergeEntry bg a bs { line := a / 64, bytes := ⟨[]⟩, fg := false, bg := false }] } : Tile)).byte b =
        if a ≤ b ∧ b < a + bs.length then bs.getD (b - a) 0 else x.byte b := by
    intro y hy hno hb
    refine ⟨⟨hy.1, ?_, ?_⟩, fun b => ?_⟩
    · simp only [List.map_append, List.map_cons, List.map_nil]
      rw [List.nodup_append]
      refine ⟨hy.2.1, by simp, ?_⟩
      intro l hl l' hl' heq
      obtain ⟨e, he, hel⟩ := List.mem_map.1 hl
      simp only [List.mem_cons, List.not_mem_nil, or_false] at hl'
      exact hno e he (by rw [hel, heq, hl']; rfl)
    · intro e he
      rcases List.mem_append.1 he with he | he
      · exact hy.2.2 e he
      · simp only [List.mem_cons, List.not_mem_nil, or_false] at he
        subst he
        exact mergeEntry_ok ⟨rfl, by simp⟩ hk
    · rw [← hb b]
      exact seen_fresh y.spad bg a b bs y.wcb hno hk
  unfold Tile.narrowStore
  simp only
  by_cases hex : (x.wcb.any fun e => e.line == a / 64) = true
  · rw [if_pos hex]
    have hex' : ∃ e ∈ x.wcb, e.line = a / 64 := by simpa [List.any_eq_true] using hex
    refine fin _ ⟨h1, ?_, ?_⟩ fun b => ?_
    · simp only [List.map_map]
      have : (x.wcb.map ((fun e => e.line) ∘ fun e => if e.line = a / 64 then mergeEntry bg a bs e else e)) =
          x.wcb.map fun e => e.line := by
        apply List.map_congr_left
        intro e _
        simp only [Function.comp]
        split <;> rfl
      exact this ▸ h2
    · intro e he
      obtain ⟨e', he', rfl⟩ := List.mem_map.1 he
      split
      · exact mergeEntry_ok (h3 e' he') hk
      · exact h3 e' he'
    · exact seen_map_merge x.spad bg a b bs x.wcb h2 hex' hk
  · rw [if_neg hex]
    have hno : ∀ e ∈ x.wcb, e.line ≠ a / 64 := by
      intro e he heq
      apply hex
      simp only [List.any_eq_true]
      exact ⟨e, he, by simp [heq]⟩
    by_cases hlen : x.wcb.length < 4
    · simp only [if_pos hlen]
      have := fresh x ⟨h1, h2, h3⟩ hno fun _ => rfl
      exact fin _ this.1 this.2
    · simp only [if_neg hlen]
      rcases hw : x.wcb with _ | ⟨e, r⟩
      · simp [hw] at hlen
      · simp only
        rw [hw] at h2 h3 hno
        simp only [List.map_cons, List.nodup_cons] at h2
        have hy : ({ x with spad := flushEntry x.spad e, wcb := r } : Tile).ok :=
          ⟨wf_flushEntry e h1, h2.2, fun e' h' => h3 e' (List.mem_cons_of_mem _ h')⟩
        have hyb : ∀ b, ({ x with spad := flushEntry x.spad e, wcb := r } : Tile).byte b = x.byte b := by
          intro b
          have := seen_flush (m := x.spad) (es := e :: r) (fun e' => e'.line == e.line) b h1 h3
            (by simp only [List.map_cons, List.nodup_cons]; exact h2)
          have hf1 : (e :: r).filter (fun e' => e'.line == e.line) = [e] := by
            rw [List.filter_cons_of_pos (by simp), List.filter_eq_nil_iff.2]
            intro e' h' heq
            exact h2.1 (List.mem_map.2 ⟨e', h', by simpa using heq⟩)
          have hf2 : (e :: r).filter (fun e' => !(e'.line == e.line)) = r := by
            rw [List.filter_cons_of_neg (by simp), List.filter_eq_self]
            intro e' h'
            have : e'.line ≠ e.line := fun heq => h2.1 (List.mem_map.2 ⟨e', h', heq⟩)
            simp [this]
          rw [hf1, hf2] at this
          rw [Tile.byte_eq_seen, Tile.byte_eq_seen, hw]
          exact this
        have := fresh _ hy (fun e' h' => hno e' (List.mem_cons_of_mem _ h')) hyb
        exact fin _ this.1 this.2

end Sys2Proof.Machine
end

