-- ==== Sys2Proof/Laws/Bytes.lean ====
section
/-! SUPPORT. Bytes in little-endian order and back, and a frame as it is built and read (R398, R399). -/

namespace Sys2Proof.Machine

theorem pow_256 (n : Nat) : 256 ^ n = 2 ^ (8 * n) := by rw [Nat.pow_mul]

theorem ofBytesLE_lt (l : List Byte) : ofBytesLE l < 256 ^ l.length := by
  induction l with
  | nil => simp [ofBytesLE]
  | cons b r ih =>
    have := b.isLt
    simp only [ofBytesLE, List.length_cons, Nat.pow_succ]
    omega

/-- Dividing by 256^n drops the n lowest bytes. -/
theorem ofBytesLE_div (n : Nat) (l : List Byte) : ofBytesLE l / 256 ^ n = ofBytesLE (l.drop n) := by
  induction n generalizing l with
  | zero => simp
  | succ n ih =>
    cases l with
    | nil => simp [ofBytesLE]
    | cons b r =>
      have := b.isLt
      have h : ofBytesLE (b :: r) / 256 = ofBytesLE r := by simp only [ofBytesLE]; omega
      rw [Nat.pow_succ, Nat.mul_comm, ← Nat.div_div_eq_div_mul, h, ih, List.drop_succ_cons]

/-- The remainder modulo 256^n is the n lowest bytes. -/
theorem ofBytesLE_mod (n : Nat) (l : List Byte) : ofBytesLE l % 256 ^ n = ofBytesLE (l.take n) := by
  induction n generalizing l with
  | zero => simp [ofBytesLE, Nat.mod_one]
  | succ n ih =>
    cases l with
    | nil => simp [ofBytesLE]
    | cons b r =>
      have := b.isLt
      have h1 : ofBytesLE (b :: r) / 256 = ofBytesLE r := by simp only [ofBytesLE]; omega
      have h2 : ofBytesLE (b :: r) % 256 = b.toNat := by simp only [ofBytesLE]; omega
      rw [Nat.pow_succ, Nat.mul_comm, Nat.mod_mul, h1, h2, ih, List.take_succ_cons]
      rfl

theorem bytesLE_length (n v : Nat) : (bytesLE n v).length = n := by simp [bytesLE]

theorem bytesLE_ofBytesLE (n : Nat) (l : List Byte) (h : n ≤ l.length) : bytesLE n (ofBytesLE l) = l.take n := by
  apply List.ext_getElem
  · simp [bytesLE_length, h]
  · intro i h1 h2
    have hi : i < l.length := by simp [bytesLE_length] at h1; omega
    simp only [bytesLE, List.getElem_map, List.getElem_range, ofBytesLE_div, List.getElem_take]
    rw [List.drop_eq_getElem_cons hi]
    apply BitVec.eq_of_toNat_eq
    have := (l[i]).isLt
    simp only [ofBytesLE, BitVec.toNat_ofNat]
    omega

theorem ofBytesLE_bytesLE (n v : Nat) : ofBytesLE (bytesLE n v) = v % 256 ^ n := by
  induction n generalizing v with
  | zero => simp [bytesLE, ofBytesLE, Nat.mod_one]
  | succ n ih =>
    have h : bytesLE (n + 1) v = BitVec.ofNat 8 v :: bytesLE n (v / 256) := by
      simp only [bytesLE, List.range_succ_eq_map, List.map_cons, List.map_map, Nat.pow_zero, Nat.div_one]
      congr 1
      apply List.map_congr_left
      intro i _
      simp [Nat.pow_succ, Nat.mul_comm, Nat.div_div_eq_div_mul]
    rw [h, Nat.pow_succ, Nat.mul_comm, Nat.mod_mul]
    simp only [ofBytesLE, ih, BitVec.toNat_ofNat]

/-- A frame that is built and read gives its fields back, cut to their widths, with its CRC right. -/
theorem parse_build (f : Frame) (hp : f.payload.length ≤ 240) :
    let h : DWord := packFields 64 [(0, f.type), (4, f.vc), (6, f.units), (10, f.start), (25, f.cvc), (27, f.ccount), (43, b2n f.rp)]
    parseFrame (buildFrame f) =
      { type := fld h 0 4, vc := fld h 4 2, units := fld h 6 4, start := fld h 10 15, cvc := fld h 25 2, ccount := fld h 27 16
        rp := bit h 43, payload := f.payload ++ List.replicate (240 - f.payload.length) 0, seq := f.seq % 4096
        ack := (f.seq + 4096 * f.ack) / 4096 % 4096, crcOk := true } := by
  intro h
  let pay := f.payload ++ List.replicate (240 - f.payload.length) 0
  let head := bytesLE 8 h.toNat
  let tail := bytesLE 4 (f.seq + 4096 * f.ack)
  let crc := crc32c (head ++ pay ++ tail)
  let all := head ++ pay ++ tail ++ bytesLE 4 crc.toNat
  have lh : head.length = 8 := bytesLE_length _ _
  have lp : pay.length = 240 := by simp [pay]; omega
  have lt : tail.length = 4 := bytesLE_length _ _
  have la : all.length = 256 := by simp [all, lh, lp, lt, bytesLE_length]
  have raw : (buildFrame f).toNat = ofBytesLE all := by
    show (BitVec.ofNat 2048 (ofBytesLE all)).toNat = ofBytesLE all
    rw [BitVec.toNat_ofNat]
    apply Nat.mod_eq_of_lt
    have := ofBytesLE_lt all
    rw [la] at this
    exact Nat.lt_of_lt_of_eq this (pow_256 256)
  have head_eq : (buildFrame f).setWidth 64 = h := by
    apply BitVec.eq_of_toNat_eq
    rw [BitVec.toNat_setWidth, raw, show (2 : Nat) ^ 64 = 256 ^ 8 by decide, ofBytesLE_mod]
    rw [show all.take 8 = head by simp [all, List.append_assoc, ← lh]]
    rw [ofBytesLE_bytesLE]
    exact Nat.mod_eq_of_lt (Nat.lt_of_lt_of_eq h.isLt (by decide))
  have bytes : bytesLE 252 (buildFrame f).toNat = head ++ pay ++ tail := by
    rw [raw, bytesLE_ofBytesLE _ _ (by omega)]
    simp only [all]
    rw [List.take_append_of_le_length (by simp [lh, lp, lt])]
    rw [List.take_of_length_le (by simp [lh, lp, lt])]
  have drop248 : all.drop 248 = tail ++ bytesLE 4 crc.toNat := by
    have : (head ++ pay).length = 248 := by simp [lh, lp]
    simp only [all, List.append_assoc] at *
    rw [← List.append_assoc, ← this, List.drop_left]
  have trail : ((buildFrame f) >>> 1984).setWidth 64 = BitVec.ofNat 64 ((f.seq + 4096 * f.ack) % 2 ^ 32 + 2 ^ 32 * crc.toNat) := by
    apply BitVec.eq_of_toNat_eq
    rw [BitVec.toNat_setWidth, BitVec.toNat_ushiftRight, raw, Nat.shiftRight_eq_div_pow,
      show (2 : Nat) ^ 1984 = 256 ^ 248 from (pow_256 248).symm, ofBytesLE_div, drop248, BitVec.toNat_ofNat]
    have h1 : ofBytesLE (tail ++ bytesLE 4 crc.toNat) % 256 ^ 4 = (f.seq + 4096 * f.ack) % 256 ^ 4 := by
      rw [ofBytesLE_mod, show List.take 4 (tail ++ bytesLE 4 crc.toNat) = tail by rw [← lt, List.take_left], ofBytesLE_bytesLE]
    have h2 : ofBytesLE (tail ++ bytesLE 4 crc.toNat) / 256 ^ 4 = crc.toNat := by
      rw [ofBytesLE_div, show List.drop 4 (tail ++ bytesLE 4 crc.toNat) = bytesLE 4 crc.toNat by rw [← lt, List.drop_left], ofBytesLE_bytesLE]
      exact Nat.mod_eq_of_lt (Nat.lt_of_lt_of_eq crc.isLt (by decide))
    have := crc.isLt
    simp only [Nat.reducePow] at h1 h2 this ⊢
    omega
  have seq : fld (BitVec.ofNat 64 ((f.seq + 4096 * f.ack) % 2 ^ 32 + 2 ^ 32 * crc.toNat)) 0 12 = f.seq % 4096 := by
    have := crc.isLt
    simp only [fld, BitVec.toNat_ofNat, Nat.shiftRight_zero]
    simp only [Nat.reducePow] at this ⊢
    omega
  have ack : fld (BitVec.ofNat 64 ((f.seq + 4096 * f.ack) % 2 ^ 32 + 2 ^ 32 * crc.toNat)) 12 12 = (f.seq + 4096 * f.ack) / 4096 % 4096 := by
    have := crc.isLt
    simp only [fld, BitVec.toNat_ofNat, Nat.shiftRight_eq_div_pow]
    simp only [Nat.reducePow] at this ⊢
    omega
  have hi : hiWord (BitVec.ofNat 64 ((f.seq + 4096 * f.ack) % 2 ^ 32 + 2 ^ 32 * crc.toNat)) = crc := by
    apply BitVec.eq_of_toNat_eq
    have := crc.isLt
    simp only [hiWord, BitVec.toNat_setWidth, BitVec.toNat_ushiftRight, BitVec.toNat_ofNat, Nat.shiftRight_eq_div_pow]
    simp only [Nat.reducePow] at this ⊢
    omega
  have body : ((head ++ pay ++ tail).drop 8).take 240 = pay := by
    rw [List.append_assoc, ← lh, List.drop_left, ← lp, List.take_left]
  simp only [parseFrame, head_eq, trail, bytes, seq, ack, hi, body]
  simp [crc, pay]

end Sys2Proof.Machine
end

