-- ==== Sys2Proof/Laws/PerInstr.lean ====
section
/-! SUPPORT. Statements made for every command: exactly the slots of a bundle have a meaning for the sequencer. -/

namespace Sys2Proof.Laws.Slot

/-- A command has a meaning as a slot of a bundle exactly if its operands name a place to execute (R55, R90). -/
def Statement (i : Instr) : Prop := (Machine.semOf i).isSome = i.at?.isSome

theorem nop (at_ : At) (slot : Fin 4) (rsv : BitVec 26) : Statement (.nop at_ slot rsv) := rfl
theorem alu (at_ : At) (sD sA sB : BitVec 6) (fn : BitVec 8) : Statement (.alu at_ sD sA sB fn) := rfl
theorem mul (at_ : At) (sD sA sB : BitVec 6) (fn : BitVec 8) : Statement (.mul at_ sD sA sB fn) := rfl
theorem addi (at_ : At) (sD sA : BitVec 6) (imm : BitVec 14) : Statement (.addi at_ sD sA imm) := rfl
theorem andi (at_ : At) (sD sA : BitVec 6) (imm : BitVec 14) : Statement (.andi at_ sD sA imm) := rfl
theorem ori (at_ : At) (sD sA : BitVec 6) (imm : BitVec 14) : Statement (.ori at_ sD sA imm) := rfl
theorem xori (at_ : At) (sD sA : BitVec 6) (imm : BitVec 14) : Statement (.xori at_ sD sA imm) := rfl
theorem shifti (at_ : At) (sD sA : BitVec 6) (kind : BitVec 2) (amount : BitVec 5) (rsv : BitVec 7) : Statement (.shifti at_ sD sA kind amount rsv) := rfl
theorem slti (at_ : At) (sD sA : BitVec 6) (imm : BitVec 14) : Statement (.slti at_ sD sA imm) := rfl
theorem lui (at_ : At) (sD : BitVec 6) (imm : BitVec 20) : Statement (.lui at_ sD imm) := rfl
theorem br (at_ : At) (sA sB : BitVec 6) (cond : BitVec 4) (target : BitVec 10) : Statement (.br at_ sA sB cond target) := rfl
theorem brp (at_ : At) (p : BitVec 3) (all : Bool) (target : BitVec 10) (rsv : BitVec 12) : Statement (.brp at_ p all target rsv) := rfl
theorem call (at_ : At) (sD : BitVec 6) (target rsv : BitVec 10) : Statement (.call at_ sD target rsv) := rfl
theorem jr (at_ : At) (sA : BitVec 6) (rsv : BitVec 20) : Statement (.jr at_ sA rsv) := rfl
theorem halt (at_ : At) (rsv : BitVec 26) : Statement (.halt at_ rsv) := rfl
theorem trap (at_ : At) (imm : BitVec 16) (rsv : BitVec 10) : Statement (.trap at_ imm rsv) := rfl
theorem aaddi (at_ : At) (aD aA : BitVec 4) (imm : BitVec 18) : Statement (.aaddi at_ aD aA imm) := rfl
theorem a2addi (at_ : At) (aD aA : BitVec 4) (dr dc : BitVec 8) (rsv : BitVec 2) : Statement (.a2addi at_ aD aA dr dc rsv) := rfl
theorem amov (at_ : At) (aD : BitVec 4) (sA : BitVec 6) (rsv : BitVec 16) : Statement (.amov at_ aD sA rsv) := rfl
theorem aread (at_ : At) (sD : BitVec 6) (aA : BitVec 4) (rsv : BitVec 16) : Statement (.aread at_ sD aA rsv) := rfl
theorem a2set (at_ : At) (aD : BitVec 4) (sA sB : BitVec 6) (rsv : BitVec 10) : Statement (.a2set at_ aD sA sB rsv) := rfl
theorem aadd (at_ : At) (aD aA : BitVec 4) (sB : BitVec 6) (rsv : BitVec 12) : Statement (.aadd at_ aD aA sB rsv) := rfl
theorem a2add (at_ : At) (aD aA : BitVec 4) (sB : BitVec 6) (rsv : BitVec 12) : Statement (.a2add at_ aD aA sB rsv) := rfl
theorem csw (at_ : At) (rsv : BitVec 26) : Statement (.csw at_ rsv) := rfl
theorem ltrd (at_ : At) (sD sL : BitVec 6) (rsv : BitVec 14) : Statement (.ltrd at_ sD sL rsv) := rfl
theorem ltwr (at_ : At) (sL sV : BitVec 6) (rsv : BitVec 14) : Statement (.ltwr at_ sL sV rsv) := rfl
theorem ldw (at_ : At) (sD : BitVec 6) (aB : BitVec 4) (u : Bool) (imm : BitVec 15) : Statement (.ldw at_ sD aB u imm) := rfl
theorem ldh (at_ : At) (sD : BitVec 6) (aB : BitVec 4) (u : Bool) (imm : BitVec 15) : Statement (.ldh at_ sD aB u imm) := rfl
theorem ldhu (at_ : At) (sD : BitVec 6) (aB : BitVec 4) (u : Bool) (imm : BitVec 15) : Statement (.ldhu at_ sD aB u imm) := rfl
theorem ldb (at_ : At) (sD : BitVec 6) (aB : BitVec 4) (u : Bool) (imm : BitVec 15) : Statement (.ldb at_ sD aB u imm) := rfl
theorem ldbu (at_ : At) (sD : BitVec 6) (aB : BitVec 4) (u : Bool) (imm : BitVec 15) : Statement (.ldbu at_ sD aB u imm) := rfl
theorem stw (at_ : At) (sA : BitVec 6) (aB : BitVec 4) (u : Bool) (imm : BitVec 15) : Statement (.stw at_ sA aB u imm) := rfl
theorem sth (at_ : At) (sA : BitVec 6) (aB : BitVec 4) (u : Bool) (imm : BitVec 15) : Statement (.sth at_ sA aB u imm) := rfl
theorem stb (at_ : At) (sA : BitVec 6) (aB : BitVec 4) (u : Bool) (imm : BitVec 15) : Statement (.stb at_ sA aB u imm) := rfl
theorem ldvW (at_ : At) (vD : BitVec 5) (aB : BitVec 4) (u : Bool) (p : BitVec 3) (imm : BitVec 12) (rsv : BitVec 1) : Statement (.ldvW at_ vD aB u p imm rsv) := rfl
theorem ldvHu (at_ : At) (vD : BitVec 5) (aB : BitVec 4) (u : Bool) (p : BitVec 3) (imm : BitVec 12) (rsv : BitVec 1) : Statement (.ldvHu at_ vD aB u p imm rsv) := rfl
theorem ldvB (at_ : At) (vD : BitVec 5) (aB : BitVec 4) (u : Bool) (p : BitVec 3) (imm : BitVec 12) (rsv : BitVec 1) : Statement (.ldvB at_ vD aB u p imm rsv) := rfl
theorem stvW (at_ : At) (vA : BitVec 5) (aB : BitVec 4) (u : Bool) (p : BitVec 3) (imm : BitVec 12) (rsv : BitVec 1) : Statement (.stvW at_ vA aB u p imm rsv) := rfl
theorem stvH (at_ : At) (vA : BitVec 5) (aB : BitVec 4) (u : Bool) (p : BitVec 3) (imm : BitVec 12) (rsv : BitVec 1) : Statement (.stvH at_ vA aB u p imm rsv) := rfl
theorem stvB (at_ : At) (vA : BitVec 5) (aB : BitVec 4) (u : Bool) (p : BitVec 3) (imm : BitVec 12) (rsv : BitVec 1) : Statement (.stvB at_ vA aB u p imm rsv) := rfl
theorem ldv2 (at_ : At) (vD : BitVec 5) (aB : BitVec 4) (sP : BitVec 6) (dir : Bool) (p : BitVec 3) (rsv : BitVec 7) : Statement (.ldv2 at_ vD aB sP dir p rsv) := rfl
theorem stv2 (at_ : At) (vA : BitVec 5) (aB : BitVec 4) (sP : BitVec 6) (dir : Bool) (p : BitVec 3) (rsv : BitVec 7) : Statement (.stv2 at_ vA aB sP dir p rsv) := rfl
theorem sendReq (at_ : At) (vA : BitVec 5) (sDst len : BitVec 6) (rsv : BitVec 9) : Statement (.sendReq at_ vA sDst len rsv) := rfl
theorem sendRpl (at_ : At) (vA : BitVec 5) (sDst len : BitVec 6) (rsv : BitVec 9) : Statement (.sendRpl at_ vA sDst len rsv) := rfl
theorem qrd (at_ : At) (dest : BitVec 6) (qn : BitVec 4) (kind : BitVec 1) (rsv : BitVec 15) : Statement (.qrd at_ dest qn kind rsv) := rfl
theorem qcnt (at_ : At) (sD : BitVec 6) (qn : BitVec 4) (kind : BitVec 1) (rsv : BitVec 15) : Statement (.qcnt at_ sD qn kind rsv) := rfl
theorem sadd (at_ : At) (sD sObj sVal : BitVec 6) (rsv : BitVec 8) : Statement (.sadd at_ sD sObj sVal rsv) := rfl
theorem sset (at_ : At) (sD sObj sVal : BitVec 6) (rsv : BitVec 8) : Statement (.sset at_ sD sObj sVal rsv) := rfl
theorem scas (at_ : At) (sD sObj sExp sNew : BitVec 6) (rsv : BitVec 2) : Statement (.scas at_ sD sObj sExp sNew rsv) := rfl
theorem watch (at_ : At) (sObj sTgt : BitVec 6) (cond : BitVec 1) (qn : BitVec 4) (rsv : BitVec 9) : Statement (.watch at_ sObj sTgt cond qn rsv) := rfl
theorem bara (at_ : At) (sBar : BitVec 6) (qn : BitVec 4) (rsv : BitVec 16) : Statement (.bara at_ sBar qn rsv) := rfl
theorem sstart (at_ : At) (sD sCtx : BitVec 6) (rsv : BitVec 14) : Statement (.sstart at_ sD sCtx rsv) := rfl
theorem sstop (at_ : At) (sD sCtx : BitVec 6) (rsv : BitVec 14) : Statement (.sstop at_ sD sCtx rsv) := rfl
theorem rstat (at_ : At) (sD : BitVec 6) (rp : BitVec 3) (rsv : BitVec 17) : Statement (.rstat at_ sD rp rsv) := rfl
theorem rldv (at_ : At) (vD : BitVec 5) (rp p : BitVec 3) (off : BitVec 12) (rsv : BitVec 3) : Statement (.rldv at_ vD rp p off rsv) := rfl
theorem rrel (at_ : At) (rp : BitVec 3) (rsv : BitVec 23) : Statement (.rrel at_ rp rsv) := rfl
theorem rstv (at_ : At) (vA : BitVec 5) (rp p : BitVec 3) (off : BitVec 12) (rsv : BitVec 3) : Statement (.rstv at_ vA rp p off rsv) := rfl
theorem rpub (at_ : At) (rp : BitVec 3) (sLen : BitVec 6) (rsv : BitVec 17) : Statement (.rpub at_ rp sLen rsv) := rfl
theorem put (at_ : At) (vA n : BitVec 5) (len lc : BitVec 6) (lcEn : Bool) (rsv : BitVec 3) : Statement (.put at_ vA n len lc lcEn rsv) := rfl
theorem putg (at_ : At) (vA n : BitVec 5) (len lc : BitVec 6) (lcEn : Bool) (rsv : BitVec 3) : Statement (.putg at_ vA n len lc lcEn rsv) := rfl
theorem waitc (at_ : At) (lc sTgt : BitVec 6) (cond : BitVec 1) (rsv : BitVec 13) : Statement (.waitc at_ lc sTgt cond rsv) := rfl
theorem lwatch (at_ : At) (lc sTgt : BitVec 6) (cond : BitVec 1) (qn : BitVec 4) (rsv : BitVec 9) : Statement (.lwatch at_ lc sTgt cond qn rsv) := rfl
theorem lcop (at_ : At) (sD lc sVal : BitVec 6) (fn : BitVec 2) (rsv : BitVec 6) : Statement (.lcop at_ sD lc sVal fn rsv) := rfl
theorem tpost (at_ : At) (n : BitVec 5) (sId : BitVec 6) (kind : BitVec 1) (rsv : BitVec 14) : Statement (.tpost at_ n sId kind rsv) := rfl
theorem vfp (at_ : At) (vD vA vB : BitVec 5) (p : BitVec 3) (fn : BitVec 8) : Statement (.vfp at_ vD vA vB p fn) := rfl
theorem vfma (at_ : At) (vD vA vB vC : BitVec 5) (p rsv : BitVec 3) : Statement (.vfma at_ vD vA vB vC p rsv) := rfl
theorem vint (at_ : At) (vD vA vB : BitVec 5) (p : BitVec 3) (fn : BitVec 8) : Statement (.vint at_ vD vA vB p fn) := rfl
theorem vsop (at_ : At) (vD vA : BitVec 5) (sB : BitVec 6) (p : BitVec 3) (fn : BitVec 7) : Statement (.vsop at_ vD vA sB p fn) := rfl
theorem vcmp (at_ : At) (pD : BitVec 3) (vA vB : BitVec 5) (p : BitVec 3) (cond : BitVec 4) (rsv : BitVec 6) : Statement (.vcmp at_ pD vA vB p cond rsv) := rfl
theorem vsel (at_ : At) (vD vA vB : BitVec 5) (p : BitVec 3) (rsv : BitVec 8) : Statement (.vsel at_ vD vA vB p rsv) := rfl
theorem vcvt (at_ : At) (vD vA : BitVec 5) (sB : BitVec 6) (p : BitVec 3) (fn : BitVec 7) : Statement (.vcvt at_ vD vA sB p fn) := rfl
theorem vred (at_ : At) (sD : BitVec 6) (vA : BitVec 5) (p : BitVec 3) (fn rsv : BitVec 6) : Statement (.vred at_ sD vA p fn rsv) := rfl
theorem vext (at_ : At) (sD : BitVec 6) (vA : BitVec 5) (sB : BitVec 6) (rsv : BitVec 9) : Statement (.vext at_ sD vA sB rsv) := rfl
theorem vins (at_ : At) (vD : BitVec 5) (sA sB : BitVec 6) (rsv : BitVec 9) : Statement (.vins at_ vD sA sB rsv) := rfl
theorem vmov (at_ : At) (vD vA : BitVec 5) (p : BitVec 3) (rsv : BitVec 13) : Statement (.vmov at_ vD vA p rsv) := rfl
theorem viota (at_ : At) (vD : BitVec 5) (sB : BitVec 6) (p : BitVec 3) (rsv : BitVec 12) : Statement (.viota at_ vD sB p rsv) := rfl
theorem plogic (at_ : At) (pD pA pB : BitVec 3) (fn : BitVec 4) (rsv : BitVec 13) : Statement (.plogic at_ pD pA pB fn rsv) := rfl
theorem pmov (at_ : At) (pD : BitVec 3) (sA sB : BitVec 6) (rsv : BitVec 11) : Statement (.pmov at_ pD sA sB rsv) := rfl
theorem vcvtt (at_ : At) (vD vA vO n : BitVec 5) (p fn : BitVec 3) : Statement (.vcvtt at_ vD vA vO n p fn) := rfl
theorem updx (at_ : At) (vD vA : BitVec 5) (sL : BitVec 6) (p : BitVec 3) (rsv : BitVec 7) : Statement (.updx at_ vD vA sL p rsv) := rfl
theorem vwop (at_ : At) (vD vA : BitVec 5) (sB : BitVec 6) (p : BitVec 3) (fn : BitVec 7) : Statement (.vwop at_ vD vA sB p fn) := rfl
theorem vcrc (at_ : At) (n vA : BitVec 5) (len : BitVec 6) (rsv : BitVec 10) : Statement (.vcrc at_ n vA len rsv) := rfl
theorem mzero (at_ : At) (g : BitVec 2) (type : BitVec 1) (rsv : BitVec 23) : Statement (.mzero at_ g type rsv) := rfl
theorem mmaBf16 (at_ : At) (g : BitVec 2) (aA aB : BitVec 4) (sK : BitVec 6) (rsv : BitVec 10) : Statement (.mmaBf16 at_ g aA aB sK rsv) := rfl
theorem mmaI8 (at_ : At) (g : BitVec 2) (aA aB : BitVec 4) (sK : BitVec 6) (rsv : BitVec 10) : Statement (.mmaI8 at_ g aA aB sK rsv) := rfl
theorem mst (at_ : At) (g : BitVec 2) (aD : BitVec 4) (sP sS : BitVec 6) (fmt : BitVec 3) (rsv : BitVec 5) : Statement (.mst at_ g aD sP sS fmt rsv) := rfl
theorem msat (at_ : At) (g : BitVec 2) (sD : BitVec 6) (rsv : BitVec 18) : Statement (.msat at_ g sD rsv) := rfl
theorem mopen (at_ : At) (g : BitVec 2) (type : BitVec 1) (panel : BitVec 2) (rsv : BitVec 21) : Statement (.mopen at_ g type panel rsv) := rfl
theorem mmaf (at_ : At) (g : BitVec 2) (aA aB : BitVec 4) (sK : BitVec 6) (fa fb : BitVec 4) (rsv : BitVec 2) : Statement (.mmaf at_ g aA aB sK fa fb rsv) := rfl
theorem mclose (at_ : At) (g : BitVec 2) (aC : BitVec 4) (sS : BitVec 6) (rsv : BitVec 14) : Statement (.mclose at_ g aC sS rsv) := rfl
theorem msatc (at_ : At) (g : BitVec 2) (sD : BitVec 6) (rsv : BitVec 18) : Statement (.msatc at_ g sD rsv) := rfl
theorem wcbIdleFlush (tile : Fin 1632) (entry : Fin 4) : Statement (.wcbIdleFlush tile entry) := rfl
theorem preemptSwitch (tile : Fin 1632) : Statement (.preemptSwitch tile) := rfl
theorem stallSwitch (tile : Fin 1632) : Statement (.stallSwitch tile) := rfl
theorem ctxRunWrite (tile : Fin 1632) (value : Word) : Statement (.ctxRunWrite tile value) := rfl
theorem cntClear (path : Path) (tile : Fin 1632) (value : Word) : Statement (.cntClear path tile value) := rfl
theorem counterLatchRead (path : Path) (access : ReadAt) : Statement (.counterLatchRead path access) := rfl
theorem poolWindowClose (core : Fin 8) (line : BitVec 18) : Statement (.poolWindowClose core line) := rfl
theorem putArrival (i : Nat) : Statement (.putArrival i) := rfl
theorem mcastWrite (tiles : List (Fin 1632)) (dest : McastTo) (data : List Byte) : Statement (.mcastWrite tiles dest data) := rfl
theorem segmentGrant (core : Fin 8) : Statement (.segmentGrant core) := rfl
theorem segmentComplete (i : Nat) (bad : Bool) : Statement (.segmentComplete i bad) := rfl
theorem stageComplete (core : Fin 8) (ctx : Fin 1024) : Statement (.stageComplete core ctx) := rfl
theorem streamUnderrun (tile : Fin 1632) (rp : Fin 8) (output : Bool) : Statement (.streamUnderrun tile rp output) := rfl
theorem strRetClear (core : Fin 8) (value : Word) : Statement (.strRetClear core value) := rfl
theorem queueArrival (i : Nat) : Statement (.queueArrival i) := rfl
theorem queueSpill (tile : Fin 1632) (reply : Bool) : Statement (.queueSpill tile reply) := rfl
theorem spillReturn (tile : Fin 1632) (queue : Fin 16) : Statement (.spillReturn tile queue) := rfl
theorem coreQueueStore (i : Nat) : Statement (.coreQueueStore i) := rfl
theorem coreQueueForward (core : Fin 8) (queue : Fin 1024) : Statement (.coreQueueForward core queue) := rfl
theorem cqPop (core : Fin 8) (value : Word) : Statement (.cqPop core value) := rfl
theorem qinjCmd (core : Fin 8) (value : Word) : Statement (.qinjCmd core value) := rfl
theorem queueDeadlockSuspect (x y : Fin 1632) (replyX replyY : Bool) : Statement (.queueDeadlockSuspect x y replyX replyY) := rfl
theorem channelLineFlush (i : Nat) : Statement (.channelLineFlush i) := rfl
theorem syncOpApply (i : Nat) : Statement (.syncOpApply i) := rfl
theorem barrierArrive (i : Nat) : Statement (.barrierArrive i) := rfl
theorem barrierRelease (i : Nat) : Statement (.barrierRelease i) := rfl
theorem barrierTimeout (core : Fin 8) (bar : Fin 256) (gen : Bool) (level : Fin 5) (row : Fin 12) : Statement (.barrierTimeout core bar gen level row) := rfl
theorem arrive (src : PktSrc) : Statement (.arrive src) := rfl
theorem release (src : PktSrc) : Statement (.release src) := rfl
theorem barReset (core : Fin 8) (value : Word) : Statement (.barReset core value) := rfl
theorem watchClear (core : Fin 8) (value : Word) : Statement (.watchClear core value) := rfl
theorem hopAdd (core : Fin 8) : Statement (.hopAdd core) := rfl
theorem hopSet (core : Fin 8) : Statement (.hopSet core) := rfl
theorem forceSet (core : Fin 8) (mgmt : Bool) : Statement (.forceSet core mgmt) := rfl
theorem forceAdd (core : Fin 8) (mgmt : Bool) : Statement (.forceAdd core mgmt) := rfl
theorem forceRelease (core : Fin 8) (mgmt : Bool) (bar : Fin 256) (gen : Bool) : Statement (.forceRelease core mgmt bar gen) := rfl
theorem realignApply : Statement (.realignApply) := rfl
theorem tsyncReqSend : Statement (.tsyncReqSend) := rfl
theorem tsyncReq (port : Fin 12) : Statement (.tsyncReq port) := rfl
theorem tsyncRpl (port : Fin 12) : Statement (.tsyncRpl port) := rfl
theorem tsyncLost (seq : BitVec 16) : Statement (.tsyncLost seq) := rfl
theorem timebaseLost : Statement (.timebaseLost) := rfl
theorem holdoverExpire : Statement (.holdoverExpire) := rfl
theorem epochEdge : Statement (.epochEdge) := rfl
theorem discEnable (path : Path) (value : Word) : Statement (.discEnable path value) := rfl
theorem fcArm : Statement (.fcArm) := rfl
theorem fcDisarm : Statement (.fcDisarm) := rfl
theorem fcClr : Statement (.fcClr) := rfl
theorem superstepOrigin : Statement (.superstepOrigin) := rfl
theorem slotOpen : Statement (.slotOpen) := rfl
theorem slipDeclare : Statement (.slipDeclare) := rfl
theorem lullSample (low : Bool) : Statement (.lullSample low) := rfl
theorem slip (src : PktSrc) : Statement (.slip src) := rfl
theorem stepDeadline : Statement (.stepDeadline) := rfl
theorem dataFrame (port : Fin 12) (raw : BitVec 2048) (fec : FecNote) : Statement (.dataFrame port raw fec) := rfl
theorem nullFrame (port : Fin 12) (raw : BitVec 2048) (fec : FecNote) : Statement (.nullFrame port raw fec) := rfl
theorem nak (port : Fin 12) (raw : BitVec 2048) (fec : FecNote) : Statement (.nak port raw fec) := rfl
theorem exch (port : Fin 12) (raw : BitVec 2048) (fec : FecNote) : Statement (.exch port raw fec) := rfl
theorem frameSend (port : Fin 12) : Statement (.frameSend port) := rfl
theorem nakRepeat (port : Fin 12) : Statement (.nakRepeat port) := rfl
theorem ackTimeout (port : Fin 12) : Statement (.ackTimeout port) := rfl
theorem rxSilence (port : Fin 12) (held : Bool) (signal lock : Byte) : Statement (.rxSilence port held signal lock) := rfl
theorem rxHoldExpire (port : Fin 12) : Statement (.rxHoldExpire port) := rfl
theorem silenceDown (port : Fin 12) : Statement (.silenceDown port) := rfl
theorem trainingPatternRx (port : Fin 12) : Statement (.trainingPatternRx port) := rfl
theorem signalDetect (at_ : DetectAt) : Statement (.signalDetect at_) := rfl
theorem equalizeDone (port : Fin 12) : Statement (.equalizeDone port) := rfl
theorem alignDone (port : Fin 12) : Statement (.alignDone port) := rfl
theorem exchSend (port : Fin 12) : Statement (.exchSend port) := rfl
theorem trainTimeout (port : Fin 12) : Statement (.trainTimeout port) := rfl
theorem downExpire (port : Fin 12) : Statement (.downExpire port) := rfl
theorem trainEnWrite (port : Fin 12) (value : Word) : Statement (.trainEnWrite port value) := rfl
theorem retrain (port : Fin 12) : Statement (.retrain port) := rfl
theorem flush (port : Fin 12) : Statement (.flush port) := rfl
theorem rd (src : PktSrc) : Statement (.rd src) := rfl
theorem wr (src : PktSrc) : Statement (.wr src) := rfl
theorem wrl (src : PktSrc) : Statement (.wrl src) := rfl
theorem add (src : PktSrc) : Statement (.add src) := rfl
theorem rdr (src : PktSrc) : Statement (.rdr src) := rfl
theorem ack (src : PktSrc) : Statement (.ack src) := rfl
theorem err (src : PktSrc) : Statement (.err src) := rfl
theorem packetForward (port : Fin 12) (vc : Fin 4) : Statement (.packetForward port vc) := rfl
theorem fabEpochWrite (value : Word) : Statement (.fabEpochWrite value) := rfl
theorem probeStart : Statement (.probeStart) := rfl
theorem probe (src : PktSrc) : Statement (.probe src) := rfl
theorem probeAck (src : PktSrc) : Statement (.probeAck src) := rfl
theorem probeTimeout (entry : Fin 64) : Statement (.probeTimeout entry) := rfl
theorem rqRead : Statement (.rqRead) := rfl
theorem rqWrite : Statement (.rqWrite) := rfl
theorem rqAdd : Statement (.rqAdd) := rfl
theorem collDescWrite (path : Path) (core : Fin 8) (off : BitVec 12) (value : Word) : Statement (.collDescWrite path core off value) := rfl
theorem collStart (core : Fin 8) (desc : Fin 64) : Statement (.collStart core desc) := rfl
theorem maxe (src : PktSrc) : Statement (.maxe src) := rfl
theorem egath (src : PktSrc) : Statement (.egath src) := rfl
theorem wadd (src : PktSrc) : Statement (.wadd src) := rfl
theorem wgath (src : PktSrc) : Statement (.wgath src) := rfl
theorem vmax (src : PktSrc) : Statement (.vmax src) := rfl
theorem vsum (src : PktSrc) : Statement (.vsum src) := rfl
theorem vput (src : PktSrc) : Statement (.vput src) := rfl
theorem collComplete (core : Fin 8) (desc : Fin 64) : Statement (.collComplete core desc) := rfl
theorem fingerprintPost (i : Nat) : Statement (.fingerprintPost i) := rfl
theorem barometerFlush (i : Nat) : Statement (.barometerFlush i) := rfl
theorem commitBegin : Statement (.commitBegin) := rfl
theorem fgpDrainDone (longReduction : Bool) : Statement (.fgpDrainDone longReduction) := rfl
theorem keystoneAck (target : Fin 3) : Statement (.keystoneAck target) := rfl
theorem commitEffect : Statement (.commitEffect) := rfl
theorem keystoneTimeout (target : Fin 3) : Statement (.keystoneTimeout target) := rfl
theorem ksRetry (value : Word) : Statement (.ksRetry value) := rfl
theorem rerun (path : Path) (value : Word) : Statement (.rerun path value) := rfl
theorem snapshotDone : Statement (.snapshotDone) := rfl
theorem stepBundleDeliver : Statement (.stepBundleDeliver) := rfl
theorem dlvHeld : Statement (.dlvHeld) := rfl
theorem faultEvent (page : BitVec 13) (src : Fin 32) (detail : Nat) : Statement (.faultEvent page src detail) := rfl
theorem rail (page : BitVec 13) (rails : RailPair) : Statement (.rail page rails) := rfl
theorem dewpointWindowEnd (page : BitVec 13) (reg : Fin 4) : Statement (.dewpointWindowEnd page reg) := rfl
theorem fenceSequence : Statement (.fenceSequence) := rfl
theorem fenceComplete : Statement (.fenceComplete) := rfl
theorem fenceTimeout : Statement (.fenceTimeout) := rfl
theorem unfence : Statement (.unfence) := rfl
theorem fence : Statement (.fence) := rfl
theorem clrCnt : Statement (.clrCnt) := rfl
theorem ackReset (path : Path) : Statement (.ackReset path) := rfl
theorem healthWrite (off : BitVec 12) (value : Word) : Statement (.healthWrite off value) := rfl
theorem checkrun (fails memFails : List (Fin 1632)) (left : List (Fin 1632 × List Byte)) (top : List (Fin 8 × List Byte)) : Statement (.checkrun fails memFails left top) := rfl
theorem reportResend (seq : Byte) : Statement (.reportResend seq) := rfl
theorem reportResponse (seq : Byte) : Statement (.reportResponse seq) := rfl
theorem evrRecordWrite (readBack : Option (List Byte)) (eraseOk : Bool) : Statement (.evrRecordWrite readBack eraseOk) := rfl
theorem minuteTick : Statement (.minuteTick) := rfl
theorem counterAppend : Statement (.counterAppend) := rfl
theorem chal (mgmt : Bool) : Statement (.chal mgmt) := rfl
theorem clear (order : ClearOrder) : Statement (.clear order) := rfl
theorem challengeExpire : Statement (.challengeExpire) := rfl
theorem keySet (key : List Byte) (id : DWord) (resp : List Byte) : Statement (.keySet key id resp) := rfl
theorem evrReadMsg (circular : Bool) (first : BitVec 13) (more : Fin 16) : Statement (.evrReadMsg circular first more) := rfl
theorem evrWinSel (value : Word) : Statement (.evrWinSel value) := rfl
theorem gustPeriod (energy estimate gated : List Nat) (avgW : Nat) : Statement (.gustPeriod energy estimate gated avgW) := rfl
theorem grantSpent (consumer : Fin 16) (cycles : Nat) : Statement (.grantSpent consumer cycles) := rfl
theorem throttleExt : Statement (.throttleExt) := rfl
theorem sensorRead (readings : List (Fin 46 × BitVec 12)) : Statement (.sensorRead readings) := rfl
theorem sensorFail (sensor : Fin 46) : Statement (.sensorFail sensor) := rfl
theorem throttleRelease : Statement (.throttleRelease) := rfl
theorem calm : Statement (.calm) := rfl
theorem wake : Statement (.wake) := rfl
theorem calmEntered : Statement (.calmEntered) := rfl
theorem wakeDone : Statement (.wakeDone) := rfl
theorem clkCapWrite (value : Word) : Statement (.clkCapWrite value) := rfl
theorem hbmRefreshDue (port : Fin 8) : Statement (.hbmRefreshDue port) := rfl
theorem cmdTail (ring : Fin 64) (index : Word) : Statement (.cmdTail ring index) := rfl
theorem cplHead (ring : Fin 64) (index : Word) : Statement (.cplHead ring index) := rfl
theorem ringEnable (path : Path) (ring : Fin 64) (value : Word) : Statement (.ringEnable path ring value) := rfl
theorem cmdNop (ring : Fin 64) (opcode : Byte) (cmd : HostCmd) : Statement (.cmdNop ring opcode cmd) := rfl
theorem copyH2d (ring : Fin 64) (cmd : HostCmd) (data : List Byte) : Statement (.copyH2d ring cmd data) := rfl
theorem copyD2h (ring : Fin 64) (cmd : HostRead) : Statement (.copyD2h ring cmd) := rfl
theorem fill (ring : Fin 64) (cmd : HostCmd) : Statement (.fill ring cmd) := rfl
theorem crc (ring : Fin 64) (cmd : HostRead) : Statement (.crc ring cmd) := rfl
theorem sync (ring : Fin 64) (cmd : HostCmd) : Statement (.sync ring cmd) := rfl
theorem wait (ring : Fin 64) (cmd : HostCmd) : Statement (.wait ring cmd) := rfl
theorem waitComplete (ring : Fin 64) : Statement (.waitComplete ring) := rfl
theorem waitTimeout (ring : Fin 64) : Statement (.waitTimeout ring) := rfl
theorem read (ring : Fin 64) (cmd : HostRead) : Statement (.read ring cmd) := rfl
theorem time (ring : Fin 64) (cmd : HostCmd) : Statement (.time ring cmd) := rfl
theorem irqTimer (ring : Fin 64) : Statement (.irqTimer ring) := rfl
theorem resultAck (page : BitVec 12) (seq : Word) : Statement (.resultAck page seq) := rfl
theorem dlvEnable (value : Word) : Statement (.dlvEnable value) := rfl
theorem bar2Read (off : BitVec 36) (span : ReadSpan) : Statement (.bar2Read off span) := rfl
theorem bar2Write (off : BitVec 36) (data : List Byte) : Statement (.bar2Write off data) := rfl
theorem functionLevelReset : Statement (.functionLevelReset) := rfl
theorem powerUp (cool1 cool2 : BitVec 2) (bootSel : Bool) (levels : PinLevels) : Statement (.powerUp cool1 cool2 bootSel levels) := rfl
theorem powerDown : Statement (.powerDown) := rfl
theorem railLoss : Statement (.railLoss) := rfl
theorem perstAssert : Statement (.perstAssert) := rfl
theorem perstDeassert (link : BitVec 9) : Statement (.perstDeassert link) := rfl
theorem mcBoot (flash : BootFlash) : Statement (.mcBoot flash) := rfl
theorem fuse (ok : Bool) : Statement (.fuse ok) := rfl
theorem sramInit : Statement (.sramInit) := rfl
theorem hbmTrain (failed : BitVec 8) (lanes : List Byte) : Statement (.hbmTrain failed lanes) := rfl
theorem hbmZero : Statement (.hbmZero) := rfl
theorem tileFw (version : Word) (fails memFails : List (Fin 1632)) (left : List (Fin 1632 × List Byte)) (top : List (Fin 8 × List Byte)) : Statement (.tileFw version fails memFails left top) := rfl
theorem jtagTrst : Statement (.jtagTrst) := rfl
theorem blkCtrlEn (path : Path) (off : BitVec 26) (value : Word) : Statement (.blkCtrlEn path off value) := rfl
theorem softReset (path : Path) (off : BitVec 26) (value : Word) : Statement (.softReset path off value) := rfl
theorem registerWrite (path : Path) (off : BitVec 28) (size : Nat) (value : Word) : Statement (.registerWrite path off size value) := rfl
theorem reservedOpcode (at_ : At) (slot : Fin 4) (word : Word) : Statement (.reservedOpcode at_ slot word) := rfl
theorem timebaseReturn : Statement (.timebaseReturn) := rfl
theorem throttleNHigh : Statement (.throttleNHigh) := rfl
theorem configurationRequest (ms : BitVec 16) : Statement (.configurationRequest ms) := rfl
theorem firmwareUpdate (tileFirmware : Bool) (version : Word) (cleared : List (BitVec 13)) : Statement (.firmwareUpdate tileFirmware version cleared) := rfl
theorem smbusFallback : Statement (.smbusFallback) := rfl

end Sys2Proof.Laws.Slot
end

