-- ==== Sys2Proof/Laws/Slot.lean ====
section
/-! SUPPORT. What a slot that is alone in its bundle does when its context is ready: it issues, and the package is left
with the slot's effect, the new PC and one counted cycle. -/

namespace Sys2Proof.Machine

theorem filter_eq_nil_of {α : Type} (p : α → Bool) (l : List α) (h : ∀ x ∈ l, p x = false) : l.filter p = [] := by
  rw [List.filter_eq_nil_iff]
  intro a ha
  simp [h a ha]

/-- No breakpoint is enabled: none is hit. -/
theorem Dev.fetchHit_of_off {d : Dev} {t n : Nat} {bg : Bool} {pc : Nat} (h : bit (d.brkCtrl t n) 0 = false) :
    d.fetchHit t n bg pc = false := by
  simp [Dev.fetchHit, Dev.brkLive, h]

theorem Dev.dataHit_of_off {d : Dev} {t n : Nat} {bg : Bool} {a : Bool × Nat × Nat} (h : bit (d.brkCtrl t n) 0 = false) :
    d.dataHit t n bg a = false := by
  simp [Dev.dataHit, Dev.brkLive, h]

/-- One slot clashes with no other. -/
theorem conflictMask_one (x : SlotSem) : conflictMask [x] = 0 := by
  simp [conflictMask, List.mapIdx_cons]

/-- A slot that is legal shows no illegal slot. -/
theorem illegalInfo_one {x : SlotSem} (h : x.illegal = none) : illegalInfo [x] = none := by
  simp [illegalInfo, h]

theorem lowestTrap_nil : lowestTrap [] = none := by simp [lowestTrap]

/-- The way of a lone legal slot that meets no trap and does not stall. -/
theorem issueWay_one {v : View} {limit pc : Nat} {x : SlotSem} (hl : pc < limit) (hi : x.illegal = none) (ht : x.traps = [])
    (hs : ∀ n ∈ x.needs, v.d.lacks v.t v.bg n = false) (hp : v.c.pend = []) : issueWay v limit pc none [x] = .issue := by
  have hm : v.missing x = [] := by
    simp only [View.missing, hp, List.append_eq_nil_iff, List.map_eq_nil_iff, List.filter_eq_nil_iff]
    exact ⟨fun r _ => by simp, fun n hn => by simp [hs n hn]⟩
  unfold issueWay
  simp [Nat.not_le.2 hl, illegalInfo_one hi, conflictMask_one, ht, hm, hp, lowestTrap_nil]

/-- Nothing is drawn without needs. -/
@[simp] theorem Dev.drew_nil (d : Dev) (t : Nat) : d.drew t [] = d := rfl
@[simp] theorem Dev.drew_regs (d : Dev) (t : Nat) (ns : List Need) : (d.drew t ns).regs = d.regs := by
  unfold Dev.drew; split <;> rfl
@[simp] theorem Dev.drew_ctrs (d : Dev) (t : Nat) (ns : List Need) : (d.drew t ns).ctrs = d.ctrs := by
  unfold Dev.drew; split <;> rfl
@[simp] theorem Dev.drew_tiles (d : Dev) (t : Nat) (ns : List Need) : (d.drew t ns).tiles = d.tiles := by
  unfold Dev.drew; split <;> rfl
@[simp] theorem Dev.drew_tile (d : Dev) (t u : Nat) (ns : List Need) : (d.drew t ns).tile u = d.tile u := by
  simp [Dev.tile]

/-- The PC that a lone slot leaves. -/
def SlotSem.target (x : SlotSem) (pc : Nat) : Nat := match x.ctl with
  | .goto n => n
  | _ => pc + 1

/-- What a lone slot leaves when it issues: its effect, the new PC, one counted cycle. -/
def Dev.afterLone (d : Dev) (t : Nat) (bg : Bool) (x : SlotSem) : Dev :=
  ((x.eff (d.drew t x.needs)).modCtx t bg fun c =>
    { c with pc := x.target ((d.ctx t bg).pc), stall := 0, ringWait := 0, waits := [] }).countCycle t cntIssue

/-- What follows the issue of a slot that halts or yields (R95, R96, R156). -/
def Dev.afterCtl (d : Dev) (t : Nat) (bg : Bool) (c : Ctl) (dests : List Reg) : Dev :=
  match c with
  | .halt => d.halt t bg dests
  | .csw => if (d.ctx t bg).run && (d.ctx t (!bg)).run then d.switchTo t (!bg) else d
  | _ => d

/-- A lone slot of a ready context issues. -/
theorem Dev.issueBundle_one {d : Dev} {t : Nat} {bg : Bool} {x : SlotSem}
    (hpend : (d.ctx t bg).pend = []) (hpc : (d.ctx t bg).pc < fld (d.preg (.tile t) 0x98) 0 11)
    (hb : ∀ n < 4, bit (d.brkCtrl t n) 0 = false)
    (hi : x.illegal = none) (ht : x.traps = []) (hs : ∀ n ∈ x.needs, d.lacks t bg n = false) (hcl : x.clears = false) :
    d.issueBundle t bg [x] = (d.afterLone t bg x).afterCtl t bg x.ctl x.dests := by
  have hf : (List.range 4).filter (fun n => d.fetchHit t n bg (d.ctx t bg).pc) = [] :=
    filter_eq_nil_of _ _ fun n hn => Dev.fetchHit_of_off (hb n (List.mem_range.1 hn))
  have hd : (List.range 4).filter (fun n => ([x].flatMap fun x => x.access).any fun a => d.dataHit t n bg a) = [] :=
    filter_eq_nil_of _ _ fun n hn => by
      simp only [List.any_eq_false]
      intro a _
      simp [Dev.dataHit_of_off (hb n (List.mem_range.1 hn))]
  have hv : ({ d := d, t := t, bg := bg } : View).c = d.ctx t bg := rfl
  have hw := issueWay_one (v := { d := d, t := t, bg := bg }) hpc hi ht hs (by rw [hv]; exact hpend)
  unfold Dev.issueBundle
  simp only [hv, hf, List.find?_nil, hw, hd, if_true]
  rcases hc : x.ctl with _ | n | _ | _ <;>
    simp [Dev.afterLone, Dev.afterCtl, Dev.drawn, SlotSem.target, hc, hcl, Dev.ctx]

/-- A slot alone in the bundle of a tile that fetches is offered as a bundle of one. -/
theorem State.runSlot_lone {s : State} {t : Fin 1632} {bg : Bool} (h : s.ready t bg) {i : Instr} {f : View → SlotSem}
    (hf : semOf i.decoded = some f) :
    s.dev.runSlot (lone t) i = s.dev.issueBundle t bg [f { d := s.dev, t := t, bg := bg }] := by
  obtain ⟨hl, hsel, hsw, hh, hsl, hpend, hpc, hb⟩ := h
  simp only [Dev.runSlot, lone, hsl, if_true, Bool.false_eq_true, if_false, List.nil_append, Dev.offerBundle, hl, Bool.not_true, hsel, hsw, hh, ne_eq, not_true_eq_false,
    List.filterMap_cons, List.filterMap_nil, hf, Option.map_some]

/-- A lone slot of a ready context: the command's outcome. -/
theorem State.runSlot_ready {s : State} {t : Fin 1632} {bg : Bool} (h : s.ready t bg) {i : Instr} {f : View → SlotSem}
    (hf : semOf i.decoded = some f)
    (hi : (f { d := s.dev, t := t, bg := bg }).illegal = none) (ht : (f { d := s.dev, t := t, bg := bg }).traps = [])
    (hs : s.met t bg (f { d := s.dev, t := t, bg := bg }).needs) (hcl : (f { d := s.dev, t := t, bg := bg }).clears = false) :
    s.dev.runSlot (lone t) i = (s.dev.afterLone t bg (f { d := s.dev, t := t, bg := bg })).afterCtl t bg
      (f { d := s.dev, t := t, bg := bg }).ctl (f { d := s.dev, t := t, bg := bg }).dests := by
  rw [State.runSlot_lone h hf]
  obtain ⟨hl, hsel, hsw, hh, hsl, hpend, hpc, hb⟩ := h
  exact Dev.issueBundle_one hpend hpc hb hi ht hs hcl

/-- The counters that a counted cycle leaves depend on nothing but the registers and counters before. -/
theorem Dev.countCycle_of {d e : Dev} (t : Nat) (hr : e.regs = d.regs) (hc : e.ctrs = d.ctrs) :
    e.countCycle t cntIssue = { e with ctrs := d.issuedCounts t } := by
  have hk : e.counting t = d.counting t := by
    simp [Dev.counting, Dev.pageOn, Dev.preg_congr hr]
  unfold Dev.issuedCounts Dev.countCycle
  rw [hk]
  split
  · simp [Dev.bumpAlways, hc]
  · rw [← hc]

/-- `e` differs from the package `d` in no tile but `t`, which is `x`, and in nothing but what `w` says outside the tiles. -/
def Dev.becomes (d e : Dev) (t : Nat) (x : Tile) (w : Dev) : Prop :=
  e = { w with tiles := e.tiles } ∧ e.tile t = x ∧ ∀ u, u ≠ t → e.tile u = d.tile u

theorem Dev.becomes_self (d : Dev) (t : Nat) : d.becomes d t (d.tile t) d := ⟨rfl, rfl, fun _ _ => rfl⟩

theorem Dev.becomes_modTile {d : Dev} {w : Dev} (t : Nat) (g : Tile → Tile) (hw : w.tiles = d.tiles) :
    d.becomes (w.modTile t g) t (g (d.tile t)) w := by
  have ht : ∀ u, w.tile u = d.tile u := fun u => by simp [Dev.tile, hw]
  exact ⟨rfl, by simp [ht], fun u hu => by rw [Dev.tile_modTile_other _ _ hu, ht]⟩

theorem Dev.becomes_eq {d e w : Dev} {t : Nat} {x : Tile} (g : Tile → Tile) (he : e = w.modTile t g) (hw : w.tiles = d.tiles)
    (hx : x = g (d.tile t)) : d.becomes e t x w := by
  subst he hx
  exact Dev.becomes_modTile t g hw

theorem Dev.becomes_eq2 {d e w : Dev} {t : Nat} {x : Tile} (f g : Tile → Tile) (he : e = (w.modTile t f).modTile t g)
    (hw : w.tiles = d.tiles) (hx : x = g (f (d.tile t))) : d.becomes e t x w := by
  rw [Dev.modTile_modTile] at he
  exact Dev.becomes_eq _ he hw hx

/-- A further change of the same tile. -/
theorem Dev.becomes_then {d e w : Dev} {t : Nat} {x : Tile} (h : d.becomes e t x w) (g : Tile → Tile) :
    d.becomes (e.modTile t g) t (g x) w := by
  obtain ⟨h1, h2, h3⟩ := h
  refine ⟨?_, by simp [h2], fun u hu => by rw [Dev.tile_modTile_other _ _ hu, h3 u hu]⟩
  rw [h1]
  rfl

/-- A slot whose effect is a change of its own tile, and of what is in flight, leaves an issued bundle. -/
theorem Dev.afterLone_tile {s : State} {t : Nat} {bg : Bool} {x : SlotSem} {y : Tile} {e : Dev}
    (he : s.dev.becomes (x.eff (s.dev.drew t x.needs)) t y e) (her : e.regs = s.dev.regs) (hec : e.ctrs = s.dev.ctrs) :
    s.issued (s.on fun d => d.afterLone t bg x) t (y.goto bg (x.target ((s.dev.ctx t bg).pc))) e := by
  obtain ⟨h1, h2, h3⟩ := Dev.becomes_then he fun z => z.setCtx bg { (z.ctx bg) with pc := x.target ((s.dev.ctx t bg).pc), stall := 0, ringWait := 0, waits := [] }
  have hd : s.dev.afterLone t bg x = { ((x.eff (s.dev.drew t x.needs)).modCtx t bg fun c =>
      { c with pc := x.target ((s.dev.ctx t bg).pc), stall := 0, ringWait := 0, waits := [] }) with ctrs := s.dev.issuedCounts t } := by
    unfold Dev.afterLone
    apply Dev.countCycle_of t
    · rw [Dev.modCtx_regs, he.1]; exact her
    · rw [Dev.modCtx_ctrs, he.1]; exact hec
  refine ⟨rfl, ?_, ?_, ?_⟩
  · simp only [State.on_dev, hd]
    unfold Dev.modCtx
    rw [h1]
  · simp only [State.on_dev, hd]
    exact h2
  · intro u hu
    simp only [State.on_dev, hd]
    exact h3 u hu

/-- The view of a lone slot: the state before it. -/
def State.view (s : State) (t : Fin 1632) (bg : Bool) : View := { d := s.dev, t := t, bg := bg }

/-- A lone slot of a ready context whose effect changes its tile, and what is in flight. -/
theorem State.leaves_of {s : State} {t : Fin 1632} {bg : Bool} (h : s.ready t bg) {i : Instr} {f : View → SlotSem}
    (hx : exec i s = .next (s.on fun d => d.runSlot (lone t) i)) (hf : semOf i.decoded = some f) {y : Tile} {e : Dev} {pc : Nat}
    (hi : (f (s.view t bg)).illegal = none) (ht : (f (s.view t bg)).traps = [])
    (hs : s.met t bg (f (s.view t bg)).needs) (hcl : (f (s.view t bg)).clears = false)
    (hc : (f (s.view t bg)).ctl = .next ∧ pc = (s.dev.ctx t bg).pc + 1 ∨ (f (s.view t bg)).ctl = .goto pc)
    (he : s.dev.becomes ((f (s.view t bg)).eff (s.dev.drew t (f (s.view t bg)).needs)) t y e)
    (her : e.regs = s.dev.regs) (hec : e.ctrs = s.dev.ctrs) :
    s.leaves t i (y.goto bg pc) e := by
  refine ⟨_, hx, ?_⟩
  have hrun := State.runSlot_ready h hf hi ht hs hcl
  have := Dev.afterLone_tile (bg := bg) (x := f (s.view t bg)) he her hec
  have hpc : (f (s.view t bg)).target ((s.dev.ctx t bg).pc) = pc := by
    rcases hc with ⟨hc, hp⟩ | hc <;> simp [SlotSem.target, *]
  have hctl : (s.dev.afterLone t bg (f (s.view t bg))).afterCtl t bg (f (s.view t bg)).ctl (f (s.view t bg)).dests =
      s.dev.afterLone t bg (f (s.view t bg)) := by
    rcases hc with ⟨hc, _⟩ | hc <;> simp [Dev.afterCtl, hc]
  simp only [State.on, hrun]
  rw [hpc] at this
  have e2 : ({ d := s.dev, t := t, bg := bg } : View) = s.view t bg := rfl
  rw [e2, hctl]
  exact this

/-- A tile whose context is set to what it is. -/
@[simp] theorem Tile.setCtx_self (x : Tile) (bg : Bool) : x.setCtx bg (x.ctx bg) = x := by
  cases bg <;> rfl

/-- A lone slot without effect of its own. -/
theorem State.leaves_none {s : State} {t : Fin 1632} {bg : Bool} (h : s.ready t bg) {i : Instr} {f : View → SlotSem}
    (hx : exec i s = .next (s.on fun d => d.runSlot (lone t) i)) (hf : semOf i.decoded = some f) {pc : Nat}
    (hi : (f (s.view t bg)).illegal = none) (ht : (f (s.view t bg)).traps = [])
    (hs : (f (s.view t bg)).needs = []) (hcl : (f (s.view t bg)).clears = false)
    (hc : (f (s.view t bg)).ctl = .next ∧ pc = (s.dev.ctx t bg).pc + 1 ∨ (f (s.view t bg)).ctl = .goto pc)
    (he : (f (s.view t bg)).eff s.dev = s.dev) :
    s.leaves t i ((s.dev.tile t).goto bg pc) s.dev := by
  refine State.leaves_of h hx hf hi ht (by simp [hs, State.met]) hcl hc ?_ rfl rfl
  simp only [hs, Dev.drew_nil, he]
  exact Dev.becomes_self ..

/-- A lone slot whose effect is a change of its tile, and of what is in flight, in one update. -/
theorem State.leaves_tile {s : State} {t : Fin 1632} {bg : Bool} (h : s.ready t bg) {i : Instr} {f : View → SlotSem}
    (hx : exec i s = .next (s.on fun d => d.runSlot (lone t) i)) (hf : semOf i.decoded = some f) {g : Tile → Tile} {e : Dev}
    (hi : (f (s.view t bg)).illegal = none) (ht : (f (s.view t bg)).traps = [])
    (hs : s.met t bg (f (s.view t bg)).needs) (hcl : (f (s.view t bg)).clears = false) (hc : (f (s.view t bg)).ctl = .next)
    (he : (f (s.view t bg)).eff (s.dev.drew t (f (s.view t bg)).needs) = e.modTile t g)
    (het : e.tiles = s.dev.tiles) (her : e.regs = s.dev.regs) (hec : e.ctrs = s.dev.ctrs) :
    s.leaves t i ((g (s.dev.tile t)).goto bg ((s.dev.ctx t bg).pc + 1)) e := by
  refine State.leaves_of h hx hf hi ht hs hcl (.inl ⟨hc, rfl⟩) ?_ her hec
  simp only [he]
  exact Dev.becomes_modTile t g het

/-- A lone slot of a ready context whose effect changes its context alone. -/
theorem State.computes_of {s : State} {t : Fin 1632} {bg : Bool} (h : s.ready t bg) {i : Instr} {f : View → SlotSem}
    (hx : exec i s = .next (s.on fun d => d.runSlot (lone t) i)) (hf : semOf i.decoded = some f) {g : Ctx → Ctx}
    (hi : (f (s.view t bg)).illegal = none) (ht : (f (s.view t bg)).traps = [])
    (hs : (f (s.view t bg)).needs = []) (hcl : (f (s.view t bg)).clears = false)
    (hc : (f (s.view t bg)).ctl = .next) (he : (f (s.view t bg)).eff s.dev = s.dev.modCtx t bg g) :
    s.computes t bg i g := by
  refine State.leaves_of (y := (s.dev.tile t).mod bg g) h hx hf hi ht (by simp [hs, State.met]) hcl (.inl ⟨hc, rfl⟩) ?_ rfl rfl
  simp only [hs, Dev.drew_nil, he]
  exact Dev.becomes_modTile t (fun x => x.setCtx bg (g (x.ctx bg))) rfl

/-- A lone slot of a ready context that goes to the next bundle: the whole effect. -/
theorem State.effect_of {s : State} {t : Fin 1632} {bg : Bool} (h : s.ready t bg) {i : Instr} {f : View → SlotSem} {g : Dev → Dev}
    (hx : exec i s = .next (s.on fun d => d.runSlot (lone t) i)) (hf : semOf i.decoded = some f)
    (hi : (f (s.view t bg)).illegal = none) (ht : (f (s.view t bg)).traps = [])
    (hs : s.met t bg (f (s.view t bg)).needs) (hcl : (f (s.view t bg)).clears = false) (hc : (f (s.view t bg)).ctl = .next)
    (he : (f (s.view t bg)).eff (s.dev.drew t (f (s.view t bg)).needs) = g s.dev) : s.effect t bg i g := by
  unfold State.effect
  rw [hx]
  have hrun := State.runSlot_ready h hf hi ht hs hcl
  simp only [State.on, hrun]
  have e2 : ({ d := s.dev, t := t, bg := bg } : View) = s.view t bg := rfl
  rw [e2]
  simp only [Dev.afterCtl, hc, Dev.afterLone, he, SlotSem.target]

/-- A legal slot that writes one scalar register. -/
theorem State.computes_scalar {s : State} {t : Fin 1632} {bg : Bool} (h : s.ready t bg) {i : Instr} {f : View → SlotSem}
    {sD : BitVec 6} {w : Word} (hx : exec i s = .next (s.on fun d => d.runSlot (lone t) i)) (hf : semOf i.decoded = some f)
    (srcs : List Reg) (hsem : f (s.view t bg) = scalarSem (s.view t bg) sD srcs (some w)) :
    s.computes t bg i fun c => c.ws sD.toNat w := by
  refine State.computes_of h hx hf ?_ ?_ ?_ ?_ ?_ ?_ <;> rw [hsem] <;> rfl

/-- A legal slot that writes one address register. -/
theorem State.computes_addr {s : State} {t : Fin 1632} {bg : Bool} (h : s.ready t bg) {i : Instr} {f : View → SlotSem}
    {aD : BitVec 4} {w : Word} (hx : exec i s = .next (s.on fun d => d.runSlot (lone t) i)) (hf : semOf i.decoded = some f)
    (srcs : List Reg) (hsem : f (s.view t bg) = addrSem (s.view t bg) aD srcs w) :
    s.computes t bg i fun c => c.wa aD.toNat w := by
  refine State.computes_of h hx hf ?_ ?_ ?_ ?_ ?_ ?_ <;> rw [hsem] <;> rfl

/-! ### Arithmetic of words -/

theorem slt_eq_toInt (a b : Word) : a.slt b = decide (a.toInt < b.toInt) := rfl
theorem ult_eq_toNat (a b : Word) : a.ult b = decide (a.toNat < b.toNat) := rfl

theorem mul_eq_ofInt (a b : Word) : a * b = BitVec.ofInt 32 (a.toInt * b.toInt) := by
  apply BitVec.eq_of_toInt_eq
  simp [BitVec.toInt_mul]

/-- The high word of a 64-bit value. -/
theorem high_word_toInt (x : DWord) : x.extractLsb' 32 32 = BitVec.ofInt 32 (x.toInt / 2 ^ 32) := by
  apply BitVec.eq_of_toNat_eq
  have hx := x.isLt
  rw [BitVec.extractLsb'_toNat, BitVec.toNat_ofInt, BitVec.toInt_eq_toNat_cond, Nat.shiftRight_eq_div_pow]
  split <;> omega

/-- The high word of the signed product. -/
theorem mul_high_signed (a b : Word) :
    (a.signExtend 64 * b.signExtend 64).extractLsb' 32 32 = BitVec.ofInt 32 (a.toInt * b.toInt / 2 ^ 32) := by
  have h1 : (a.signExtend 64 * b.signExtend 64).toInt = a.toInt * b.toInt := by
    rw [BitVec.toInt_mul, BitVec.toInt_signExtend_of_le (by omega), BitVec.toInt_signExtend_of_le (by omega)]
    have ha1 := BitVec.toInt_lt (x := a)
    have ha2 := BitVec.le_toInt a
    have hb1 := BitVec.toInt_lt (x := b)
    have hb2 := BitVec.le_toInt b
    have hab : (a.toInt * b.toInt).natAbs ≤ 2 ^ 62 := by
      rw [Int.natAbs_mul]
      exact Nat.le_trans (Nat.mul_le_mul (show a.toInt.natAbs ≤ 2 ^ 31 by omega) (show b.toInt.natAbs ≤ 2 ^ 31 by omega)) (by decide)
    rw [Int.bmod_eq_of_le] <;> omega
  rw [high_word_toInt, h1]

/-- The high word of the unsigned product. -/
theorem mul_high_unsigned (a b : Word) :
    (a.setWidth 64 * b.setWidth 64).extractLsb' 32 32 = BitVec.ofNat 32 (a.toNat * b.toNat / 2 ^ 32) := by
  apply BitVec.eq_of_toNat_eq
  have hab : a.toNat * b.toNat < 2 ^ 32 * 2 ^ 32 := Nat.mul_lt_mul'' a.isLt b.isLt
  simp [BitVec.extractLsb'_toNat, BitVec.toNat_mul, BitVec.toNat_setWidth, Nat.shiftRight_eq_div_pow]
  rw [Nat.mod_eq_of_lt (show a.toNat * b.toNat < 18446744073709551616 by omega)]

/-- Two halves as one word. -/
theorem append_halves (r c : BitVec 16) (row col : Nat) (hr : r.toNat = row % 65536) (hc : c.toNat = col % 65536) :
    (r ++ c : BitVec 32) = BitVec.ofNat 32 (row % 65536 * 65536 + col % 65536) := by
  apply BitVec.eq_of_toNat_eq
  rw [BitVec.toNat_append, hr, hc, ← Nat.shiftLeft_add_eq_or_of_lt (by omega)]
  simp [Nat.shiftLeft_eq]
  omega

end Sys2Proof.Machine
end

