-- ==== Sys2Proof/Tests/Slice0.lean ====
section
/-! SUPPORT. Tests: an ill-formed command for each check of WellFormed, a witness for every statement that has hypotheses
(concrete states and operands that meet them, at boundary values where clauses share a range), and for each family small
results of one command, worked out by hand from the rules named. -/

open Sys2Proof Sys2Proof.Machine

namespace Sys2Proof.Tests

/-! ### A started package -/

/-- The pages whose blocks run in the tests. -/
def pagesOn : List Page := [.glb, .pwr, .flt, .evr, .tmb, .tel, .hif, .rsl, .fab, .mem 0, .core 0, .sync 0, .stream 0, .queue 0,
  .pool 0, .num 0, .coll 0, .fport 0, .tile 0]

/-- Registers of the running context: s1 = 1, s2 = 2, s3 names queue 8 of tile 0, s4 the most negative word, s5 -1; a1 to a4
are the last addresses at which a word and a vector fit the scratchpad, and fit below the queue table. -/
def regs1 : Ctx := { Ctx.reset with
  run := true
  s := ((((Tbl.empty.set 1 1).set 2 2).set 3 0x10).set 4 0x80000000).set 5 0xFFFFFFFF
  a := (((Tbl.empty.set 1 0x4FFFC).set 2 0x47FFC).set 3 0x4FF00).set 4 0x47F00 }

/-- READY, every page of the list enabled, the foreground of tile 0 running with IMEM_LIMIT 1,024 at bundle 0. -/
def live : Dev :=
  let d : Dev := { Dev.reset with
    mc := { Mc.reset with stage := .ready, booted := true, coresOk := 255 }
    pins := { Pins.reset with pwrOk := true, perstN := true, fref := 3 }
    tiles := (Tbl.empty : Tbl Tile).set 0 { Tile.reset with fg := regs1, sel := some false } }
  (pagesOn.foldl (fun d p => d.setPreg p blkCtrl 1) d).setPreg (.tile 0) 0x98 0x400

def st (d : Dev) : State := { pending := [], dev := d }

/-- The package after one command; unchanged where the command does not go on. -/
def after (d : Dev) (i : Instr) : Dev := match exec i (st d) with
  | .next s => s.dev
  | _ => d

def tl (f : Tile → Tile) (d : Dev) : Dev := d.modTile 0 f
def cx (f : Ctx → Ctx) (d : Dev) : Dev := d.modCtx 0 false f

/-- The foreground of tile 0 after one command of it. -/
def fg (d : Dev) (i : Instr) : Ctx := (after d i).ctx 0 false

/-- Queue `q` of tile 0 is a ring of 256 bytes at the lowest legal base. -/
def withQueue (q : Nat) (d : Dev) : Dev :=
  tl (fun x => { x with spad := (x.spad.setWord (qEntry q) 0x48100).setWord (qEntry q + 4) 256 }) d

def msg0 (cls : Bool) (dq : Nat) (payload : List Word) : Msg :=
  { kind := 0, cls := cls, dq := dq, sender := 0, cq := none, payload := payload, watch := none, release := none }

/-! ### Well-formedness: each check refuses an ill-formed command -/

def cmd0 : HostCmd := { flags := 0, page := 0, tag := 0, a := 0, b := 0, len := 0, value := 0, timeout := 0, rsv := 0 }
def badCmd : HostCmd := { cmd0 with rsv := 2 ^ 160 }
def readOf (c : HostCmd) : HostRead := { cmd := c, bad := none }

theorem test_wf_packet_source : (Instr.rd (.port 12)).wf = false ∧ (Instr.rd (.port 11)).wf = true := by decide
theorem test_wf_multicast : (Instr.mcastWrite [] (.layer 0) [0]).wf = false ∧ (Instr.mcastWrite [1, 1] (.layer 0) [0]).wf = false ∧
    (Instr.mcastWrite [0] (.spad 0x4FFFF) [0, 0]).wf = false ∧ (Instr.mcastWrite [0] (.spad 0) []).wf = false ∧
    (Instr.mcastWrite [0] (.imem 0) [0]).wf = false ∧ (Instr.mcastWrite [0] (.layer 0) []).wf = false ∧
    (Instr.mcastWrite [0, 1] (.spad 0x4FFFF) [0]).wf = true := by decide
theorem test_wf_ring_commands : (Instr.cmdNop 0 2 cmd0).wf = false ∧ (Instr.cmdNop 0 9 cmd0).wf = false ∧
    (Instr.cmdNop 0 10 cmd0).wf = true ∧ (Instr.cmdNop 0 0 badCmd).wf = false ∧
    (Instr.copyH2d 0 { cmd0 with len := 1 } [0, 0]).wf = false ∧ (Instr.copyH2d 0 badCmd []).wf = false ∧
    (Instr.copyD2h 0 (readOf badCmd)).wf = false ∧ (Instr.fill 0 badCmd).wf = false ∧ (Instr.crc 0 (readOf badCmd)).wf = false ∧
    (Instr.sync 0 badCmd).wf = false ∧ (Instr.wait 0 badCmd).wf = false ∧ (Instr.read 0 (readOf badCmd)).wf = false ∧
    (Instr.crc 0 { cmd := { cmd0 with len := 4 }, bad := some 4 }).wf = false ∧ (Instr.time 0 badCmd).wf = false ∧ (Instr.time 0 cmd0).wf = true := by decide
theorem test_wf_events : (Instr.registerWrite .bar0 0 3 0).wf = false ∧ (Instr.counterLatchRead .bar0 { off := 0, size := 3 }).wf = false ∧
    (Instr.clear { msg := none, run := { ClearRun.clean with second := [[0]] } }).wf = false ∧
    (Instr.clear { msg := none, run := ClearRun.clean }).wf = true ∧ (Instr.evrRecordWrite (some [0]) true).wf = false ∧
    (Instr.gustPeriod [] [] [] 0).wf = false ∧
    (Instr.gustPeriod (List.replicate 19 0) (List.replicate 16 0) (List.replicate 8 10001) 0).wf = false ∧
    (Instr.gustPeriod (List.replicate 19 0) (List.replicate 16 0) (List.replicate 8 10000) 0).wf = true ∧
    (Instr.sensorRead [(3, 0), (3, 1)]).wf = false ∧ (Instr.bar2Read 0 { n := 0, bad := false }).wf = false ∧ (Instr.bar2Write 0 []).wf = false := by decide
theorem test_wf_start_up : (Instr.hbmTrain 0 []).wf = false ∧ (Instr.checkrun [1, 1] [] [] []).wf = false ∧
    (Instr.checkrun [] [1, 1] [] []).wf = false ∧ (Instr.checkrun [] [] [(1, []), (1, [])] []).wf = false ∧
    (Instr.checkrun [] [] [] [(1, []), (1, [])]).wf = false ∧ (Instr.tileFw 0 [1, 1] [] [] []).wf = false ∧
    (Instr.tileFw 0 [] [1, 1] [] []).wf = false ∧ (Instr.tileFw 0 [] [] [(1, []), (1, [])] []).wf = false ∧
    (Instr.tileFw 0 [] [] [] [(1, []), (1, [])]).wf = false := by decide

/-! ### Tiles: witnesses -/

/-- A command waits, and none waits. -/
theorem witness_StepRunsCommand : (State.mk [.halt (lone 0) 0, .perstAssert] live).pending = .halt (lone 0) 0 :: [.perstAssert] ∧ (st live).pending = [] := by decide

/-- Of every statement about a slot that names no more than a ready context. -/
theorem witness_ready : (st live).ready 0 false := by unfold State.ready; decide
theorem witness_ScalarResults : (st live).ready 0 false := witness_ready
theorem witness_AddressResults : (st live).ready 0 false := witness_ready

/-- Each branch condition holds of some pair of registers and fails of another, the equal pair taken at the ordered ones; one
lane alone makes BRP any hold and one alone makes BRP all fail; and CSW finds its context running. -/
theorem witness_ControlFlow : (st live).ready 0 false ∧
    (let r := (live.ctx 0 false).rs
     r 1 = r 1 ∧ ¬ r 1 = r 2 ∧ (r 4).toInt < (r 5).toInt ∧ ¬ (r 5).toInt < (r 5).toInt ∧ (r 5).toInt ≤ (r 5).toInt ∧
     ¬ (r 5).toInt ≤ (r 4).toInt ∧ (r 4).toNat < (r 5).toNat ∧ ¬ (r 5).toNat < (r 5).toNat ∧ (r 5).toNat ≤ (r 5).toNat ∧
     ¬ (r 5).toNat ≤ (r 4).toNat) ∧
    (let p := ((cx (fun c => { c with p := (c.p.set 1 (BitVec.ofNat 64 (2 ^ 63))).set 2 (BitVec.ofNat 64 (2 ^ 63 - 1)) }) live).ctx 0 false).rp
     (p 1).getLsbD 63 = true ∧ (p 3) = 0#64 ∧ (p 2).getLsbD 63 = false ∧ p 0 = BitVec.allOnes 64) ∧
    (live.ctx 0 false).run = true ∧ ((live.tile 0).ctx true).run = false := by
  refine ⟨witness_ready, ?_⟩; decide

/-- Opcode 63 is of no slot; NOP is of every slot. -/
theorem witness_TrapsTaken : (st live).ready 0 false ∧
    ∀ slot : Fin 4, undefinedOpcode (lone 0) slot 0xFC000000#32 = true ∧ undefinedOpcode (lone 0) slot 0#32 = false := by
  refine ⟨witness_ready, ?_⟩; decide

/-- The last word below the end of the scratchpad, the last below the queue table, a canonical tile, and a store that ends its line. -/
theorem witness_ScratchpadAccess : (st live).ready 0 false ∧
    (let addr (r n : Nat) : Nat := ((live.ctx 0 false).ra r + BitVec.ofInt 32 (0#15).toInt).toNat / n * n
     addr 1 4 + 4 = 0x50000 ∧ addr 2 4 + 4 = 0x48000 ∧ ∀ narrow, (st live).met 0 false [Need.port [addr 2 4 / 64] narrow]) ∧
    (live.tile 0).ok ∧ 0 < [1#8].length ∧ 63 % 64 + [1#8].length ≤ 64 := by
  refine ⟨witness_ready, ?_, ?_, by decide⟩ <;> (try unfold State.met) <;> (try unfold Tile.ok) <;> decide

/-- The last vector of words that fits the scratchpad, and below the queue table; two planes whose 64 words end at the same limits. -/
theorem witness_VectorMemory : (st live).ready 0 false ∧
    (let addr (r : Nat) : Nat := ((live.ctx 0 false).ra r + BitVec.ofInt 32 (4 * (0#12).toInt)).toNat / 4 * 4
     addr 3 + 64 * 4 = 0x50000 ∧ addr 4 + 64 * 4 = 0x48000 ∧ (st live).met 0 false [Need.port (linesOf (addr 4) 256) false]) ∧
    (let addr (pl k : Nat) : Nat := (pl % 2 ^ 13 * 16 + (0 / 65536) * (pl / 65536 % 2 ^ 13) * 16 + 0 % 65536 + k) % 2 ^ 32 * 4 % 2 ^ 32
     (∀ k, k < 64 → addr 5116 k < 0x50000) ∧ (∀ k, k < 64 → addr 4604 k < 0x48000) ∧
     (st live).met 0 false [Need.port ((List.range 64).map fun k => addr 4604 k / 64) false]) := by
  refine ⟨witness_ready, ?_⟩; unfold State.met; decide

theorem witness_SendsAndSync : (st live).ready 0 false ∧ (∀ reply, (st live).met 0 false [Need.net reply, Need.poolStores]) ∧
    (st live).met 0 false [Need.poolStores] ∧ (62#6 ≠ 63) ∧
    live.destOf 0 ((live.ctx 0 false).rs 0) = some (.tile 0 0) ∧ destClass ((live.ctx 0 false).rs 0) = false ∧
    live.destOf 0 ((live.ctx 0 false).rs 3) = some (.tile 0 8) ∧ destClass ((live.ctx 0 false).rs 3) = true ∧
    live.objOf 0 ((live.ctx 0 false).rs 1) = some (0, 1) := by
  refine ⟨witness_ready, ?_⟩; unfold State.met; decide

def queued : Dev := withQueue 0 live |> tl fun x => (x.place 0 (msg0 false 0 [7])).getD x
theorem witness_QueueReadsAndRing : (st queued).ready 0 false ∧ bit (queued.preg (.tile 0) 0x9C) 0 = false ∧
    (queued.tile 0).headMsg 0 = some (1, 0, [7]) ∧ queued.ingress.get? (ingressKey 0 false) = none ∧
    (let x := (withQueue 15 live).tile 0
     let m := msg0 true 15 (List.replicate 62 1)
     x.ok ∧ x.qAbsent 15 = false ∧ x.qCount 15 = 0 ∧ m.payload.length = 62 ∧ m.kind < 8 ∧ m.dq < 16 ∧ m.sender < 65536) := by
  unfold State.ready Tile.ok; decide

/-- A fourth watch may still be sent. A second arrival of barrier 1 goes, a third one waits. -/
theorem witness_WatchAndArrive :
    (let d := (cx (fun c => { c with watches := 3 }) live).setPreg (.sync 0) 0x404 3
     (st d).ready 0 false ∧ (st d).met 0 false [Need.poolStores] ∧ d.objOf 0 ((d.ctx 0 false).rs 1) = some (0, 1) ∧ (d.ctx 0 false).watches < 4 ∧
     8 ≤ (8#4).toNat ∧ d.barScope 0 1 ≠ 0 ∧
     (∀ n : Fin 4, (((tl (fun x => { x with bars := x.bars.set 1 ⟨true, List.replicate n.val (true, 8)⟩ }) d).tile 0).bars.getD 1 TileBar.reset).pend.length = n.val)) := by
  unfold State.ready State.met; decide

def inPort (full : Bool) : RingPort :=
  { RingPort.reset with bound := true, base := 0x100, slotSize := 256, slots := 2, full := Tbl.empty.set 0 full, fill := Tbl.empty.set 0 8 }
def withPort (p : RingPort) (d : Dev) : Dev := tl (fun x => { x with ports := x.ports.set 1 p }) d
/-- A context that cannot start, one that can (its stage has nothing named), a full input slot read at offset 0 of a 256-byte slot, and a free
output slot at the end of the general region that takes its whole size. -/
theorem witness_StreamAndRingPorts : (st live).ready 0 false ∧ (st live).met 0 false [Need.poolStores] ∧ live.startCode 0 0 ≠ 0 ∧
    live.ctxState 0 0 ≠ 1 ∧
    (let d := withPort (inPort true) live
     let p := d.port 0 1
     (st d).ready 0 false ∧ p.bound = true ∧ p.output = false ∧ p.full.getD p.cur false = true ∧ 4 * (0#12).toNat + 256 ≤ p.slotSize) ∧
    (let d := withPort { inPort false with output := true, base := 0x47E00, cur := 1 } live
     let p := d.port 0 1
     (st d).ready 0 false ∧ p.bound = true ∧ p.output = true ∧ p.full.getD p.cur false = false ∧ 4 * (0#12).toNat + 256 ≤ p.slotSize ∧
     p.base + p.cur * p.slotSize + p.slotSize = 0x48000 ∧ ((d.ctx 0 false).rs 0).toNat ≤ p.slotSize ∧ (st d).met 0 false [Need.poolStores] ∧
     (st d).met 0 false [Need.ring 1 true, Need.port (linesOf 0x47F00 256) false]) := by
  refine ⟨witness_ready, ?_, by decide, by decide, ?_⟩ <;> (try unfold State.met) <;> (try unfold State.ready) <;> decide

/-- With the forecast idle no PUT is held, with a compute slot open it is; the last copy of one word fits the scratchpad; a PUTG goes to this
package and to position 1; WAITC issues at equality and at the least value that passes. -/
theorem witness_ExchangeAndLanding : (st live).ready 0 false ∧ (st live).met 0 false [Need.poolStores, Need.net false] ∧ ¬ live.computeOpen = true ∧
    (live.tile 0).puts = [] ∧
    (let w := (live.ctx 0 false).rs 3
     live.lcoreBound 0 (fld w 13 3) = true ∧ fld w 9 4 < 12 ∧ ((live.ctx 0 false).ra 1).toNat / 4 * 4 + 4 ≤ 0x50000) ∧
    (let g := (live.ctx 0 false).pair 0
     let h := ((cx (fun c => c.ws 7 0x10000) live).ctx 0 false).pair 3
     fld g 46 2 < 2 ∧ fld g 48 16 = live.position ∧ fld h 46 2 < 2 ∧ fld h 48 16 ≠ live.position ∧ live.canRequest (fld h 48 16) = true) ∧
    (let v := (live.ctx 0 false).rs 0
     v = (live.tile 0).lc 0 ∧ v.toNat ≤ ((live.tile 0).lc 0).toNat) ∧
    (let d := { live with fc := { Fc.reset with armed := true, begun := true, slots := [{ slot := 0, sstep := 0, want := [], done := false, events := [] }] } }
     (st d).ready 0 false ∧ d.computeOpen = true ∧ (st d).met 0 false [Need.poolStores]) := by
  refine ⟨witness_ready, ?_, by decide, by decide, by decide, by decide, by decide, ?_⟩ <;> (try unfold State.met) <;> (try unfold State.ready) <;> decide

theorem witness_IntegerLanes : (st live).ready 0 false := witness_ready
theorem witness_FloatLanes : (st live).ready 0 false := witness_ready
theorem witness_ReductionsAndCrc : (st live).ready 0 false := witness_ready

/-- Outside QT1_EXACT, with a tag whose class is not 2; both ranges of fn. -/
theorem witness_Conversions : (st live).ready 0 false ∧ bit (live.preg (.tile 0) 0xA0) 0 = false ∧ (live.tag 0 0).cls ≠ 2 ∧
    (1#3).toNat ≤ 1 ∧ 2 ≤ (2#3).toNat := by
  refine ⟨witness_ready, ?_⟩; decide

/-- Collection runs, and does not. -/
theorem witness_UpdateAndWideLanes : (st live).ready 0 false ∧ bit (live.preg (.tile 0) 0xA0) 0 = false ∧
    (st live).met 0 false [Need.ratio 0] ∧ live.baroOn 0 = true ∧
    (let d := live.setPreg (.num 0) blkCtrl 0
     (st d).ready 0 false ∧ bit (d.preg (.tile 0) 0xA0) 0 = false ∧ (st d).met 0 false [Need.ratio 0] ∧ d.baroOn 0 = false) := by
  refine ⟨witness_ready, by decide, ?_, by decide, ?_⟩ <;> (try unfold State.met) <;> (try unfold State.ready) <;> decide

def withGroup (g : Group) (d : Dev) : Dev := tl (fun x => { x with groups := x.groups.set 1 g }) d
def fpGroup : Group := { Group.reset with isOpen := true }
def exactMode (d : Dev) : Dev := d.setPreg (.tile 0) 0xA0 1

/-- A closed group and an open one of this context, of each type, in each mode; and 32 rows of words that end at the queue table. -/
theorem witness_GroupOpenAndStore : (st live).ready 0 false ∧ ((live.tile 0).groups.getD 1 Group.reset).isOpen = false ∧
    bit (live.preg (.tile 0) 0xA0) 0 = false ∧
    (let d := exactMode live
     (st d).ready 0 false ∧ bit (d.preg (.tile 0) 0xA0) 0 = true ∧ (1#2).toNat < 2) ∧
    (∀ int32 : Bool, let d := withGroup { fpGroup with int32 := int32 } (cx (fun c => c.wa 5 0x46000) live)
     let gr := (d.tile 0).groups.getD 1 Group.reset
     (st d).ready 0 false ∧ gr.isOpen = true ∧ gr.bg = false ∧ gr.int32 = int32 ∧
     let row (r : Nat) := (((d.ctx 0 false).ra 5).toNat / 4 * 4 + r * (256 / 4 % 2 ^ 18 * 4)) % 2 ^ 32
     (∀ r : Fin 32, row r + 64 * 4 ≤ 0x48000) ∧ (st d).met 0 false [Need.port ((List.range 32).flatMap fun r => linesOf (row r) 256) false]) := by
  refine ⟨witness_ready, by decide, by decide, ?_⟩; unfold State.ready State.met; decide

/-- A group of each type with K = 1, K = 0, and K = 65,535 rows from address 0; in QT1_EXACT too; the smallest and greatest plain pair of MMAF. -/
theorem witness_Accumulation :
    (∀ int32 exact : Bool, let d := (withGroup { fpGroup with int32 := int32 } live).setPreg (.tile 0) 0xA0 (if exact then 1 else 0)
     let gr := (d.tile 0).groups.getD 1 Group.reset
     (st d).ready 0 false ∧ gr.isOpen = true ∧ gr.bg = false ∧ gr.int32 = int32 ∧ bit (d.preg (.tile 0) 0xA0) 0 = exact ∧
     (st d).met 0 false [Need.grant] ∧ (1#2).toNat < 2) ∧
    (∀ code : Fin 2, ∀ k : Fin 2, let a : MatOperand := { code := 9 * code.val, rows := 32, addr := 0, k := k.val }
     let b : MatOperand := { code := 9 * code.val, rows := 64, addr := 0, k := k.val }
     a.addr + a.span ≤ 0x50000 ∧ b.addr + b.span ≤ 0x50000 ∧ (k.val = 0 → a.kp = 0) ∧ (k.val = 1 → 0 < a.kp)) ∧
    legalPair 0 0 = true ∧ legalPair 9 9 = true := by
  unfold State.ready State.met; decide

/-- A descriptor of zeros (FP32 rows at address 0, nothing kept) and one that keeps the group, in a group of this context. -/
theorem witness_GroupClose :
    (let d := withGroup fpGroup live
     let desc := closeDesc ((d.tile 0).readBytes 0 32)
     (st d).ready 0 false ∧ bit (d.preg (.tile 0) 0xA0) 0 = false ∧ ((d.tile 0).groups.getD 1 Group.reset).isOpen = true ∧
     desc.illegal true false (d.tag 0 desc.tag) = false ∧ desc.bad = none ∧ desc.keep = false ∧
     (st d).met 0 false [Need.port (((List.range 32).flatMap fun r => linesOf (desc.row r) 256) ++ []) false]) := by
  unfold State.ready State.met; decide

/-- The two slots of a bundle, the last of them at bundle 0: two destinations, one destination, and s0 twice. -/
theorem witness_BundleIssue : (Instr.addi ⟨0, true⟩ 6 0 1).at? = some ⟨0, true⟩ ∧
    (let d := tl (fun x => { x with slots := [.addi ⟨0, true⟩ 6 0 1] }) live
     let d' := d.modTile (0 : Fin 1632) fun x => { x with slots := [] }
     (d.tile 0).slots = [.addi ⟨0, true⟩ 6 0 1] ∧ (st d').ready 0 false ∧ (7#6 ≠ 6) ∧ (6#6 ≠ 0) ∧
     ((d'.ctx 0 false).ra 1 + BitVec.ofInt 32 (0#15).toInt).toNat / 4 * 4 + 4 = 0x50000 ∧
     ((d'.ctx 0 false).ra 2 + BitVec.ofInt 32 (0#15).toInt).toNat / 4 * 4 + 4 = 0x48000 ∧
     (st d).met 0 false [.port [0x47FFC / 64] false]) := by
  unfold State.ready State.met; decide

/-- Bundle 0 with IMEM_LIMIT 0, and the sequential fetch after bundle 1,023 (R74). -/
theorem witness_FetchBounds : (Instr.halt (lone 0) 0).at? = some (lone 0) ∧
    (∀ at_ : Fin 2, let d := if at_ = 0 then live.setPreg (.tile 0) 0x98 0 else cx (fun c => { c with pc := 1024 }) live
     d.tileLive 0 = true ∧ (d.tile 0).sel = some false ∧ (d.tile 0).switching = 0 ∧ (d.ctx 0 false).halting = none ∧ (∀ n < 4, bit (d.brkCtrl 0 n) 0 = false) ∧
     fld (d.preg (.tile 0) 0x98) 0 11 ≤ (d.ctx 0 false).pc) := by decide

/-! ### Tiles: results of one command -/

-- R94: wrap-around; R93: the signed and unsigned high words of (-1) (-1); a shift takes the low five bits of its count.
theorem test_add_wraps : (fg live (.alu (lone 0) 6 5 1 0)).rs 6 = 0 := by decide
theorem test_mul_high : (fg live (.mul (lone 0) 6 5 5 1)).rs 6 = 0 ∧ (fg live (.mul (lone 0) 6 5 5 2)).rs 6 = 0xFFFFFFFE := by decide
theorem test_shift_right_arithmetic : (fg live (.shifti (lone 0) 6 4 2 31 0)).rs 6 = 0xFFFFFFFF := by decide
theorem test_addi_sign_extends : (fg live (.addi (lone 0) 6 1 0x3FFF)).rs 6 = 0 := by decide
theorem test_ori_zero_extends : (fg live (.ori (lone 0) 6 0 0x3FFF)).rs 6 = 0x3FFF := by decide
theorem test_lui : (fg live (.lui (lone 0) 6 0xFFFFF)).rs 6 = 0xFFFFF000 := by decide
-- R56: s0 discards writes. R92: a nonzero reserved function is illegal; R93: fn 15 of ALU.
theorem test_s0_reads_zero : (fg live (.addi (lone 0) 0 1 1)).rs 0 = 0 := by decide
theorem test_alu_reserved_function : fld (fg live (.alu (lone 0) 6 1 1 15)).trap 0 8 = 1 := by decide
-- R97: no carry between the halves.
theorem test_a2addi_halves : (fg (cx (fun c => c.wa 5 0x0001FFFF) live) (.a2addi (lone 0) 6 5 0xFF 1 0)).ra 6 = 0 := by decide
-- R95: CALL writes the next PC; JR takes the low ten bits.
theorem test_call_link : (fg live (.call (lone 0) 6 9 0)).rs 6 = 1 ∧ (fg live (.call (lone 0) 6 9 0)).pc = 9 := by decide
theorem test_jr : (fg live (.jr (lone 0) 5 0)).pc = 1023 := by decide
theorem test_br_signed : (fg live (.br (lone 0) 4 5 3 7)).pc = 7 ∧ (fg live (.br (lone 0) 5 4 3 7)).pc = 1 := by decide
-- R76: TRAP holds cause, PC and valid; the context stops at its bundle.
theorem test_trap_record : (fg (cx (fun c => { c with pc := 5 }) live) (.trap (lone 0) 0x1234 0)).trap = 0x8005000A ∧
    (fg live (.trap (lone 0) 0x1234 0)).trapInfo = 0x1234 ∧ (fg live (.trap (lone 0) 0 0)).run = false := by decide
-- R101: the address is aligned down; R99: little-endian; R102: post-increment.
theorem test_store_load : (fg (after live (.stw (lone 0) 5 2 false 0)) (.ldb (lone 0) 6 2 false 3)).rs 6 = 0xFFFFFFFF := by decide
theorem test_narrow_store_waits : ((after live (.stb (lone 0) 5 2 false 0)).tile 0).spad.get 0x47FFC = 0 ∧
    ((after live (.stb (lone 0) 5 2 false 0)).tile 0).byte 0x47FFC = 0xFF := by decide
theorem test_load_out_of_range : fld (fg (cx (fun c => c.wa 5 0x50000) live) (.ldw (lone 0) 6 5 false 0)).trap 0 8 = 4 := by decide
theorem test_post_increment : (fg live (.ldw (lone 0) 6 1 true 0x7FFC)).ra 1 = 0x4FFF8 := by decide
-- R68: a load beyond a queue's own context; R288: QRD takes the first payload word.
theorem test_qrd_scalar : (fg queued (.qrd (lone 0) 6 0 1 0)).rs 6 = 7 ∧ ((after queued (.qrd (lone 0) 6 0 1 0)).tile 0).qCount 0 = 0 := by decide
theorem test_qcnt : (fg queued (.qcnt (lone 0) 6 0 1 0)).rs 6 = 1 := by decide
-- R109: the operation leaves on the context's channel, and sD is pending.
theorem test_sadd_pends : (fg live (.sadd (lone 0) 6 1 2 0)).pend = [.s 6] ∧ (after live (.sadd (lone 0) 6 1 2 0)).syncs.length = 1 := by decide
-- R260: bound, full, word 2 of the slot's fill; 0 for an unbound port.
theorem test_rstat : (fg (withPort (inPort true) live) (.rstat (lone 0) 6 1 0)).rs 6 = 0x00020005 ∧
    (fg live (.rstat (lone 0) 6 1 0)).rs 6 = 0 := by decide
-- R113: VMOV broadcasts nothing to a lane that is off; VIOTA is the lane number plus the scalar.
theorem test_viota : lane ((fg live (.viota (lone 0) 6 2 0 0)).rv 6) 63 = 65 := by decide
theorem test_vsop_splat_predicated :
    let d := cx (fun c => { c with p := c.p.set 1 2 }) live
    lane ((fg d (.vsop (lone 0) 6 0 5 1 0x20)).rv 6) 1 = 0xFFFFFFFF ∧ lane ((fg d (.vsop (lone 0) 6 0 5 1 0x20)).rv 6) 0 = 0 := by decide
-- R115: 1.0 + 2^-24 is halfway and stays 1.0, which is inexact.
set_option maxRecDepth 20000 in
theorem test_fadd_ties_to_even :
    let d := cx (fun c => { c with v := (c.v.set 1 (mkLanes fun _ => 0x3F800000#32)).set 2 (mkLanes fun _ => 0x33800000#32) }) live
    lane ((fg d (.vfp (lone 0) 3 1 2 0 0)).rv 3) 0 = 0x3F800000 ∧ (fg d (.vfp (lone 0) 3 1 2 0 0)).fpstat = 8 := by decide
-- R117: the sum of 0 to 63.
theorem test_vred_isum :
    (fg (cx (fun c => { c with v := c.v.set 1 (mkLanes fun k => BitVec.ofNat 32 k) }) live) (.vred (lone 0) 6 1 0 3 0)).rs 6 = 2016 := by decide
theorem test_pmov : (fg live (.pmov (lone 0) 1 1 2 0)).rp 1 = 0x200000001 := by decide
-- R128: an opened group is zero and belongs to its context; R119: MST of a closed group traps.
theorem test_mopen : ((after live (.mopen (lone 0) 1 0 3 0)).tile 0).groups.getD 1 Group.reset = { fpGroup with panel := 3 } := by decide
theorem test_mst_closed_group : fld (fg live (.mst (lone 0) 1 0 0 0 0 0)).trap 0 8 = 7 := by decide
-- R64, R91: two slots that write one register.
theorem test_bundle_conflict :
    let d := after live (.addi ⟨0, true⟩ 6 0 1)
    fld (fg d (.ldw (lone 0) 6 0 false 0)).trap 0 8 = 2 ∧ (fg (after live (.addi ⟨0, true⟩ 6 0 1)) (.ldw (lone 0) 7 0 false 0)).rs 6 = 1 := by decide
-- R65: a bundle that reads a pending register waits.
theorem test_scoreboard_stall : (fg (cx (fun c => { c with pend := [.s 1] }) live) (.addi (lone 0) 6 1 1)).pc = 0 ∧
    (fg (cx (fun c => { c with pend := [.s 1] }) live) (.addi (lone 0) 6 1 1)).stall = 1 := by decide
-- R164: a comparison that does not hold makes WAITC wait.
theorem test_waitc_waits : (fg live (.waitc (lone 0) 0 1 0 0)).pc = 0 := by decide

/-! ### Decoding a bundle (R87 to R89): words written field by field from the format tables -/

-- SR (R92): op, sD 6, sA 1, sB 2, fn 1. SI: sD 6, sA 1, imm14 -1.
theorem test_decode_s : decodeSlot (lone 0) 0 (0x01#6 ++ 6#6 ++ 1#6 ++ 2#6 ++ 1#8) = .alu (lone 0) 6 1 2 1 ∧
    decodeSlot (lone 0) 0 (0x03#6 ++ 6#6 ++ 1#6 ++ 0x3FFF#14) = .addi (lone 0) 6 1 0x3FFF := by decide
-- R118: g 1, aA 2, aB 3, sK 4. R137: g, aC, sS.
theorem test_decode_m : decodeSlot (lone 0) 1 (0x02#6 ++ 1#2 ++ 2#4 ++ 3#4 ++ 4#6 ++ 0#10) = .mmaBf16 (lone 0) 1 2 3 4 0 ∧
    decodeSlot (lone 0) 1 (0x0A#6 ++ 1#2 ++ 2#4 ++ 5#6 ++ 0#14) = .mclose (lone 0) 1 2 5 0 := by decide
-- VR (R112): vD 3, vA 1, vB 2, p 4, fn 2. VC: pD 5, RSV 0, vA 1, vB 2, p 4, RSV 0, cond 3.
theorem test_decode_v : decodeSlot (lone 0) 2 (0x01#6 ++ 3#5 ++ 1#5 ++ 2#5 ++ 4#3 ++ 2#8) = .vfp (lone 0) 3 1 2 4 2 ∧
    decodeSlot (lone 0) 2 (0x06#6 ++ 5#3 ++ 0#2 ++ 1#5 ++ 2#5 ++ 4#3 ++ 0#4 ++ 3#4) = .vcmp (lone 0) 5 1 2 4 3 0 := by decide
-- XS (R99): sD 6, aB 2, u 1, imm15 4. R108: SADD sD, sObj, sVal. R254: SSTART sD, sCtx.
theorem test_decode_x : decodeSlot (lone 0) 3 (0x01#6 ++ 6#6 ++ 2#4 ++ 1#1 ++ 4#15) = .ldw (lone 0) 6 2 true 4 ∧
    decodeSlot (lone 0) 3 (0x20#6 ++ 6#6 ++ 1#6 ++ 2#6 ++ 0#8) = .sadd (lone 0) 6 1 2 0 ∧
    decodeSlot (lone 0) 3 (0x28#6 ++ 6#6 ++ 1#6 ++ 0#14) = .sstart (lone 0) 6 1 0 := by decide
-- R87: S is the lowest word of the bundle and X the highest; R88, R89: opcode 0 is NOP, opcode 0x3F is defined in no slot.
theorem test_decode_bundle : decodeBundle 0 ((0x20#6 ++ 6#6 ++ 1#6 ++ 2#6 ++ 0#8) ++ 0#32 ++ (0x3F#6 ++ 0#26) ++ (0x0E#6 ++ 0#26)) =
    [.halt ⟨0, true⟩ 0, .reservedOpcode ⟨0, true⟩ 1 0xFC000000, .nop ⟨0, true⟩ 2 0, .sadd ⟨0, false⟩ 6 1 2 0] := by decide

/-! ### Tile events, pools, streams, queues and synchronisation: witnesses -/

def halted : Dev := tl (fun x => { x with fg := { x.fg with run := false }, sel := none }) live
def fence (u : FUnit) (d : Dev) : Dev := { d with flt := { d.flt with fenced := d.flt.fenced.set u.code true } }
def off (p : Page) (d : Dev) : Dev := d.setPreg p blkCtrl 0
def withCtx (a b : Bool) (sel : Option Bool) (d : Dev) : Dev :=
  tl (fun x => { x with fg := { x.fg with run := a }, bg := { x.bg with run := b }, sel := sel }) d

/-- A buffered store; a foreground that may preempt; a background that may take over from a foreground that has stalled for exactly the threshold, here 1,
at a pending register; and a ring wait that has lasted exactly the limit, 256 at the least. -/
theorem witness_TileEvents : live.coreUp = true ∧
    (((after live (.stb (lone 0) 5 2 false 0)).tile 0).wcb[0]?).isSome = true ∧
    (let d := (withCtx true true (some true) live).setPreg (.tile 0) 0x88 0x100
     d.coreUp = true ∧ d.tileLive 0 = true ∧ (d.tile 0).sel = some true ∧ (d.tile 0).switching = 0 ∧ (d.tile 0).fg.run = true ∧
     (d.tile 0).fg.halting = none ∧ (∀ n ∈ (d.tile 0).fg.waits, d.lacks 0 false n = false) ∧ bit (d.preg (.tile 0) 0x88) 8 = true) ∧
    (let d := cx (fun c => { c with stall := 1, pend := [.s 1], waits := [.reg (.s 1)] }) ((withCtx true true (some false) live).setPreg (.tile 0) 0x88 0x10200)
     d.coreUp = true ∧ d.tileLive 0 = true ∧ (d.tile 0).sel = some false ∧ bit (d.preg (.tile 0) 0x88) 9 = true ∧
     (d.tile 0).switching = 0 ∧ ((d.tile 0).ctx true).run = true ∧ ((d.tile 0).ctx true).halting = none ∧ ((d.tile 0).ctx true).waits = [] ∧
     max 1 (fld (d.preg (.tile 0) 0x88) 16 8) = (d.ctx 0 false).stall) ∧
    (let d := withPort (inPort false) (cx (fun c => { c with stall := 1, ringWait := 256, waits := [.ring 1 false] }) (live.setPreg (.stream 0) 0x80 0x10))
     d.coreUp = true ∧ (d.tile 0).slots = [] ∧ (d.tile 0).sel = some false ∧ (d.ctx 0 false).run = true ∧ Need.ring 1 false ∈ (d.ctx 0 false).waits ∧
     max 256 (d.preg (.stream 0) 0x80).toNat = (d.ctx 0 false).ringWait) := by decide

/-- A halted context with and without a valid TRAP record, one beside a background that runs, a running one, and a counter with and without a latched high word. -/
theorem witness_TileRegisters :
    (∀ trap : Bool, let d := cx (fun c => { c with trap := if trap then 0x80000000 else 0 }) halted
     d.pageAnswers (.tile 0) = true ∧ d.isSpare 0 = false ∧ d.pageFenced (.tile 0) = false ∧ bit (1#32) 1 = false ∧ (d.tile 0).bg.run = false ∧
     bit (1#32) 0 = true ∧ (d.tile 0).sel = none ∧ (d.tile 0).fg.run = false ∧ bit (d.tile 0).fg.trap 31 = trap) ∧
    (let d := withCtx false true (some true) live
     (d.tile 0).sel = some true ∧ bit (3#32) 0 = true ∧ bit (3#32) 1 = true ∧ (d.tile 0).fg.run = false ∧ (d.tile 0).bg.run = true) ∧
    (live.pageAnswers (.tile 0) = true ∧ (live.tile 0).bg.run = false ∧ bit (0#32) 0 = false ∧ (live.tile 0).fg.run = true ∧ (live.tile 0).sel = some false) ∧
    live.latch.get? (latchKey .bar0 ((Page.tile 0).base + 0x150)) = none ∧
    ({ live with latch := live.latch.set (latchKey .bar0 ((Page.tile 0).base + 0x100)) 7 }).latch.get? (latchKey .bar0 ((Page.tile 0).base + 0x100)) = some 7 := by
  decide

def heldWrite : PoolWrite := { seq := 0, tile := 0, bg := false, addr := 0x40, bytes := [1], back := .none }
def poolRead : Dev :=
  cx (fun c => { c with pend := [.s 6], loads := [{ dest := .s 6, addr := 0x7C, shape := ⟨4, false⟩, pred := 0, lines := [1], data := ⟨[]⟩ }] })
    { live with poolOps := ⟨[(poolKey 0 1, [.window [(0, false, .s 6)], .write heldWrite])]⟩ }
def putItem (addr : Nat) (lc : Option Nat) : PutItem :=
  { src := 17, bg := false, glob := none, lcore := 0, row := 0, lpos := 0, addr := addr, bytes := [1, 2, 3, 4], lc := lc,
    spot := some (.spad 0 addr), status := 0, seq := 0 }
/-- Tile 0 with a landing window from 0 to the queue table and one write on its way to it. -/
def withPut (addr : Nat) (lc : Option Nat) : Dev :=
  { tl (fun x => { x with spad := x.spad.setWord 0x4FD0C 0x48000 }) live with puts := [putItem addr lc] }
def takesPut (d : Dev) : Option (PutItem × List PutItem) := takeAfter PutItem.before d.puts 0

/-- The last word of a line of the pool with a write held behind its window; the last word inside a landing window, counted and not, and the first
one outside of it; a halted and a running tile. -/
theorem witness_TileArrivals :
    (poolRead.coreUp = true ∧ poolRead.poolOps.cells = [(poolKey 0 1, [.window [(0, false, .s 6)], .write heldWrite])] ∧
     heldWrite.back = .none ∧ (poolRead.ctx 0 false).halting = none ∧ (poolRead.ctx 0 false).loads.length = 1 ∧
     (∀ l ∈ (poolRead.ctx 0 false).loads, l.dest = .s 6 ∧ l.lines = [1]) ∧ 64 * 1 ≤ 0x7C ∧ 0x7C + 4 ≤ 64 * 1 + 64) ∧
    (∀ lc : Bool, let p := putItem 0x47FFC (if lc then some 63 else none)
     let d := withPut 0x47FFC (if lc then some 63 else none)
     d.coreUp = true ∧ takesPut d = some (p, []) ∧ d.msgs = [] ∧ p.glob = none ∧ p.spot = some (.spad 0 p.addr) ∧ p.status = 0 ∧ d.isFenced (.tile 0) = false ∧ d.isFenced (.core 0) = false ∧
     p.addr + p.bytes.length = 0x48000 ∧ (d.tile 0).inWindow p.addr p.bytes.length = true ∧ (d.tile 0).lwatch.get? 63 = none) ∧
    (let d := tl (fun x => { x with spad := x.spad.setWord 0x4FD0C 0x47FFC }) (withPut 0x47FFC none)
     takesPut d = some (putItem 0x47FFC none, []) ∧ (d.tile 0).inWindow 0x47FFC 4 = false) ∧
    (live.mc.stage.full = true ∧ live.coreEnabled 0 = true ∧ (live.tile 0).fg.run = true ∧ (halted.tile 0).fg.run = false ∧
     (halted.tile 0).bg.run = false ∧ (∀ cls, halted.ingress.get? (ingressKey 0 cls) = none) ∧ 0x4FBFF + 1 ≤ 0x4FC00 ∧
     (0x480FC : Fin 0x50000).val = 0x48000 + 16 * 15 + 4 * (3 : Fin 4).val ∧ [1#8, 2, 3, 4].length = 4) := by decide

/-- LEN 1,024, one iteration (no LOOP): a stage of core 0, context 5, that copies 1 KiB of the core pool from byte 0 to byte 0x1000. -/
def copyProg : List DWord := [packFields 64 [(0, 1024), (60, 3)], 0]
def copyRun : StageRun :=
  { head := 5, iter := 0, off := 0, got := [], gotHole := false, units := 0, spoilt := false, tail := [], blocks := 0, scales := []
    slotHole := false, ringGone := none, ring := none, prog := copyProg
    taken := 0, age := 0, ending := none }
def copying (run : StageRun) : Dev :=
  let w (d : Dev) (k : Nat) (v : Word) : Dev := d.wr (ctxAddr 0 5 + 4 * k) v
  let d := w (w (w (w (w live 0 (packFields 32 [(0, 1), (1, 1), (3, 1)])) 1 0) 2 0x10000) 6 0x1000) 14 1
  let d := (d.setPreg (.stream 0) 0x108 0x40000).setPreg (.stream 0) 0x10C 0xF
  d.setRun 0 5 run
def copySeg : Segment :=
  { id := 0, core := 0, ctx := 5, iter := 0, off := 0, len := 1024, src := some 0, x := 0, redirected := false, spot := none, wtids := [],
    mesh := false, phase := .reading }

/-- The same stage before its start, its program at byte 0x2000 of the pool; s6 names it. -/
def startable : Dev :=
  let d := (({ copying copyRun with stages := ⟨[]⟩ }).wr (ctxAddr 0 5 + 56) 0).wr (ctxAddr 0 5 + 12) 0x2000
  cx (fun c => { c with s := c.s.set 6 5 })
    (d.modPool 0 fun m => m.writeBytes 0x2000 (copyProg.flatMap fun (w : DWord) => bytesLE 8 w.toNat))

/-- A context whose program copies 1 KiB may start; while the page is off it is refused with code 14, and an invalid one with code 1; and one
that runs is in state 1. -/
theorem witness_StreamStart :
    (st startable).ready 0 false ∧ (st startable).met 0 false [Need.poolStores] ∧ ((startable.ctx 0 false).rs 6).toNat % 1024 = 5 ∧
    (let d := startable.modTile 0 fun x => x.flushOf false
     d.startCode 0 5 = 0 ∧ d.ctxState 0 5 = 0 ∧ (off (.stream 0) d).startCode 0 5 = 14 ∧ d.startCode 0 6 = 1) ∧
    (st (copying copyRun)).ready 0 false ∧ ((copying copyRun).modTile 0 fun x => x.flushOf false).ctxState 0 5 = 1 := by
  refine ⟨?_, ?_, ?_, ?_, ?_, ?_⟩ <;> (try unfold State.ready) <;> (try unfold State.met) <;> decide

theorem witness_StreamSegments :
    (let d := copying copyRun
     let ds := d.desc 0 5
     let p := parseProg copyProg
     d.coreUp = true ∧ d.isFenced (.core 0) = false ∧ d.runningCtxs 0 = [5] ∧ d.stageRun 0 5 = some copyRun ∧
     p.isSome = true ∧ p.map (fun p => p.len) = some 1024 ∧ p.map (fun p => p.total) = some 1 ∧ (p.bind fun p => p.gath) = none ∧
     (p.bind fun p => p.pad) = none ∧ copyRun.ending = none ∧ ds.srcKind = 1 ∧ ds.dstKind = 1 ∧ ds.gate = false ∧ ds.res = 0 ∧
     d.regionOk 0 ds.regions false true 0 1024 = true ∧ copyRun.age < max 1 (fld (d.preg (.stream 0) 0x84) 0 16)) ∧
    (let d := { copying { copyRun with iter := 1 } with segs := [copySeg], segId := 1 }
     let ds := d.desc 0 5
     d.coreUp = true ∧ d.stageRun 0 5 = some { copyRun with iter := 1 } ∧ copySeg.phase = .reading ∧ d.outReqs = [] ∧ ds.converts = false ∧
     copyRun.got = [] ∧ copyRun.gotHole = false ∧ copyRun.units = 0 ∧ copyRun.spoilt = false ∧ copyRun.scales = [] ∧ copyRun.ending = none ∧ copySeg.off = 0 ∧
     d.mirQ = [] ∧ d.hasProducer 0 5 = false ∧ (d.loseSeg copySeg 255).inc = d.inc ∧
     (parseProg copyProg).map (fun p => p.len) = some copySeg.len ∧ d.poolOps.cells = [] ∧
     copySeg.len % 4 = 0 ∧ 0 < copySeg.len ∧ d.regionOk 0 ds.regions true true 0x1000 1024 = true) ∧
    (let d := copying { copyRun with iter := 1 }
     d.fc.armed = false ∧ d.hasSegs 0 5 = false ∧ (∀ j ∈ d.runningCtxs 0, j ≠ 5 → (d.desc 0 j).dstKind = 2 → (d.desc 0 j).next ≠ 5)) ∧
    live.pageAnswers (.stream 0) = true ∧ bit (1#32) 0 = true := by decide

def fly (m : Msg) (dest : QDest) : MsgFly := { msg := m, dest := dest, fwd := none, seq := 0 }
def req0 : Msg := msg0 false 0 [7]
def withCells (n : Nat) (d : Dev) : Dev := d.setPreg (.pool 0) 0x8C (BitVec.ofNat 32 (256 * n))
def arriving (dest : QDest) (d : Dev) : Dev := { d with msgs := [fly req0 dest] }

/-- What may become of a message: placed, spilled (in spill mode, a cell free), held (no cell, or no room), discarded (the queue absent, or its tile
fenced), behind another. One that waits with and without a free cell, and a spilled one with and without room. -/
theorem witness_QueueUnits_tiles :
    (let d := arriving (.tile 0 0) queued
     d.coreUp = true ∧ d.takeMsg 0 = some (fly req0 (.tile 0 0), []) ∧ d.hostInj.cells = [] ∧ d.ingress.get? (ingressKey 0 false) = none ∧
     (d.tile 0).qAbsent 0 = false ∧ d.isFenced (.tile 0) = false ∧ d.isFenced (.core 0) = false ∧ (d.tile 0).qSpilling 0 = false ∧
     ((d.tile 0).place 0 req0).isSome = true ∧ (fence (.tile 0) d).isFenced (.tile 0) = true ∧ (live.tile 0).qAbsent 0 = true) ∧
    (let d := withCells 2 (tl (fun x => x.setQStat 0 1 true 1) (arriving (.tile 0 0) queued))
     (d.tile 0).qAbsent 0 = false ∧ (d.tile 0).qSpilling 0 = true ∧ d.cellFree 0 false = true ∧ (withCells 0 d).cellFree 0 false = false) ∧
    (let big := msg0 false 0 (List.replicate 62 0)
     ((withQueue 0 live).tile 0).place 0 big ≠ none ∧ (queued.tile 0).place 0 big = none) ∧
    (let d := withCells 2 { queued with ingress := queued.ingress.set (ingressKey 0 false) (fly req0 (.tile 0 0)), spilled := queued.spilled.set 0 [req0] }
     d.ingress.get? (ingressKey 0 false) = some (fly req0 (.tile 0 0)) ∧ d.cellFree 0 false = false ∧ (withCells 3 d).cellFree 0 false = true ∧
     d.spillOf 0 0 = [req0]) := by decide

def cq (kind : Nat) (d : Dev) : Dev :=
  { d.wr (coreBase 0 + 0x8000) (BitVec.ofNat 32 kind) with coreQ := d.coreQ.set 0 [req0] }
def line0 : ChanLine := { sender := 1, dest := 2, msgs := 3, stall := 4, spills := 5 }
theorem witness_QueueUnits_core :
    (let d := withCells 2 (arriving (.core 0 0) live)
     d.coreUp = true ∧ d.takeMsg 0 = some (fly req0 (.core 0 0), []) ∧ d.hostInj.cells = [] ∧ d.isFenced (.core 0) = false ∧
     d.cellFree 0 false = true ∧ (withCells 0 d).cellFree 0 false = false ∧ (fence (.core 0) d).isFenced (.core 0) = true) ∧
    (let d := cq 1 live
     d.coreQOf 0 0 = [req0] ∧ d.pageOn (.queue 0) = true ∧ fld (d.cqCfg 0 0) 0 2 = 1 ∧ fld (d.cqCfg 0 0) 10 4 < 12 ∧
     (8 ≤ fld (d.cqCfg 0 0) 2 4 ↔ req0.cls = true) ∧ d.cqMoving 0 0 = false ∧ d.ingress.get? (ingressKey 0 false) = none) ∧
    (let d := cq 2 live
     fld (d.cqCfg 0 0) 0 2 = 2 ∧ d.pageAnswers (.queue 0) = true ∧ fld (0#32) 0 10 = 0 ∧ req0.payload.length ≤ 62) ∧
    (fld (BitVec.ofNat 32 (62 * 65536)) 16 6 = 62 ∧ live.destOf 0 0 = some (.tile 0 0) ∧ live.destOf 0 0xFE00 = none ∧
      (live.hostInj.set 0 (fly req0 (.tile 0 0))).get? 0 = some (fly req0 (.tile 0 0)) ∧ live.hostInj.get? 0 = none) ∧
    (let wait (t : Nat) (m : Msg) (q : Nat) (d : Dev) : Dev := { d with ingress := d.ingress.set (ingressKey t false) (fly m (.tile t q)) }
     let d := wait 1 { req0 with sender := live.tileSender 0 false } 0 (wait 0 { req0 with sender := live.tileSender 1 false } 0 (withCells 0 live))
     (d.ingress.get? (ingressKey 0 false)).isSome = true ∧ (d.ingress.get? (ingressKey 1 false)).isSome = true ∧
     d.cellLeft (tileCore 0) false = false ∧ d.sentBy { req0 with sender := live.tileSender 1 false } 1 = true ∧
     d.sentBy { req0 with sender := live.tileSender 0 false } 0 = true) ∧
    (let d := { live with chanFly := [line0], chanTotal := [{ sender := 1, dest := 2, msgs := 0, stall := 0, spills := 0 }] }
     d.chanFly = [] ++ line0 :: [] ∧ d.chanTotal.length = 1 ∧ (∀ x ∈ live.chanTotal, ¬ (x.sender = 1 ∧ x.dest = 2)) ∧ live.chanTotal.length < 16384) := by
  decide

def syncIn (c : SyncChan) (w : SyncWhat) (d : Dev) : Dev := { d with syncs := [{ chan := c, core := 0, what := w }] }
def taken (d : Dev) : Bool := (takeInOrder SyncFly.chanKey d.syncs 0).isSome
/-- Each operation at the front of a tile's channel, its reply awaited or not; a watch; and an open realign, a page that is off, and a fenced core. -/
theorem witness_SyncOperations :
    (∀ w ∈ [SyncWhat.add 1 5 (some (0, false, 6)), .set 1 5 none, .cas 1 0 5 none, .watch 1 0 true 0 false 8],
      let d := syncIn (.tile 0 false) w live
      d.coreUp = true ∧ taken d = true ∧ d.realign = false ∧ d.pageOn (.sync 0) = true ∧ d.isFenced (.core 0) = false) ∧
    meets true (live.objVal 0 1) 0 = true ∧ meets false (live.objVal 0 1) 1 = false ∧ (off (.sync 0) live).pageOn (.sync 0) = false ∧
    (fence (.core 0) live).isFenced (.core 0) = true ∧ (SyncFly.isArrival { chan := .tile 0 false, core := 0, what := .set 1 5 none }) = false ∧
    SyncFly.passes { chan := .tile 0 false, core := 0, what := .set 1 5 none } = false ∧ (live.ctx 0 false).halting = none := by
  decide

/-- An open realign of core 0 alone, with a pair of objects that differ. -/
def realigning : Dev :=
  let d := { live with realign := true, fuses := { live.fuses with coreMask := 1 } }
  ((d.wr (objAddr 0 1 + 4) 0x6002).wr (objAddr 0 2 + 4) 0x6001).wr (objAddr 0 1) 3

theorem witness_SyncControl :
    (live.pageAnswers (.sync 0) = true ∧ live.realign = false ∧ live.isFenced (.core 0) = false ∧ (∀ f ∈ live.syncs, f.chan ≠ .host 0) ∧
     live.coreHalted 0 = false ∧ halted.coreHalted 0 = true) ∧
    (let d := live.setPreg (.debug 0) blkCtrl 1
     d.pageAnswers (.debug 0) = true ∧ d.pageOn (.debug 0) = true ∧ bit (d.preg (.debug 0) 0x8C) 0 = false ∧ d.evr.queue.length < 256 ∧
     ∀ f ∈ d.syncs, f.chan ≠ .force 0 true) ∧
    (let d := { live with syncHeld := [{ chan := .host 0, core := 0, what := .set 1 5 none }] }
     d.hopBusy 0 = true ∧ live.hopBusy 0 = false ∧ bit (1#32) 0 = true ∧ bit (2#32) 0 = false) ∧
    (let d := (realigning.setPreg (.sync 0) blkMask 8).setBarSlot 0 254 false lvlDie { BarSlot.reset with count := 1, mask := 1 }
     d.coreUp = true ∧ d.realign = true ∧ d.realignReady = true ∧ realigning.realignReady = false ∧
     (∀ k, k < 8 → (d.realigns k = true ↔ k = 0)) ∧ d.isMasked (.sync 0) 3 = true ∧ bit (d.objCtl 0 1) 13 = true ∧ d.partner 0 1 = some 2 ∧
     d.objVal 0 1 ≠ d.objVal 0 2 ∧ d.watches = []) := by decide

/-- Barrier 0 of core 0 with `scope`; row 0 expects 2 tiles, the other rows none. -/
def barOf (scope : Word) (row0 : Nat) : Dev :=
  ((live.setPreg (.sync 0) 0x400 scope).setPreg (.sync 0) 0x800 (BitVec.ofNat 32 row0)).setPreg (.sync 0) 0x804 0
def arrival : SyncWhat := .arrive 0 false 0
/-- Scopes 0 to 4; a row that awaits none, one or two; a core whose only expected row arrives, and one with another row still out; the die level with one
and with two cores expected; releases of each level; and a timeout at a slot that counts. -/
theorem witness_BarrierTree :
    (∀ scope : Fin 5, ∀ n : Fin 3, let d := syncIn (.tile 0 false) arrival (barOf (BitVec.ofNat 32 (scope.val + 0x100)) n.val)
     d.coreUp = true ∧ taken d = true ∧ d.isFenced (.core 0) = false ∧ d.realign = false ∧ d.pageOn (.sync 0) = true ∧
     d.barScope 0 0 = scope.val ∧ d.barRow 0 0 0 = n.val ∧ (d.barSlot 0 0 false 0).count = 0 ∧
     (∀ r, r < 12 → d.barRow 0 0 r = 0 ∨ bit (setBit (0#17) 0 true) r = true)) ∧
    (let d := (barOf 2 1).setPreg (.sync 0) 0x800 0x21
     ¬ ∀ r, r < 12 → d.barRow 0 0 r = 0 ∨ bit (setBit (0#17) 0 true) r = true) ∧
    (∀ two : Bool, let d := syncIn (.unit 0) (.arriveDie 0 false 0) (barOf (if two then 0x303 else 0x103) 1)
     taken d = true ∧ bit (d.barCmask 0 0) 0 = true ∧ bit (d.barCmask 0 0) 7 = false ∧ bit (d.barSlot 0 0 false lvlDie).mask 0 = false ∧
     ((∀ k, k < 8 → bit (d.barCmask 0 0) k = true → bit (setBit (0#17) 0 true) k = true) ↔ two = false)) ∧
    (∀ f ∈ [({ chan := .unit 0, core := 0, what := .arriveDie 254 false 0 } : SyncFly), { chan := .tile 0 false, core := 0, what := arrival }],
     let d := { live with realign := true, syncs := [f] }
     taken d = true ∧ f.isArrival = true ∧ f.chan.isForce = false ∧ f.chan.isHost = false ∧ (f.passes = false ↔ f.what = arrival)) ∧
    (∀ level : Fin 3, let d := { live with rels := [{ level := level.val, core := 0, row := 0, bar := 0, gen := false, round := 1 }] }
     (takeInOrder (fun r : RelFly => (r.level, r.core, r.row, r.bar)) d.rels 0).isSome = true) ∧
    (let d := live.setBarSlot 0 0 false 0 { BarSlot.reset with count := 1 }
     (d.barSlot 0 0 false 0).count ≠ 0 ∧ (d.barSlot 0 0 false 0).timed = false ∧ (live.barSlot 0 0 false 0).count = 0 ∧ live.core0 = 0 ∧
     (live.setFabSlot 0 false { FabSlot.reset with state := .sent }).fabSlot 0 false = { FabSlot.reset with state := .sent }) := by decide

def jetPkt (sub fields : Nat) (body : List Byte) : Pkt :=
  { type := 9, vc := 2, dst := 0, src := 5, rs := 0, ttl := 1, epoch := 0, w1 := sub + 256 * fields, body := body }
def pktIn (k : Pkt) (d : Dev) : Dev := { d with diePkts := [k] }
def pktOf (d : Dev) (src : PktSrc) (vc : Nat) : Option Pkt := (d.arrived src vc).map fun x => x.1
/-- Port 2 is ACTIVE and has received a packet on a VC. -/
def portPkt (k : Pkt) (rp : Bool) (stamp : Nat) (d : Dev) : Dev :=
  d.setFport 2 { Fport.reset with state := .active, vcs := Tbl.empty.set k.vc { PortVc.reset with rx := [{ bytes := k.bytes, stamp := stamp, rp := rp }] } }
/-- `n` children, this package the root or not; the die level complete. -/
def tree (n : Nat) (root : Bool) (d : Dev) : Dev :=
  (d.setPreg (.sync 0) 0xA8 (BitVec.ofNat 32 n)).setPreg (.sync 0) 0xA4 (if root then 0x10000 else 1)
theorem witness_BarrierFabric :
    (∀ root : Bool, ∀ n : Fin 3, let d := (tree n.val root (portPkt (jetPkt 0 0 []) false 0 live)).setFabSlot 0 false { FabSlot.reset with state := .counting, die := true }
     d.coreUp = true ∧ d.rootUnitOn = true ∧ pktOf d (.port 2) 2 = some (jetPkt 0 0 []) ∧ d.position = 0 ∧ d.epoch = 0 ∧ d.fabChildren = n.val ∧
     d.fabRoot = root ∧ (d.fabSlot 0 false).die = true ∧ (d.fabSlot 0 false).state = .counting ∧ (d.fabSlot 0 false).children.length = 0) ∧
    (∀ n : Fin 3, let slot : FabSlot := { FabSlot.reset with state := .sent, children := List.range n.val }
     let d := (tree n.val false (portPkt (jetPkt 1 253 []) false 0 live)).setFabSlot 253 false slot
     pktOf d (.port 2) 2 = some (jetPkt 1 253 []) ∧ (jetPkt 1 253 []).sub = 1 ∧ fld (jetPkt 1 253 []).jetFields 0 8 = 253 ∧
     d.fabSlot 253 false = slot ∧ slot.children.length = d.fabChildren ∧ (live.fabSlot 253 false).state ≠ .sent) ∧
    live.pageAnswers (.sync 0) = true ∧ live.coreHalted 0 = false ∧ halted.coreHalted 0 = true ∧
    (let d := (barOf 4 1).setPreg (.debug 0) blkCtrl 1
     d.pageAnswers (.debug 0) = true ∧ d.pageOn (.debug 0) = true ∧ bit (d.preg (.debug 0) 0x8C) 0 = false ∧ d.realign = false ∧
     d.evr.queue.length < 256 ∧ (∀ f ∈ d.syncs, f.chan ≠ .force 0 false) ∧ d.barScope 0 0 = 4 ∧ d.barScope 0 253 = 0 ∧ d.isFenced (.core 0) = false ∧ d.core0 = 0 ∧
     ∀ scope : Fin 4, (barOf (BitVec.ofNat 32 scope.val) 1).barScope 0 0 = scope.val) := by
  decide

/-! ### Fabric time, forecast, links and packets: witnesses -/

def tmb (f : Tmb → Tmb) (d : Dev) : Dev := { d with tmb := f d.tmb }
def fcu (f : Fc → Fc) (d : Dev) : Dev := { d with fc := f d.fc }
/-- Time parent port 2, a child with discipline on. -/
def child (d : Dev) : Dev := d.setPreg .tmb 0x80 0x11
def asking (hit : Bool) (d : Dev) : Dev := tmb (fun m => { m with state := .acquire, reqs := [{ seq := 0, t1 := some 100, hit := hit }] }) d
/-- t2 and t3 of a reply, its state of the parent LOCKED. -/
def rplPkt (epoch t2 t3 : Nat) : Pkt := { jetPkt 4 0x20000 (bytesLE 16 t2 ++ bytesLE 16 t3) with epoch := epoch }

/-- A request of either kind; an accepted reply, one of another epoch, and one that names no request; corrections of 64 ft, within one eighth and one
beyond; the 63rd and the 64th bad request. -/
theorem witness_TimeExchange :
    (let d := child live
     d.mainUp = true ∧ d.timeParent = some 2 ∧ d.discOn = true ∧ d.isMaster = false ∧ live.discOn = false ∧ d.tmb.lastReq = none) ∧
    (max 1000 (fld ((child live).preg .tmb 0xA0) 0 16) = 4000 ∧ max 1000 (fld ((live.setPreg .tmb 0xA0 999).preg .tmb 0xA0) 0 16) = 1000 ∧
      max 1000 (fld ((live.setPreg .tmb 0xA0 1001).preg .tmb 0xA0) 0 16) = 1001) ∧
    ((0 + 65536 - 0) % 65536 = 0 ∧ 0 < (1 + 65536 - 0) % 65536 ∧ (0x7FFF + 65536 - 0) % 65536 < 0x8000 ∧ 0x8000 ≤ (0x8000 + 65536 - 0) % 65536) ∧
    (∀ rp : Bool, pktOf (portPkt (jetPkt 3 0 []) rp 0 live) (.port 2) 2 = some (jetPkt 3 0 []) ∧ (jetPkt 3 0 []).sub = 3 ∧ (jetPkt 3 0 []).type = 9 ∧
      (jetPkt 3 0 []).vc = 2 ∧ (jetPkt 3 0 []).dst = live.position ∧ live.clocked = true) ∧
    (let k := rplPkt 0 160 160
     let d := asking false (child (portPkt k false 220 live))
     pktOf d (.port 2) 2 = some k ∧ k.sub = 4 ∧ d.tmb.reqs.find? (fun x => x.seq == fld k.jetFields 0 16) = some ⟨0, some 100, false⟩ ∧
     ofBytesLE (k.body.take 16) = 160 ∧ ofBytesLE ((k.body.drop 16).take 16) = 160 ∧
     d.rplOk k { bytes := k.bytes, stamp := 220, rp := false } 100 160 160 220 60 0 = true ∧
     d.timeParent = some 2 ∧ (rplPkt 1 160 160).epoch ≠ d.epoch ∧ d.tmb.state ≠ .locked ∧ live.tmb.reqs.find? (fun x => x.seq == 0) = none) ∧
    (let d := tmb (fun m => { m with good := 6 }) (asking true live)
     d.tmb.state = .acquire ∧ d.tmb.samples = [] ∧ d.tmb.good < 7 ∧ (512 : Int) < 513 ∧ (-513 : Int) < -512) ∧
    (∀ hit : Bool, (asking hit live).tmb.reqs.find? (fun x => x.seq == (0#16).toNat) = some ⟨0, some 100, hit⟩) ∧
    (tmb (fun m => { m with state := .locked, bad := 62 }) live).tmb.bad < 63 := by decide

theorem witness_TimeStates :
    (live.mainUp = true ∧ live.tmb.absent = false ∧
      (({ live with tmb := { live.tmb with present := false, absent := true } } : Dev).raise .tmb 0).tmb.state ≠ .lost) ∧
    (tmb (fun m => { m with absent := true }) live).tmb.absent = true ∧
    (let d := tmb (fun m => { m with state := .holdover, since := 5 }) live
     let max := (d.preg .tmb 0xA4).toNat
     d.tmb.state = .holdover ∧ d.tmb.since + max ≤ ({ d with ns := max + 5 } : Dev).ns ∧ ¬ d.tmb.since + max ≤ ({ d with ns := max + 4 } : Dev).ns) ∧
    live.tmb.state ≠ .holdover ∧
    (∀ n : Fin 20, (tmb (fun m => { m with phase := 3, time8 := 8 * n.val }) live).atEdge = (n == 3)) ∧
    (∀ n : Fin 20, (tmb (fun m => { m with phase := 3, time8 := 8 * n.val + 7 }) live).atEdge = (n == 3)) ∧ live.tmb.state ≠ .lost ∧
    bit ((live.setPreg .tmb 0x80 4).preg .tmb 0x80) 2 = true ∧ bit (live.preg .tmb 0x80) 2 = false ∧
    live.pageAnswers .tmb = true ∧ bit (live.preg .tmb 0x80) 0 = false ∧ bit (1#32) 0 = true ∧ live.tmb.state = .free ∧ live.fc.armed = false ∧
    (let d := tmb (fun m => { m with state := .acquire }) (child live)
     bit (d.preg .tmb 0x80) 0 = true ∧ ((0x13#32 &&& 0x7F#32) ^^^ d.preg .tmb 0x80) &&& 0x7A#32 ≠ 0 ∧
     ((0x10#32 &&& 0x7F#32) ^^^ d.preg .tmb 0x80) &&& 0x7A#32 = 0 ∧ bit (0x10#32) 0 = false ∧ d.tmb.state ≠ .free) := by decide

/-- Slot 0, compute, and slot 1, exchange, of 128 ft each; slot 1 is the last of its superstep, which wraps to slot 0 or stops (R370). -/
def table (stop : Bool) (d : Dev) : Dev :=
  let w (d : Dev) (a v : Nat) : Dev := d.wr (0x40000 + a) (BitVec.ofNat 32 v)
  let d := w (w (w (w d 8 128) 32 128) 40 128) 48 (if stop then 0x29 else 0x19)
  (d.setPreg .tmb 0x208 2).setPreg .tmb 0x210 20000
def good (d : Dev) : Dev := tmb (fun m => { m with state := .master, time8 := 80000 }) d
def opened (slot : Nat) (done : Bool) : OpenSlot := { slot := slot, sstep := 0, want := [], done := done, events := [] }
def open0 (done : Bool) : OpenSlot := opened 0 done
/-- Armed and begun at origin 10,000, which is now; the slot opened or not. -/
def begun (slots : List OpenSlot) (d : Dev) : Dev := fcu (fun f => { f with armed := true, begun := true, origin := 10000, slots := slots }) (good d)
def later (n : Nat) (d : Dev) : Dev := tmb (fun m => { m with time8 := m.time8 + 8 * n }) d

def phased (n : Nat) (d : Dev) : Dev := tmb (fun m => { m with phase := n }) d

theorem witness_ForecastSteps :
    (let d := table false (good live)
     d.pageAnswers .tmb = true ∧ d.pageOn .tmb = true ∧ d.fc.armed = false ∧ d.checkSteps d.fcCount 4097 0 [] = none ∧
     (live.checkSteps live.fcCount 4097 0 []).isSome = true ∧ d.tmb.state.good = true ∧ live.tmb.state.good = false ∧
     d.fcStart = d.now + 10000 ∧ (later 1 d).fcStart < (later 1 d).now + 10000 ∧ d.fc.begun = false) ∧
    (let d := later 256 (begun [open0 true, opened 1 false] (table false live)); d.fc.begun = true ∧ d.allDone = false) ∧
    (let d := begun [] (table false (live.setPreg (.core 0) 0x100 0))
     d.coreUp = true ∧ d.fc.armed = true ∧ d.fc.heldSlip = false ∧ d.fc.begun = true ∧ d.nextSlot = some 0 ∧ (d.slotRec 0).kind = 0 ∧
     d.fc.origin + (d.slotRec 0).offset = d.now ∧ d.curSlot.isSome = false ∧ d.commitHolds = false ∧ d.boundCores = [0] ∧ d.fc.slip = false) ∧
    (∀ stop : Bool, let d := later 256 (begun [open0 true, opened 1 true] (table stop live))
     d.fc.slip = false ∧ d.fc.slipPrev = false ∧ d.fc.origin + d.stepLen = d.now ∧ d.ends = stop ∧ d.allDone = true) ∧
    (∀ early : Bool, let d := fcu (fun f => { f with begun := false, origin := if early then 10001 else 10000 }) (begun [] live)
     d.fc.armed = true ∧ d.fc.begun = false ∧ (d.now < d.fc.origin ↔ early = true) ∧ (d.fc.origin ≤ d.now ↔ early = false)) ∧
    (let d := later 257 ((begun [open0 true, opened 1 true] (table false live)).setPreg .tmb 0x230 1)
     (joinWords (d.preg .tmb 0x234) (d.preg .tmb 0x230)).toNat = 1 ∧ d.fc.rel = none ∧ d.fc.origin + d.stepLen + 1 = d.now) := by decide

/-- A slot that is undone at the sample edge of its deadline, at the first edge after it, and between and after them, and a first slot that has not opened; LULL_N falling 64 ft after the origin and one ft earlier; a SLIP for each superstep near, and
one that is two off. -/
theorem witness_SlipMode :
    (let d := phased 8 (begun [open0 false] (table false live))
     d.coreUp = true ∧ d.fc.armed = true ∧ d.fc.begun = true ∧ (later 127 d).missed = none ∧ (later 128 d).missed = some (open0 false, 0) ∧
     (later 130 d).missed = none ∧ (later 148 d).missed = none ∧ (phased 9 (later 129 d)).missed = some (open0 false, 0) ∧
     (later 128 (fcu (fun f => { f with slots := [] }) d)).missed = some (open0 false, 0) ∧ (open0 false).sstep = d.fc.sstep ∧ d.fc.kids.length = d.fabChildren) ∧
    (let d := phased 3 (begun [open0 false] (table false live))
     d.fc.lullOut = false ∧ d.fc.lullIn = true ∧ (fcu (fun f => { f with lullIn := false }) d).fc.lullIn = false ∧
     d.fc.slip = false ∧ d.fc.slipPrev = false ∧ d.fc.lastRel ≠ some (d.fc.sstep - 1) ∧ d.fc.lulls = false ∧ (later 63 d).atEdge = true ∧
     (later 64 d).atEdge = false ∧ (later 63 d).edgeTime + 1 = d.fc.origin + 64 ∧
     (phased 4 (later 64 d)).atEdge = true ∧ (phased 4 (later 64 d)).edgeTime = d.fc.origin + 64) ∧
    (∀ n ∈ [0, 1, 0xFFFFFFFF, 2, 0xFFFFFFFE], let k := jetPkt 2 n (List.replicate 16 0)
     let d := fcu (fun f => { f with kids := [5] }) (begun [open0 false] (table false (tree 1 true (portPkt k false 0 live))))
     pktOf d (.port 2) 2 = some k ∧ k.sub = 2 ∧ k.epoch = d.epoch ∧ k.dst = d.position ∧ k.jetFields.toNat % 2 ^ 32 = n ∧
     d.fc.known.contains (BitVec.ofNat 32 n) = false ∧ d.fc.kids.length = d.fabChildren ∧ d.fc.kids.Nodup ∧ d.fabRoot = true ∧ k.src ∈ d.fc.kids ∧
     (d.fc.kids.filter fun x => x ≠ k.src) = []) ∧
    ((2#32) - 0).toInt > 1 ∧ ((0xFFFFFFFE#32) - 0).toInt < -1 := by decide

def frame0 (type seq ack : Nat) (payload : List Byte) (units : Nat) : Frame :=
  { type := type, vc := 0, units := units, start := 1, cvc := 0, ccount := 0, rp := false, payload := payload, seq := seq, ack := ack, crcOk := true }
/-- What a statement about a frame needs of its fields. -/
def reads (f : Frame) : Bool × Nat × Nat × Nat :=
  let g := parseFrame (buildFrame f)
  (g.crcOk, g.type, g.units, g.seq)
def lnk (f : Fport → Fport) (d : Dev) : Dev := d.setFport 2 (f { Fport.reset with state := .active })
def retry0 (replays : Nat) : RetryFrame := { seq := 0, vc := 0, units := 1, start := 1, payload := List.replicate 16 0, replays := replays, sent := 0, resent := false }
def wrPkt : Pkt := { type := 2, vc := 0, dst := 0, src := 5, rs := 0, ttl := 1, epoch := 0, w1 := 0, body := List.replicate 16 0 }

theorem reads_eq (f : Frame) (h : f.payload.length ≤ 240) : reads f =
    (let g : DWord := packFields 64 [(0, f.type), (4, f.vc), (6, f.units), (10, f.start), (25, f.cvc), (27, f.ccount), (43, b2n f.rp)]
     (true, fld g 0 4, fld g 6 4, f.seq % 4096)) := by
  simp only [reads, parse_build f h]

/-- Of two frames that differ in the CRC alone, one is wrong. -/
theorem witness_bad_crc : (parseFrame 0).crcOk = false ∨ (parseFrame (BitVec.ofNat 2048 (2 ^ 2016))).crcOk = false := by
  have h : bytesLE 252 (BitVec.ofNat 2048 (2 ^ 2016)).toNat = bytesLE 252 (0 : BitVec 2048).toNat := by decide +kernel
  have h0 : hiWord (((0 : BitVec 2048) >>> 1984).setWidth 64) = 0 := by decide +kernel
  have h1 : hiWord (((BitVec.ofNat 2048 (2 ^ 2016)) >>> 1984).setWidth 64) = 1 := by decide +kernel
  simp only [parseFrame, h, h0, h1]
  generalize crc32c _ = c
  by_cases hc : c = 0
  · right; subst hc; decide
  · left; simpa using hc

/-- A whole packet as DATA, a NULL, a NAK and an EXCH frame whose CRC is right, and a DATA frame of no units. -/
theorem witness_LinkFrames_in : (live.clocked = true ∧ ((lnk id live).fport 2).state = .active) ∧
    reads (frame0 1 0 0xFFF (wrPkt.bytes) 2) = (true, 1, 2, 0) ∧ headerUnits (wrPkt.bytes.take 16) = 2 ∧
    reads (frame0 0 0 0xFFF [] 0) = (true, 0, 0, 0) ∧ reads (frame0 2 0 0xFFF [] 0) = (true, 2, 0, 0) ∧
    reads (frame0 3 0 0xFFF [] 0) = (true, 3, 0, 0) ∧ reads (frame0 1 0 0xFFF [] 0) = (true, 1, 0, 0) ∧
    ((0xFFF + 1 + 4096 - ((lnk id live).fport 2).oldest.toNat) % 4096 = 0) ∧
    -- one behind is a duplicate, 2,048 behind the last one, the next ahead a gap
    (0 + 4096 - 4095) % 4096 ≤ 2048 ∧ (0 + 4096 - 2048) % 4096 ≤ 2048 ∧ 2048 < (0 + 4096 - 2047) % 4096 := by
  rw [reads_eq _ (by decide), reads_eq _ (by decide), reads_eq _ (by decide), reads_eq _ (by decide), reads_eq _ (by decide)]
  decide

theorem witness_LinkFrames_out :
    (let m := live.retryMax 2
     (retry0 (m - 1)).replays < m ∧ m ≤ (retry0 m).replays) ∧
    (let x := (lnk (fun x => { x with nakOut := true }) live).fport 2
     x.nakOut = true ∧ x.retry = [] ∧ x.nakDue = false ∧ x.replay = none ∧ (x.vc 3).tx = [] ∧ (x.vc 0).tx = []) ∧
    (let x := (lnk (fun x => { x with retry := [retry0 0], replay := some 0 }) live).fport 2
     x.replay = some 0 ∧ x.retry[0]? = some (retry0 0)) ∧
    (let bytes := wrPkt.bytes ++ List.replicate 208 0
     let x := (lnk (fun x => x.setVc 0 { PortVc.reset with tx := [(false, bytes)], avail := 15 }) live).fport 2
     (x.vc 0).tx = [(false, bytes)] ∧ (x.vc 0).txOff = 0 ∧ bytes.length = 16 * 15 ∧ 15 ≤ (x.vc 0).avail ∧ (parsePkt bytes).type ≠ 9 ∧
     x.retry.length < 2048) := by decide +kernel

/-- Every state of a link, its reference present and absent, the eighth timeout in a row, and a port that takes the peer's record and one that has it. -/
theorem witness_LinkTraining : live.clocked = true ∧ (∀ p, p < 12 → live.refClock p = true) ∧
    (∀ p, p < 12 → (({ live with pins := { live.pins with fref := 1 } } : Dev).refClock p = true ↔ p < 6)) ∧ live.pageOn (.fport 0) = true ∧ (live.fport 0).state = .disabled ∧ live.pageAnswers (.fport 2) = true ∧ live.isFenced (.port 2) = false ∧
    (∀ s ∈ [LinkState.disabled, .detect, .equalize, .align, .exchange, .active, .down], ((lnk (fun x => { x with state := s }) live).fport 2).state = s) ∧
    ((lnk (fun x => { x with state := .align, fails := 7 }) live).fport 2).fails = 7 ∧
    (let x := (lnk (fun x => { x with lock := 0xFE, rxHold := true }) live).fport 2
     x.lock ≠ 0xFF ∧ x.rxHold = true) ∧
    (let x := (lnk (fun x => { x with state := .exchange }) live).fport 2
     x.exchSent = false ∧ x.exchOk = false ∧ x.flushed = false ∧ x.retry = [] ∧ (0xFFF + 1 + 4096 - x.oldest.toNat) % 4096 ≤ x.retry.length) ∧
    (lnk (fun x => { x with state := .exchange, exchOk := true, retry := [retry0 0] }) live |>.fport 2).exchOk = true := by decide

/-- A peer's EXCH frame, its record with incarnation 0 and restart 0: of a peer that was seen, was not, and was seen in another incarnation. -/
theorem witness_exch :
    (let f := frame0 3 0 0xFFF ((lnk (fun x => { x with peerInc := some 0 }) live).exchPayload 2) 0
     (parseFrame (buildFrame f)).crcOk = true ∧ (parseFrame (buildFrame f)).type = 3 ∧ (parseExch (parseFrame (buildFrame f)).payload).restart = false ∧
     (parseExch (parseFrame (buildFrame f)).payload).inc = 0) ∧
    Fport.reset.peerInc = none ∧ (lnk (fun x => { x with peerInc := some 7 }) live |>.fport 2).peerInc = some 7 := by
  simp only
  rw [parse_build _ (by decide)]
  decide

/-! Requests: HBM at its last byte, a pool, a tile's scratchpad inside and outside its window, and addresses that name nothing. -/

def reqPkt (type addr bytes : Nat) (data : List Byte) : Pkt :=
  { type := type, vc := 0, dst := 0, src := 5, rs := 0, ttl := 1, epoch := 0, w1 := addr, body := bytesLE 16 (bytes * 2 ^ 24) ++ pad16 data }
def spotCode (d : Dev) (a : Nat) : Nat × Nat × Nat := match d.spotBy 0 a 4 with
  | .error n => (0, n, 0)
  | .ok (.hbm a) => (1, a, 0)
  | .ok (.pool c o) => (2, c, o)
  | .ok (.spad t o) => (3, t, o)
def spadA : Nat := 2 ^ 46 + 2 ^ 31
theorem witness_RequestsServed :
    (∀ type ∈ [1, 2, 3, 4], let k := reqPkt type 0 4 [1, 2, 3, 4]
     let d := pktIn k live
     d.clocked = true ∧ pktOf d (.die 0) 0 = some { k with src := 0 } ∧ pktOf (portPkt k false 0 live) (.port 2) 0 = some k ∧ k.dst = d.position ∧
     k.vc = 0 ∧ k.type = type ∧ k.epoch = d.epoch ∧
     d.pageOn .fab = true ∧ k.reqBytes = 4 ∧ (k.body.drop 16).take k.reqBytes = bytesLE 4 0x04030201 ∧ fld k.ext 35 2 < 2) ∧
    (off .fab live).pageOn .fab = false ∧ (0x8000 ≤ (0xFFFF + 65536 - 0) % 65536) ∧ ¬ 0x8000 ≤ (1 + 65536 - 0) % 65536 ∧
    spotCode live (2 ^ 39) = (0, 1, 0) ∧ spotCode live (2 ^ 39 - 3) = (0, 1, 0) ∧ spotCode live (2 ^ 39 - 4) = (1, 2 ^ 39 - 4, 0) ∧ spotCode live (2 ^ 47) = (0, 8, 0) ∧
    spotCode (fence (.mem 7) live) (2 ^ 39 - 4) = (0, 3, 0) ∧ live.mirrorsOf (2 ^ 39 - 4) 4 = [] ∧
    spotCode live (2 ^ 46 + 0xFFFFFC) = (2, 0, 0xFFFFFC) ∧ spotCode live spadA = (3, 0, 0) ∧
    (let d := withCells 0 ((live.setPreg (.pool 0) 0x84 0x1000000).setPreg (.pool 0) 0x80 0)
     d.poolSpanServed 0 0xFFFFFC 4 = true ∧ d.poolSpanServed 0 0xFFFFFD 4 = false) ∧
    (let d := withPut 0x47FFC none
     (d.tile 0).inWindow 0x47FFC 4 = true ∧ (live.tile 0).inWindow 0x47FFC 4 = false ∧ (d.tile 0).lwatch.get? 63 = none) := by decide

def rplTo (type w1 : Nat) (body : List Byte) : Pkt :=
  { type := type, vc := 1, dst := 0, src := 5, rs := 0, ttl := 1, epoch := 0, w1 := w1, body := body }
def outReq (issuer : Issuer) (type left : Nat) : OutReq :=
  { tid := 3, issuer := issuer, type := type, addr := 0, epoch := 0, left := left, parts := ⟨[]⟩ }
/-- A reply to a known tid, with one and with two replies to come, for each issuer; one to an unknown tid; and packets to forward. -/
theorem witness_RepliesAndForwarding :
    (∀ type ∈ [5, 6, 7], let k := rplTo type 3 (List.replicate 16 1)
     let d := { pktIn k live with outReqs := [outReq .rq (if type = 6 then 2 else 1) 1] }
     d.clocked = true ∧ pktOf d (.die 0) 1 = some { k with src := 0 } ∧ k.dst = d.position ∧ k.vc = 1 ∧ k.epoch = d.epoch ∧ (d.reqOf k.tid).isSome = true ∧
     (pktIn k live).reqOf k.tid = none) ∧
    (outReq (.put 0 false) 2 1).left ≤ 1 ∧ 1 < (outReq (.stream 0 5 0) 1 2).left ∧ (outReq .rq 1 1).parts.get? 0 = none ∧
    ({ outReq .rq 1 1 with parts := (outReq .rq 1 1).parts.set 0 [1] }.parts.get? 0).isSome = true ∧
    (let far := { wrPkt with dst := 9, ttl := 1 }
     let d := (portPkt far false 0 live).setPreg .fab 0x804 0x23
     let d' := d.setFport 3 { Fport.reset with state := .active }
     pktOf d (.port 2) 0 = some far ∧ far.typeOk = true ∧ far.dst ≠ d.position ∧ far.ttl ≠ 0 ∧ d.routeOf far.rs far.dst (some 2) = none ∧
     d'.routeOf far.rs far.dst (some 2) = some (3, false) ∧ ({ far with ttl := 0 } : Pkt).ttl = 0 ∧ ({ far with type := 11 } : Pkt).typeOk = false ∧
     ({ far with type := 10, vc := 3 } : Pkt).typeOk = true ∧ ({ far with vc := 1 } : Pkt).vc ≠ 0 ∧
     ({ far with dst := 0, type := 10, vc := 3 } : Pkt).dst = d.position) := by decide

/-- An epoch that activates a staged position and an override, one that activates nothing; a probe that is answered and one that is not; an idle and a
busy RQ. -/
theorem witness_FabricManagement :
    (let d := ((live.setPreg .fab 0x8C 1).setPreg .fab 0x84 0x00010007).setPreg .fab 0x804 0x000100E3
     d.pageAnswers .fab = true ∧ d.rsl.snap = none ∧ d.fabWait = [] ∧ d.collQ = [] ∧ d.colls.cells = [] ∧ d.outReqs = [] ∧
     bit (d.preg .fab 0x8C) 0 = true ∧ fld (d.preg .fab 0x84) 16 16 = 1 ∧ bit (d.preg .fab 0x804) 5 = true ∧ bit (d.preg .fab 0x804) 6 = true ∧
     fld (d.preg .fab 0x804) 16 16 = 1) ∧
    (outReq .rq 1 1).tid / 2048 ≠ 16 ∧
    (let d := { live.setPreg .fab 0x804 0x123 with tko := Tbl.empty.set 0 1 }
     d.pageAnswers .fab = true ∧ d.clocked = true ∧ (∀ j, j < 64 → (d.probing j = true ↔ j = 0)) ∧ d.tko.get? 0 = some 1 ∧
     fld (jetPkt 6 1 []).jetFields 0 8 = 1 ∧ fld (jetPkt 6 1 []).jetFields 8 6 = 0 ∧ (jetPkt 6 1 []).sub = 6 ∧ (jetPkt 5 1 []).sub = 5 ∧
     fld (jetPkt 6 1 []).jetFields 14 16 = fld (d.preg .fab 0x94) 0 16 ∧
     1 < max 1 (fld ((d.setPreg .fab 0xA0 0x02000000).preg .fab 0xA0) 24 4) ∧ max 1 (fld ((d.setPreg .fab 0xA0 0).preg .fab 0xA0) 24 4) ≤ 1) ∧
    (live.pageAnswers .fab = true ∧ bit (live.preg .fab 0xC8) 0 = false ∧ bit ((live.setPreg .fab 0xC8 1).preg .fab 0xC8) 0 = true ∧
     live.canRequest ((joinWords (live.preg .fab 0xBC) (live.preg .fab 0xB8)).toNat / 4 * 4 / 2 ^ 48 % 65536) = true) := by decide

/-! ### Collectives, commit, faults, recorder, power, host and start-up: witnesses -/

/-- Descriptor 0 of core 0: operation `op` over axis 0 of route set 0 (two positions, both live, root 1), one element, ready and done objects 0 and 1. -/
def withColl (op : Nat) (d : Dev) : Dev :=
  let w (d : Dev) (k v : Nat) : Dev := d.wr (collAddr 0 0 + 4 * k) (BitVec.ofNat 32 v)
  let d := w (w (w (w (w d 0 (1 + 2 * op + 1024)) 1 1) 2 0x10000) 4 0x20000) 6 0x30000
  let d := w (w (w (w d 9 0x80010000) 12 1) 13 2) 14 1
  let d := ((d.setPreg .fab 0x400 0x10).setPreg .fab 0x404 2).wr (objAddr 0 0) 1
  { d with hbm := d.hbm.writeBytes 0x30000 [3] }
def collIs (st : CollState) (issued : Bool) (wrote : Tbl Nat) (d : Dev) : Dev :=
  d.setColl 0 0 { CollRun.reset with state := st, issued := issued, wrote := wrote }

/-- A descriptor that may start, one with nothing ready, one that is refused, one that has its data, and one that lacks a word. -/
theorem witness_CollectiveDescriptors :
    (live.pageAnswers (.coll 0) = true ∧ (64#12).toNat / 64 = 1 ∧ (live.collRun 0 1).state ≠ .running ∧ halted.coreHalted 0 = true ∧
     live.coreHalted 0 = false) ∧
    (let d := (withColl 5 live).setPreg (.coll 0) 0x80 1
     let k := d.cdesc 0 0
     d.coreUp = true ∧ k.valid = true ∧ (d.collRun 0 0).state = .idle ∧ k.readyTarget.toNat = (d.objVal 0 k.readyObj).toNat ∧ d.collBusy 0 = false ∧
     d.fc.armed = false ∧ bit (d.preg (.coll 0) 0x80) 0 = true ∧ d.pageOn (.coll 0) = true ∧ d.isFenced (.core 0) = false ∧ d.collCode k = 0 ∧ k.op = 5 ∧
     k.root ≠ d.ownOrd k ∧ (d.wr (objAddr 0 0) 0).objVal 0 0 = 0 ∧ (d.wr (collAddr 0 0 + 4) 0).collCode ((d.wr (collAddr 0 0 + 4) 0).cdesc 0 0) = 1) ∧
    (∀ short : Bool, let d := collIs .running true (if short then ⟨[]⟩ else Tbl.empty.set 0 1) (withColl 5 live)
     let k := d.cdesc 0 0
     (d.collRun 0 0).state = .running ∧ (d.collRun 0 0).issued = true ∧
     ((∀ i, i < (d.dstSize k + 3) / 4 → (d.collRun 0 0).wrote.getD i 0 ≠ 0) ↔ short = false) ∧ (d.dstSize k + 3) / 4 = 1 ∧
     d.collOutstanding 0 0 = false ∧ k.op ≠ 0 ∧ k.op ≠ 3 ∧ k.op ≠ 6 ∧ k.doneEn = true) := by decide

/-- A COLL packet of position 1: sub `sub`, ordinal 1, block 0, part 0, nval 1, with its data. -/
def collPkt (sub : Nat) (data : List Byte) : Pkt :=
  { type := 8, vc := 0, dst := 0, src := 1, rs := 0, ttl := 1, epoch := 0, w1 := sub,
    body := bytesLE 16 (2 ^ 16 + 2 ^ 57) ++ pad16 data }
def subOf (op : Nat) : Nat := if op = 0 then 2 else if op = 1 then 4 else if op = 2 then 5 else 6
/-- A packet that fits its descriptor for every operation that takes one, at the first and at a later contribution, and one whose sub does not fit. -/
theorem witness_CollectivePackets :
    (∀ op ∈ [0, 1, 2, 4, 5], ∀ later : Bool, let p := collPkt (subOf op) (List.replicate 256 1)
     let d := (portPkt p false 0 (withColl op live)).setColl 0 0 { CollRun.reset with state := .running, count := if later then Tbl.empty.set 0 1 else ⟨[]⟩ }
     let k := d.cdesc 0 0
     d.clocked = true ∧ pktOf d (.port 2) 0 = some p ∧ p.dst = d.position ∧ p.vc = 0 ∧ p.type = 8 ∧ p.epoch = d.epoch ∧ d.pageOn .fab = true ∧ d.lcoreBound d.mapCore 0 = true ∧
     d.corePhys 0 = 0 ∧ d.isFenced (.core 0) = false ∧ d.pageOn (.coll 0) = true ∧ k.valid = true ∧ (d.collRun 0 0).state = .running ∧
     subFits k p.collSub = true ∧ d.inGroup k p.src = true ∧ d.ordinal k p.src = p.collOrd ∧ d.isLive k p.collOrd = true ∧
     ((d.collRun 0 0).cnt 0 0 = 0 ↔ later = false) ∧ p.collBlock = 0 ∧ p.collPart = 0 ∧ p.collData.length = 256 ∧ d.mirrorsOf 0x20000 256 = []) ∧
    (let k := (withColl 5 live).cdesc 0 0
     subFits k (collPkt 2 []).collSub = false ∧ subFits k (collPkt 7 []).collSub = false) ∧
    (∀ sub ∈ [0, 1, 3], subFits ((withColl 0 live).cdesc 0 0) sub = true) ∧ (collPkt 0 [0xFF, 0x7F]).collNval = 1 ∧
    (BitVec.ofNat 16 (ofBytesLE ((collPkt 1 [0xFF, 0x7F]).collData.take 2))).toInt = 32767 := by decide +kernel

def rslu (f : Rsl → Rsl) (d : Dev) : Dev := { d with rsl := f d.rsl }
def post0 (kind : Bool) (id : Word) : Post := { tile := 0, bg := false, kind := kind, id := id, value := 5, parity := false }
/-- Fingerprint entry 0, of one part. -/
def fgp (d : Dev) : Dev := ((d.wr (fgpAddr 0) 0x101).wr (fgpAddr 0 + 4) 1).wr (fgpAddr 0 + 8) 1
/-- The commit barrier 0 has released the one bound tile. -/
def due : Dev := rslu (fun r => { r with placed := [0] }) ((barOf 4 1).setPreg (.core 0) 0x100 0)
def hifu (f : Hif → Hif) (d : Dev) : Dev := { d with hif := f d.hif }
def bundle0 : HeldBundle := { step := 0, fore := List.replicate 64 1, nFps := 0, nRatios := 0, chans := [], nChans := 0, scalars := [] }
def delivering (tail : Nat) (d : Dev) : Dev := hifu (fun h => { h with held := [bundle0], dlvTail := tail }) (d.setPreg .hif 0x80 2)

theorem witness_CommitRecords : live.mainUp = true ∧
    (let d := { fgp live with posts := [post0 false 0] }
     (takeInOrder (fun (p : Post) => p.tile) d.posts 0).isSome = true ∧ d.fgpValid 0 = true ∧ d.fgpParts 0 = 1 ∧ fld (0#32) 8 24 = 0 ∧
     fld (0x100#32) 8 24 = 1 ∧ d.rsl.pieces.get? (pieceKey false 0 0) = none ∧
     (rslu (fun r => { r with pieces := r.pieces.set (pieceKey false 0 0) 5 }) d).rsl.pieces.get? (pieceKey false 0 0) = some 5 ∧
     (∀ c, c ∈ d.rsl.conflicts → c / 256 ≠ 0)) ∧
    (due.coreUp = true ∧ due.commitDue = true ∧ live.commitDue = false) ∧
    ({ live with baroFly := [(0, ⟨false, 0, 0, 1, 1, 1, 1⟩)] } : Dev).baroFly[0]?.isSome = true ∧
    (let d := rslu (fun r => { r with phase := .drain }) live
     d.rsl.phase = .drain ∧ d.pageOn .tel = true ∧ (∀ p, p ∈ d.posts → p.parity ≠ bit d.rsl.step 0) ∧ d.pageOn .rsl = true ∧
     (off .rsl d).pageOn .rsl = false ∧ (off .tel d).pageOn .tel = false) ∧ live.hif.held = [] ∧
    -- room at the tail, room after a pad, and no room
    ((delivering 0 live).bundle bundle0).length = 128 ∧ (delivering (2 ^ 24 - 128) (live.setPreg .hif 0x9C 0x1000)).dlvFits 128 = some false ∧
    (delivering 0 live).dlvFits 128 = some false ∧ (delivering (2 ^ 24 - 64) live).dlvFits 128 = none ∧
    (delivering (2 ^ 24 - 64) (live.setPreg .hif 0x9C 0x1000)).dlvFits 128 = some true ∧ (delivering 0 live).hif.heldReported = false := by decide +kernel

theorem witness_CommitEnds :
    (∀ acked ∈ [0, 6, 7], let d := rslu (fun r => { r with phase := .key, acked := acked }) live
     d.mainUp = true ∧ d.rsl.phase = .key ∧ (bit d.rsl.acked 0 = true ↔ acked = 7) ∧ d.rsl.keyErr = false ∧ d.outReqs.any OutReq.isKey = false ∧
     bit d.rsl.failed 0 = false ∧ d.pageAnswers .rsl = true ∧ bit (1#32) 0 = true ∧ d.pageOn .rsl = true ∧ d.hif.held = [] ∧ d.rsl.snap = none ∧
     (∀ x, x ∈ d.baroFly → x.2.parity ≠ false) ∧ d.preg .rsl 0xC0 = 0 ∧ d.rsl.keyWait = false ∧
     (rslu (fun r => { r with keyWait := true }) d).rsl.keyWait = true) ∧
    (BitVec.ofNat 28 ((Page.num 0).base + 0x88)).toNat = (Page.num 0).base + 0x88 ∧ live.pageAnswers (.num 0) = true ∧ live.coreHalted 0 = false ∧ halted.coreHalted 0 = true ∧
    live.corePhys 0 = 0 ∧ live.corePhys 1 ≠ 0 ∧
    (halted.allHalted = true ∧ live.allHalted = false ∧ halted.rsl.reruns < 3 ∧ 3 ≤ (rslu (fun r => { r with reruns := 3 }) halted).rsl.reruns) ∧
    (let r : SnapRun := { step := 0, image := Mem.empty, entry := 0, off := 0 }
     let d := rslu (fun x => { x with snap := some r }) live
     d.rsl.snap = some r ∧ d.outReqs.any OutReq.isSnap = false ∧ d.snapNextChunk r = none ∧
     ({ d with outReqs := [outReq (.snap 0) 2 1] } : Dev).outReqs.any OutReq.isSnap = true) := by decide

/-- The severity of source 1 of core 0's sync unit (FENCE of the core), of source 2 of the fabric page (FENCE without a unit). -/
def sev (p : Page) (s v : Nat) (d : Dev) : Dev := d.setPreg p blkSev0 (setFld (d.preg p blkSev0) (2 * s) 2 v)
def fltu (f : Flt → Flt) (d : Dev) : Dev := { d with flt := f d.flt }
theorem witness_FaultEvents :
    (∀ v : Fin 4, let d := sev (.sync 0) 1 v.val live
     pageOf (Page.index (.sync 0)) = some (.sync 0) ∧ d.mainUp = true ∧ d.pageAbsent (.sync 0) = false ∧ 1 < (Page.sync 0).nsrc ∧
     d.actSev (.sync 0) 1 = v.val ∧ (∀ j, j < 4 → fld (d.preg (.sync 0) (blkDew0 + 4 * j)) 0 12 = 0 ∨ fld (d.preg (.sync 0) (blkDew0 + 4 * j)) 12 5 ≠ 1) ∧
     d.pageOn .flt = true ∧ (off .flt d).pageOn .flt = false ∧ bit ((d.setPreg .flt 0x80 1).preg .flt 0x80) 0 = true ∧
     bit (d.preg (.sync 0) blkIntEn) 0 = true ∧ d.mc.reports.length < 64 ∧ d.evr.queue.length < 256 ∧ Page.unit (.sync 0) = some (.core 0) ∧
     d.fenceActive (.core 0) = false ∧ d.isFenced (.core 0) = false ∧ d.flt.queue.length < 16) ∧
    (∀ v ∈ [0, 3], (sev .flt 0 v live).actSev .flt 0 = v ∧ live.isRailed (.sync 0) 1 = false ∧
      (∀ j, j < 4 → fld (live.preg .flt (blkDew0 + 4 * j)) 0 12 = 0 ∨ fld (live.preg .flt (blkDew0 + 4 * j)) 12 5 ≠ 0)) ∧
    (fltu (fun f => { f with railed := f.railed.set (32 * Page.index (.sync 0) + 1) true }) live).isRailed (.sync 0) 1 = true ∧
    live.unitFenced (.core 0) = false ∧ (fence (.core 0) live).unitFenced (.tile 0) = true ∧ (fence (.core 0) live).fenceActive (.tile 0) = false ∧
    (fltu (fun f => { f with active := some { unit := (FUnit.core 0).code, ident := 0 } }) live).fenceActive (.core 0) = true ∧
    (sev .fab 2 2 live).actSev .fab 2 = 2 ∧ Page.unit .fab = none ∧ pageOf 7 = none ∧
    (let d := (live.setPreg (.sync 0) blkMask 2).setPreg (.sync 0) blkDew0 0x1001
     d.isMasked (.sync 0) 1 = true ∧ correctedUnit (.sync 0) 1 = none ∧ fld (d.preg (.sync 0) blkDew0) 0 12 = 1 ∧ fld (d.preg (.sync 0) blkDew0) 12 5 = 1) ∧
    (3 < (Page.tile 0).nsrc ∧ (live.tile 0).sel = some false ∧ live.tileLive 0 = true ∧ (live.tile 0).switching = 0 ∧ (live.ctx 0 false).halting = none ∧
     ¬ ((tl (fun x => { x with switching := 1 }) live).tile 0).switching = 0 ∧ (halted.tile 0).sel = none ∧ 0 < (Page.mem 0).nsrc ∧ 0 < Page.hif.nsrc) := by decide

def req (u : FUnit) : FenceReq := { unit := u.code, ident := 0 }
theorem witness_FenceComplete :
    (∀ u ∈ [FUnit.tile 0, .core 0, .mem 0, .port 0], let d := fltu (fun f => { f with active := some (req u) }) live
     d.flt.active = some (req u) ∧ FUnit.ofCode (req u).unit = some u) ∧
    (∀ u ∈ [FUnit.tile 0, .mem 0, .port 0], let d := fltu (fun f => { f with active := some (req u) }) live
     (d.fenceEffect u).evr.queue.length < 256 ∧ (d.fenceEffect u).ingress.cells = []) := by decide +kernel
theorem witness_Fences :
    (let d := fltu (fun f => { f with queue := [req (.tile 0)] }) live
     d.mainUp = true ∧ d.flt.active = none ∧ d.flt.queue = [req (.tile 0)]) ∧
    (let d := { live with ingress := live.ingress.set (2 * 0 + b2n false) (fly req0 (.tile 0 8)) }
     ((d.fenceEffect (.tile 0)).ingress.get? (2 * 0 + b2n false)).isSome = true) ∧
    (∀ fenced : Bool, let d0 := live.setPreg .flt 0x90 (BitVec.ofNat 32 (FUnit.mem 7).code)
     let d := if fenced then fence (.mem 7) d0 else d0
     d.pageAnswers .flt = true ∧ d.fltUnit = some (.mem 7) ∧ d.flt.health.getD (FUnit.mem 7).code 0 ≠ 2 ∧ d.fenceActive (.mem 7) = false ∧
     d.isFenced (.mem 7) = fenced ∧ d.unitFenced (.mem 7) = fenced ∧ d.evr.queue.length < 256 ∧ d.pageOn .flt = true ∧ (off .flt d).pageOn .flt = false ∧
     (∀ q, q ∈ d.flt.queue → q.unit ≠ (FUnit.mem 7).code) ∧ d.flt.queue.length < 16) ∧
    (live.setPreg .flt 0x90 (BitVec.ofNat 32 (FUnit.mem 8).code)).fltUnit = none ∧
    (fltu (fun f => { f with queue := List.replicate 16 (req (.tile 0)) }) live).flt.queue.length = 16 ∧
    (let d := { live with mc := { live.mc with stage := .hold, holdAck := true } }
     d.pageAnswers .flt = true ∧ d.mc.holdAck = true ∧ d.mc.booted = true ∧ d.pins.perstN = true ∧ d.mc.railLost = false ∧ d.mc.thermtrip = false ∧
     live.mc.holdAck = false) ∧ live.isRailed .flt 1 = false ∧ live.isRailed .flt 3 = false ∧ live.mc.stage ≠ .recovery ∧
    (fltu (fun f => { f with active := some (req (.mem 7)) }) live).fenceActive (.mem 7) = true ∧ Dev.reset.pageAnswers .flt = false := by decide +kernel

theorem witness_HealthAndReports :
    (live.pageAnswers .flt = true ∧ fld (0x4#32) 2 2 = 1 ∧ (∀ i, i < 16 → i ≠ 1 → fld (0x4#32) (2 * i) 2 ≠ 1) ∧ live.flt.health.getD (FUnit.tile 1).code 0 ≠ 2 ∧
     (fltu (fun f => { f with health := f.health.set 4 2 }) live).flt.health.getD (FUnit.tile 1).code 0 = 2) ∧
    (∀ clean ∈ [9998, 9999], let d := fltu (fun f => { f with chkDue := [0], health := f.health.set 0 1, clean := f.clean.set 0 clean }) live
     d.mainUp = true ∧ d.flt.chkDue = [0] ∧ d.flt.health.getD (FUnit.tile 0).code 0 = 1 ∧ d.flt.stained.getD (FUnit.tile 0).code false = false ∧
     d.flt.health.getD (FUnit.core (tileCore 0)).code 0 ≠ 1 ∧ d.evr.queue.length < 256 ∧
     (max 1 (fld (d.preg .flt 0xA8) 0 16) ≤ d.flt.clean.getD (FUnit.tile 0).code 0 + 1 ↔ clean = 9999)) ∧
    (∀ resends ∈ [1, 2], let r : Report := { ident := 0, minutes := 0, cycles := 0, flags := 0, seq := 9, resends := resends }
     ({ live with mc := { live.mc with reports := [r] } } : Dev).mc.reports.find? (fun r => r.seq == 9) = some r) := by decide

def evru (f : Evr → Evr) (d : Dev) : Dev := { d with evr := f d.evr }
def event0 (fixed : Bool) : EvrEvent :=
  { code := 1, page := 0, origin := 0, sev := 0, severe := false, minutes := 0, cycles := 0, data := [], fixed := fixed }
/-- Slots that begin a sector and that do not, the last free fixed slot and a full fixed area, the second and the third failure. -/
def fullTo : Nat → Tbl (List Byte)
  | 0 => Tbl.empty
  | n + 1 => (fullTo n).set n [0]
theorem fullTo_get (n k : Nat) (d : List Byte) (h : k < n) : (fullTo n).getD k d = [0] := by
  induction n with
  | zero => omega
  | succ n ih =>
    rw [fullTo, Tbl.getD_set]
    split
    · rfl
    · exact ih (by omega)
/-- A circular area without an erased slot. -/
def evrFull : Evr := { Evr.reset with circ := fullTo circSlots }
theorem evrFull_freeFrom (fuel n : Nat) (h : n < circSlots) : evrFull.freeFrom fuel n = none := by
  induction fuel generalizing n with
  | zero => rfl
  | succ fuel ih =>
    have full : evrFull.circAt n = [0] := fullTo_get _ _ _ h
    rw [Evr.freeFrom, full, ih _ (Nat.mod_lt _ (by decide))]
    rfl
theorem witness_noFreeSlot : evrFull.freeSlot = none := evrFull_freeFrom _ _ (by decide)
theorem witness_RecorderWrites :
    (∀ fixed : Bool, ∀ next ∈ [254, 255], ∀ slot ∈ [64, 65], let d := evru (fun v => { v with queue := [event0 fixed], ready := true, fixedNext := next, nextSlot := slot }) live
     d.evr.queue = [event0 fixed] ∧ d.evr.ready = true ∧ d.evr.dropsOwed = 0 ∧ (event0 fixed).code ≠ 0xF0 ∧ (event0 fixed).code ≠ 0x20 ∧
     d.evr.fixedFull = false ∧ (d.evr.fixedNext < 255 ↔ next = 254) ∧ (d.evr.nextSlot % 64 = 0 ↔ slot = 64) ∧ d.evr.circ.get? slot = none) ∧
    (∀ slot ∈ [63, 64, 65, 0], let d := evru (fun v => { v with nextSlot := slot }) live
     d.evr.freeSlot = some slot ∧ d.evr.circ.get? slot = none ∧ ((d.evr.nextSlot + 4223) % 4224 / 64 ≠ slot / 64 ↔ slot = 64 ∨ slot = 0)) ∧
    (1 + 1 < 3 ∧ 3 ≤ 2 + 1) ∧ live.pins.pwrOk = true ∧ Dev.reset.pins.pwrOk = false ∧ live.evr.ready = false := by decide

theorem witness_RecorderClear :
    (let d := evru (fun v => { v with ready := true, key := some [1], chal := some [2], denials := 7 }) live
     d.evr.ready = true ∧ d.pageAnswers .evr = true ∧ d.pageOn .evr = true ∧ d.evr.denials < 8 ∧ d.evr.key = some [1] ∧ d.evr.chal = some [2] ∧
     d.evr.queue.length < 256 ∧ 8 ≤ (evru (fun v => { v with denials := 8 }) d).evr.denials ∧ live.evr.key = none ∧ live.evr.chal = none ∧
     (List.replicate 32 (0#8)).length = 32 ∧ Dev.reset.pageAnswers .evr = false ∧ d.evr.freeSlot ≠ none ∧ d.mc.stage ≠ .recovery ∧
     ({ d with mc := { d.mc with stage := .recovery } } : Dev).mc.stage = .recovery) ∧
    (∀ bs : List Byte, hmac [1] bs = hmac [1] bs ∧ hmac [1] bs ≠ hmac [1] bs ++ [0]) := by
  refine ⟨by decide, fun bs => ⟨rfl, fun h => ?_⟩⟩
  have := congrArg List.length h
  simp at this

def pwru (f : Pwr → Pwr) (d : Dev) : Dev := { d with pwr := f d.pwr }
def temp0 (hot trip temp : Bool) : Dev := pwru (fun p => { p with
  hot := if hot then p.hot.set 0 true else p.hot
  tripOnce := if trip then p.tripOnce.set 0 true else p.tripOnce
  temp := temp }) live
theorem witness_ThermalAndClock :
    (live.pwr.temp = false ∧ live.pwr.ext = false ∧ live.mc.stage ≠ .off ∧ live.mc.thermtrip = false ∧ live.mainUp = true ∧ Dev.reset.mc.stage = .off ∧ live.drivesThrottle = false ∧
     (pwru (fun p => { p with temp := true }) live).drivesThrottle = true ∧ live.mainInReset = false ∧ Dev.reset.mainInReset = true ∧
     live.isRailed .pwr 1 = false ∧ live.isRailed .pwr 2 = false ∧ live.mc.stage ≠ .recovery) ∧
    (∀ armed : Bool, let d := pwru (fun p => { p with throttled := true }) (fcu (fun f => { f with armed := armed }) live)
     d.pwr.throttled = true ∧ d.pwr.caused = false ∧ d.fc.armed = armed) ∧
    (live.pageAnswers .pwr = true ∧ 575 ≤ fld (575#32) 0 12 ∧ fld (BitVec.ofNat 32 (profileClock 0)) 0 12 ≤ profileClock live.mc.profile) ∧
    (∀ hot temp : Bool, let d := temp0 hot true temp
     (∀ j, j < 46 → j ≠ 0 → d.sensor j < (if 38 ≤ j then 850 else 1000) ∧ d.pwr.hot.getD j false = false) ∧ d.pwr.failed.wf = true ∧ d.pwr.hot.wf = true ∧
     d.pwr.tripOnce.wf = true ∧ d.pwr.hot.getD 0 false = hot ∧ d.pwr.temp = temp ∧ d.pwr.tripOnce.getD 0 false = true ∧ 1200 ≤ (1200#12).toNat ∧
     d.evr.queue.length < 256 ∧ d.pwr.failed.getD 0 false = false ∧ d.pwr.throttled = false ∧ d.pwr.calm = .run ∧ d.pins.throttleLow = false) ∧
    (let d := sev .pwr 2 0 (sev .pwr 1 0 live)
     d.actSev .pwr 1 = 0 ∧ d.actSev .pwr 2 = 0 ∧ ∀ j, j < 4 → fld (d.preg .pwr (blkDew0 + 4 * j)) 0 12 = 0) := by decide

theorem witness_GustAndCalm :
    (∀ excess : Bool, ∀ run ∈ [3, 5], let d := pwru (fun p => { p with overBudget := run }) live
     let energy := List.replicate 18 0 ++ [if excess then 2 * profileLimit 0 + 1 else 2 * profileLimit 0]
     d.mainUp = true ∧ d.pwr.overBudget = run ∧ d.pwr.power = false ∧
     (2 * profileLimit d.mc.profile < ((List.range 19).map fun i => energy.getD i 0).sum ↔ excess = true)) ∧
    (let d := halted
     d.pageAnswers .pwr = true ∧ d.pageOn .pwr = true ∧ d.pwr.calm = .run ∧ d.allHalted = true ∧ d.stages.cells = [] ∧
     (d.colls.cells.all fun c => c.2.state != .running) = true ∧ d.fc.armed = false ∧ bit (d.preg .tmb 0x80) 0 = false ∧
     (∀ p, p < 12 → bit (d.preg (.fport p) 0x80) 0 = false) ∧ live.allHalted = false ∧ (off .pwr d).pageOn .pwr = false) ∧
    (∀ c ∈ [CalmState.entering, .calm, .waking], (pwru (fun p => { p with calm := c }) live).mainUp = true) ∧ live.pins.throttleLow = false ∧ (live.ports.get? 2).isSome = false ∧
    (∀ k, k < 46 → live.sensor k < if 38 ≤ k then 950 else 1050) ∧
    (live.refreshing = true ∧ live.windowOf 0 = false ∧ live.fc.debt.getD 0 0 < 8 ∧ 8 ≤ (fcu (fun f => { f with debt := f.debt.set 0 8 }) live).fc.debt.getD 0 0 ∧
     (let d := (fcu (fun f => { f with armed := true, slots := [opened 0 false] }) live).wr (0x40000 + 16) 3
      (d.wr (0x40000 + 20) 1).windowOf 0 = true) ∧ (pwru (fun p => { p with calm := .calm }) live).refreshing = false) := by decide

/-- Ring 63 with 64 commands and 64 completions. -/
def ringCfg (en : Bool) (d : Dev) : Dev := d.setPreg .hif (0x410 + 32 * 63) (BitVec.ofNat 32 (0x060600 + b2n en))
def ringIs (x : Ring) (d : Dev) : Dev := hifu (fun h => { h with rings := h.rings.set 63 x }) d
def cpl0 : Completion := { tag := 0, status := 0, page := none, value := 0, irq := false }
theorem witness_HostRings :
    (let d := ringCfg true live
     d.mc.stage.full = true ∧ 2 ^ fld (d.preg .hif (0x410 + 32 * 63)) 8 5 = 64 ∧ 2 ^ fld (d.preg .hif (0x410 + 32 * 63)) 16 5 = 64 ∧
     (63#32).toNat < 64 ∧ 64 ≤ (64#32).toNat ∧ Dev.reset.mc.stage.full = false ∧ d.pageAnswers .hif = true ∧ bit (d.preg .hif (0x410 + 32 * 63)) 0 = true ∧
     ((0x060600#32 &&& 0x001F1F01#32) ^^^ d.preg .hif (0x410 + 32 * 63)) &&& 0x001F1F00#32 = 0 ∧
     ((0x060701#32 &&& 0x001F1F01#32) ^^^ d.preg .hif (0x410 + 32 * 63)) &&& 0x001F1F00#32 ≠ 0) ∧
    (bit ((ringCfg false live).preg .hif (0x410 + 32 * 63)) 0 = false ∧ 6 ≤ fld (0x100601#32) 8 5 ∧ fld (0x100601#32) 16 5 ≤ 16 ∧ ¬ fld (0x110601#32) 16 5 ≤ 16 ∧
     ¬ 6 ≤ fld (0x100501#32) 8 5) ∧
    (∀ head ∈ [0, 1], let d := ringIs { Ring.reset with cplTail := 63, heldCpl := some cpl0 } (ringCfg true live)
     let x := d.hif.rings.getD 63 Ring.reset
     x.heldCpl = some cpl0 ∧ ((x.cplTail + 1) % 64 = head ↔ head = 0)) ∧
    (let d := ringIs { Ring.reset with heldCpl := some cpl0 } (ringCfg false live)
     (d.hif.rings.getD 63 Ring.reset).heldCpl = some cpl0 ∧ bit (d.preg .hif (0x410 + 32 * 63)) 0 = false) ∧
    (let d := (ringIs { Ring.reset with irqPending := 1 } live).setPreg .hif (0x414 + 32 * 63) 0x01000000
     0 < (d.hif.rings.getD 63 Ring.reset).irqPending ∧ fld (d.preg .hif (0x414 + 32 * 63)) 24 8 ≠ 0) ∧
    (let d := hifu (fun h => { h with pages := h.pages.set 0 { ResultPage.reset with claimed := true, valid := true, seq := 5 } }) live
     (d.hif.pages.getD 0 ResultPage.reset).valid = true ∧ (d.hif.pages.getD 0 ResultPage.reset).seq = 5) := by decide

def fetching (d : Dev) : Dev := ringIs { Ring.reset with tail := 1 } ((ringCfg true d).setPreg .hif 0x80 1)
def cmdOf (b len : Nat) : HostCmd := { cmd0 with b := BitVec.ofNat 64 b, len := BitVec.ofNat 64 len }
theorem witness_HostCommands :
    (let d := fetching live
     let x := d.hif.rings.getD 63 Ring.reset
     d.mc.stage.full = true ∧ d.pageOn .hif = true ∧ bit (d.preg .hif 0x80) 0 = true ∧ bit (d.preg .hif (0x410 + 32 * 63)) 0 = true ∧ x.fetchErr = false ∧
     x.waiting = none ∧ x.copy = none ∧ x.heldCpl = none ∧ x.head ≠ x.tail ∧ d.mc.thermtrip = false ∧ d.coreUp = true ∧ d.realign = false ∧ d.hopBusy (d.corePhys 0) = false ∧ (x.cplTail + 1) % 64 ≠ x.cplHead ∧
     (hifu (fun h => { h with pages := h.pages.set 0 { ResultPage.reset with claimed := true } }) d).hif.pages.getD 0 ResultPage.reset =
       { ResultPage.reset with claimed := true } ∧ (d.hif.pages.getD 0 ResultPage.reset).claimed = false) ∧
    -- no reserved bit; the last four bytes of HBM, and a span over two stacks; the limits of a READ
    (let c := cmdOf (2 ^ 39 - 4) 4
     ¬ (fld c.flags 2 6 ≠ 0 ∨ fld c.page 12 4 ≠ 0 ∨ c.rsv ≠ 0) ∧ c.b.toNat % 4 = 0 ∧ c.len.toNat % 4 = 0 ∧ c.a.toNat % 4 = 0 ∧ 4 ≤ c.len.toNat ∧
     c.b.toNat / 2 ^ 48 = live.position ∧ c.b.toNat % 2 ^ 48 < 2 ^ 39 ∧ c.b.toNat / 2 ^ 36 = (c.b.toNat + (4 - 1)) / 2 ^ 36 ∧
     (2 ^ 36 - 4) / 2 ^ 36 ≠ (2 ^ 36 - 4 + (8 - 1)) / 2 ^ 36 ∧ live.isFenced (.mem (c.b.toNat / 2 ^ 36 % 8)) = false ∧
     (fence (.mem 7) live).isFenced (.mem (c.b.toNat / 2 ^ 36 % 8)) = true ∧ fld badCmd.flags 2 6 = 0 ∧ badCmd.rsv ≠ 0) ∧
    (let d := live.setPreg (.core 0) 0x100 0
     ¬ d.boundCount d.mapCore ≤ fld (0#64) 16 3 ∧ d.boundCount d.mapCore ≤ fld (0x10000#64) 16 3 ∧ d.isFenced (.core 0) = false) ∧
    (∀ eq : Bool, let w : HostCmd := { cmd0 with a := if eq then 0x2000000 else 0, value := 1, timeout := 1 }
     let d := ringIs { Ring.reset with waiting := some w } live
     (d.hif.rings.getD 63 Ring.reset).waiting = some w ∧ bit w.a 25 = eq ∧ d.objVal 0 0 = 0 ∧ (d.wr (objAddr 0 0) 1).objVal 0 0 = loWord w.value ∧ w.timeout ≠ 0) ∧
    -- a spoilt read and a good one; a copy of 8,192 bytes that has moved one segment; a command of stopped clocks
    (let h : HostRead := { cmd := cmdOf 0 8192, bad := some 4095 }
     (∃ k, h.bad = some k ∧ k < min 8192 (4096 - 0 % 4096)) ∧ (readOf (cmdOf 0 4)).bad = none ∧ live.mirrorsOf 0 4096 = []) ∧
    (let y : CopyRun := { cmd := cmdOf 0 12288, kind := .fill, off := 4096, counted := true }
     let d := ringIs { Ring.reset with tail := 1, head := 1, copy := some y } (ringCfg true live)
     (d.hif.rings.getD 63 Ring.reset).copy = some y ∧ 4 ≤ y.segLen ∧ d.isFenced (.mem 0) = false ∧ d.mirrorsOf 4096 4096 = [] ∧
     (∀ q, q < 63 → (d.hif.rings.getD q Ring.reset).copy = none) ∧ y.off + 4096 < y.cmd.len.toNat) ∧
    (pwru (fun p => { p with calm := .calm }) live).coreUp = false ∧ cmd0.rsv < 2 ^ 160 ∧
    (let x := { Ring.reset with tail := 1, cplHead := 1 }
     (x.cplTail + 1) % 64 = x.cplHead) := by decide

theorem witness_noMirror (a n : Nat) : live.mirrorsOf a n = [] := by
  have : live.mirrorsOf a n = (List.range 64).filterMap fun _ => none := rfl
  rw [this]
  simp
theorem witness_HostWindow :
    (live.pageAnswers .hif = true ∧ bit (live.preg .hif 0x80) 1 = false ∧ bit (2#32) 1 = true ∧ live.mc.stage.full = true ∧ live.pageOn .hif = true ∧
     live.anyRun = true ∧ halted.anyRun = false ∧ live.pins.perstN = true ∧ live.mc.stage ≠ .off ∧ live.mc.railLost = false ∧ live.hbm.wf = true ∧ live.coreUp = true ∧
     (pwru (fun p => { p with calm := .calm }) live).coreUp = false ∧ (pwru (fun p => { p with calm := .calm }) live).mc.stage.full = true) ∧
    (let base := fld ((live.setPreg .hif 0x88 448).preg .hif 0x88) 0 9 * 2 ^ 30
     base + (2 ^ 36 - 1) = 2 ^ 39 - 1) ∧
    (let base := fld ((live.setPreg .hif 0x88 511).preg .hif 0x88) 0 9 * 2 ^ 30
     2 ^ 39 ≤ base + 2 ^ 30) ∧ (fence (.mem 7) live).isFenced (.mem ((2 ^ 39 - 1) / 2 ^ 36)) = true := by decide

/-- FC_COUNT takes 1 to 4,096, SYNC_BAR_SEL's row 0 to 11. -/
theorem witness_RegisterWrites : live.mc.stage ≠ .off ∧
    (∀ v ∈ [0, 1, 4096, 4097], ∀ f ∈ ((Page.row? .tmb 0x208).map fun r => r.caps).getD [],
      (f.least ≤ fld (BitVec.ofNat 32 v) f.lo f.len ∧ fld (BitVec.ofNat 32 v) f.lo f.len ≤ f.most) ↔ v = 1 ∨ v = 4096) ∧
    (∀ v ∈ [0, 11, 12, 15], ∀ f ∈ ((Page.row? (.sync 0) 0xC0).map fun r => r.caps).getD [],
      (f.least ≤ fld (BitVec.ofNat 32 (256 * v)) f.lo f.len ∧ fld (BitVec.ofNat 32 (256 * v)) f.lo f.len ≤ f.most) ↔ v ≤ 11) ∧
    ((Page.row? (.sync 0) 0xC0).map fun r => r.caps.length) = some 1 ∧ ((Page.row? .tmb 0x208).map fun r => (r.caps.length, r.wide)) = some (1, none) ∧
    (live.guardOk .tmb .disarmed = true) ∧ (Page.row? .tmb 0x214).map (fun r => r.wide) = some (some true) ∧
    (Page.row? .tmb 0x210).map (fun r => r.wide) = some (some false) ∧ (2#28).toNat % 4 ≠ 0 ∧ placeOf (0xFFC00#28).toNat = .reserved ∧ 2 ^ 26 ≤ (0x4000000#28).toNat ∧
    (placeOf 0x1088 = .page .pwr 0x88 ∧ placeOf 0x4220 = .page .tmb 0x220 ∧ live.pageAnswers .tmb = true ∧ Page.hasReg .tmb 0x220 = true ∧ (Page.row? .tmb 0x220).isSome = true) ∧
    (∀ p ∈ [Page.tile 0, .sync 0, .mem 0, .glb], placeOf ((p.base + blkCtrl) / 0x1000 * 0x1000 + blkCtrl) = .page p blkCtrl ∧ live.pageAnswers p = true) ∧
    live.softOk (.sync 0) = some false ∧ halted.softOk (.sync 0) = some true ∧ live.softOk (.debug 0) = none ∧ live.pageUp .flt = true ∧
    ({ live with softBusy := [Page.index .flt] } : Dev).softBusy.contains (Page.index .flt) = true ∧ bit (2#32) 1 = true := by decide

def mcu (f : Mc → Mc) (d : Dev) : Dev := { d with mc := f d.mc }
def pin (pwr perst : Bool) (d : Dev) : Dev := { d with pins := { d.pins with pwrOk := pwr, perstN := perst } }
theorem witness_PowerAndReset :
    (∀ a b : Bool, (pin a b live).pins.pwrOk = a ∧ (pin a b live).pins.perstN = b) ∧
    (live.mc.booted = true ∧ live.mc.railLost = false ∧ live.mc.holdAck = false ∧ live.mc.thermtrip = false ∧ live.mc.stage ≠ .recovery) ∧
    (mcu (fun m => { m with railLost := true }) live).mc.railLost = true ∧ live.mainUp = true ∧ Dev.reset.mainUp = false ∧ Dev.reset.mainInReset = true ∧ Dev.reset.pins.pwrOk = false ∧
    (live.mc.booted = true ∧ live.mc.stage ≠ .recovery) ∧
    (evru (fun v => { v with ready := true }) live).evr.ready = true ∧ live.evr.queue.length < 256 := by decide

theorem witness_StartUpStages :
    (∀ st ∈ [Stage.mcBoot, .fuse, .sramInit, .hbmTrain, .hbmZero, .tileFw, .hostEn, .ready, .failed, .recovery, .hold], ∀ sel : Bool,
      let d := mcu (fun m => { m with stage := st, booted := false, bootSel := sel }) live
      d.mc.stage = st ∧ d.mc.booted = false ∧ d.mc.bootSel = sel ∧ d.mc.failedStore = [] ∧ d.pins.pwrOk = true ∧ d.pins.perstN = true ∧
      d.evr.queue.length + 8 < 256) ∧
    (let i : FwImage := { signed := true, keyDigest := live.fuses.keyDigest, security := live.fuses.minSecurity, size := 2 ^ 22, version := 1 }
     let f (a b : Option FwImage) : BootFlash := { activeB := false, a := a, b := b, bad := [] }
     (f (some i) none).bad = [] ∧ (f (some i) none).a = some i ∧ i.signed = true ∧ i.keyDigest = live.fuses.keyDigest ∧ live.fuses.minSecurity ≤ i.security ∧
     i.size ≤ 2 ^ 22 ∧ (f none (some i)).a = none ∧ (f none (some i)).b = some i ∧ (f none none).a = none ∧ (f none none).b = none) ∧
    FUnit.ofCode (FUnit.port 11).code = some (.port 11) ∧
    (let d := sev .flt 5 0 live
     d.coreEnabled (tileCore 0) = true ∧ d.isSpare 0 = false ∧ d.actSev .flt 5 = 0 ∧
     (∀ j, j < 4 → fld ((d.setPreg .flt blkDew0 0).preg .flt (blkDew0 + 4 * j)) 0 12 = 0)) := by decide

theorem witness_MemoryStaysCanonical : ∃ s', step (st State.reset.dev) = .next s' := ⟨_, rfl⟩

/-! ### The other families: results of one command -/

-- R227, R228: the bytes and the count of a PUT; R231: outside the window nothing is stored.
theorem test_put_arrival : ((after (withPut 0x100 (some 3)) (.putArrival 0)).tile 0).spad.readBytes 0x100 4 = [1, 2, 3, 4] ∧
    ((after (withPut 0x100 (some 3)) (.putArrival 0)).tile 0).lc 3 = 1 := by decide
theorem test_put_outside : ((after (withPut 0x47FFD none) (.putArrival 0)).tile 0).spad.get 0x47FFD = 0 := by decide
-- R233: the reader gets the word that was there, the held write follows.
theorem test_pool_window : ((after poolRead (.poolWindowClose 0 1)).ctx 0 false).rs 6 = 0 ∧ ((after poolRead (.poolWindowClose 0 1)).ctx 0 false).pend = [] ∧
    ((after poolRead (.poolWindowClose 0 1)).poolMem 0).get 0x40 = 1 := by decide
-- R79: a halted context starts.
theorem test_ctx_run : ((after halted (.ctxRunWrite 0 1)).tile 0).fg.run = true ∧ ((after halted (.ctxRunWrite 0 1)).tile 0).sel = some false := by decide
-- R264: the whole KiB is one segment, and its stage has then issued everything.
theorem test_segment_grant : (after (copying copyRun) (.segmentGrant 0)).segs = [copySeg] ∧
    (after (copying copyRun) (.segmentGrant 0)).stageRun 0 5 = some { copyRun with iter := 1 } := by decide
-- R286, R290.
theorem test_queue_arrival : ((after (arriving (.tile 0 0) queued) (.queueArrival 0)).tile 0).qCount 0 = 2 := by decide
theorem test_queue_absent : (after (arriving (.tile 0 0) live) (.queueArrival 0)).ctr (.queue 0) 0xB8 = 1 := by decide
-- R311: one read-modify-write, the prior value to sD.
theorem test_sync_add :
    let d := after (syncIn (.tile 0 false) (.add 1 5 (some (0, false, 6))) ((cx (fun c => { c with pend := [.s 6] }) live).wr (objAddr 0 1) 7)) (.syncOpApply 0)
    d.objVal 0 1 = 12 ∧ (d.ctx 0 false).rs 6 = 7 ∧ (d.ctx 0 false).pend = [] := by decide
theorem test_sync_cas_fails : (after (syncIn (.tile 0 false) (.cas 1 1 5 none) live) (.syncOpApply 0)).objVal 0 1 = 0 := by decide
-- R327: a row barrier of one tile is complete with its first arrival; R330: a second one is excess.
theorem test_barrier_row : (after (syncIn (.tile 0 false) arrival (barOf 1 1)) (.barrierArrive 0)).round 0 0 0 = 1 := by decide
theorem test_barrier_excess : bit ((after (syncIn (.tile 0 false) arrival (barOf 1 0)) (.barrierArrive 0)).preg (.sync 0) blkSticky) 2 = true := by decide
-- R368, R710; one tick is one ft (log entry 3).
theorem test_timebase_lost : (after live .timebaseLost).tmb.state = .lost := by decide
def stepped (d : Dev) : Dev := match step (st d) with
  | .next s => s.dev
  | _ => d
theorem test_tick : (stepped live).tmb.time8 = 8 := by decide +kernel
-- R373, R376: arming fails with code 1 without a record, and succeeds at 10,000 ft ahead; slot 0 opens at its time.
theorem test_arm : (after live .fcArm).fc.err = 1 ∧ (after (table false (good live)) .fcArm).fc.armed = true := by decide +kernel
theorem test_slot_open : (after (begun [] (table false (live.setPreg (.core 0) 0x100 0))) .slotOpen).fc.slots.length = 1 := by decide +kernel
-- R412.
theorem test_link_detect : ((after (lnk (fun x => { x with state := .detect }) live) (.signalDetect ⟨2, true⟩)).fport 2).state = .equalize := by decide
-- R432: a write stores and answers; R427: an address that names nothing is answered ERR alone.
theorem test_wr : (after (pktIn (reqPkt 2 8 4 [1, 2, 3, 4]) live) (.wr (.die 0))).hbm.word 8 = 0x04030201 := by decide
theorem test_wr_unmapped : (after (pktIn (reqPkt 2 (2 ^ 39) 4 [1, 2, 3, 4]) live) (.wr (.die 0))).hbm = Mem.empty := by decide
-- R467: refused with the code of a count of 0.
theorem test_coll_refused :
    let d := (withColl 5 (live.setPreg (.coll 0) 0x80 1)).wr (collAddr 0 0 + 4) 0
    ((after d (.collStart 0 0)).collRun 0 0).state = .refused ∧ ((after d (.collStart 0 0)).collRun 0 0).code = 1 := by decide
-- R555, R556: the sticky bit and the count.
theorem test_fault_counts :
    let d := after (sev (.sync 0) 1 0 live) (.faultEvent (BitVec.ofNat 13 (Page.index (.sync 0))) 1 0)
    bit (d.preg (.sync 0) blkSticky) 1 = true ∧ d.flt.cnt.getD (32 * Page.index (.sync 0) + 1) 0 = 1 := by decide
-- R568: the oldest fence starts.
theorem test_fence_starts : (after (fltu (fun f => { f with queue := [req (.tile 0)] }) live) .fenceSequence).flt.active = some (req (.tile 0)) := by decide
-- R587: minutes do not wrap.
theorem test_minutes_stop : (after (evru (fun v => { v with minutes := 0xFFFFFFFF }) live) .minuteTick).evr.minutes = 0xFFFFFFFF := by decide
-- R612.
theorem test_throttle : (after live .throttleExt).pwr.throttled = true ∧ (after live .throttleExt).ctr .pwr 0xB0 = 1 := by decide
-- R609: the cycles of core 3, none for a port.
theorem test_grant_spent : (after live (.grantSpent 3 7)).ctr .pwr 0xA8 = 7 ∧ (after live (.grantSpent 8 7)).ctr .pwr 0xA8 = 0 := by decide
-- R631: the window; FF beyond the installed memory.
theorem test_bar2 : (after live (.bar2Write 0 [7])).hbm.get 0 = 7 ∧
    (after (live.setPreg .hif 0x88 511) (.bar2Read 0x40000000 ⟨1, false⟩)).sent = [.readData [0xFF]] := by decide +kernel
-- R642, R643: a NOP completes with its value.
theorem test_ring_nop : ((after (fetching live) (.cmdNop 63 1 cmd0)).hif.rings.getD 63 Ring.reset).head = 1 ∧
    (after (fetching live) (.cmdNop 63 1 cmd0)).sent.length = 1 := by decide
-- R680, R682: FLT_SEL stores its field; R16: FLT_UNIT takes the identities of R558 alone.
theorem test_register_write : (after live (.registerWrite .bar0 0x2098 4 0xFFFFFFFF)).preg .flt 0x98 = 0x1FFF ∧
    (after live (.registerWrite .bar0 0x2090 4 0xFFFFFFFF)).preg .flt 0x90 = 0 := by decide
theorem test_misaligned_write : (after live (.registerWrite .bar0 0x2092 4 1)).preg .flt 0x90 = 0 := by decide
-- R662, R671.
theorem test_power_up : (after Dev.reset (.powerUp 2 2 false ⟨0, 3⟩)).mc.stage = .mcBoot ∧ (after Dev.reset (.powerUp 2 2 false ⟨0, 3⟩)).mc.profile = 2 := by decide
theorem test_sram_init : (after (mcu (fun m => { m with stage := .sramInit }) live) .sramInit).mc.stage = .hbmTrain := by decide

end Sys2Proof.Tests
end

section
/-! SUPPORT. How a tile takes a trap (R74 to R78): a command that is a slot offers its bundle, the issue check answers a trap, the context
stops. The lemmas follow the definitions from the tile's updates up to the command. -/

namespace Sys2Proof.Machine

/-! ### One tile and the counters change -/

/-- `e` is the package `d` with tile `t` as `x`, and with other counts. -/
def Dev.retiled (d e : Dev) (t : Nat) (x : Tile) : Prop := d.becomes e t x { d with ctrs := e.ctrs }

theorem Dev.retiled_modTile (d : Dev) (t : Nat) (f : Tile → Tile) : d.retiled (d.modTile t f) t (f (d.tile t)) :=
  Dev.becomes_modTile t f rfl

theorem Dev.retiled_self (d : Dev) (t : Nat) : d.retiled d t (d.tile t) := Dev.becomes_self d t

theorem Dev.retiled_bumpAlways (d : Dev) (p : Page) (o n t : Nat) : d.retiled (d.bumpAlways p o n) t (d.tile t) :=
  ⟨rfl, rfl, fun _ _ => rfl⟩

theorem Dev.retiled.trans {d e f : Dev} {t : Nat} {x y : Tile} (h : d.retiled e t x) (g : e.retiled f t y) : d.retiled f t y := by
  obtain ⟨he, -, hothers⟩ := h
  obtain ⟨hf, hy, gothers⟩ := g
  exact ⟨hf.trans (by rw [he]), hy, fun u hu => (gothers u hu).trans (hothers u hu)⟩

theorem Dev.retiled.tile {d e : Dev} {t : Nat} {x : Tile} (h : d.retiled e t x) : e.tile t = x := h.2.1

/-! ### A counted cycle -/

theorem Dev.retiled_countCycle (d : Dev) (t off : Nat) : d.retiled (d.countCycle t off) t (d.tile t) := by
  unfold Dev.countCycle
  split
  · exact (Dev.retiled_bumpAlways ..).trans (Dev.retiled_bumpAlways ..)
  · exact Dev.retiled_self d t

/-! ### A context stops (R58, R59, R76, R223) -/

@[simp] theorem Tile.flushAll_ctx (x : Tile) (bg : Bool) : x.flushAll.ctx bg = x.ctx bg := rfl
@[simp] theorem Tile.flushAll_sel (x : Tile) : x.flushAll.sel = x.sel := rfl

theorem Dev.retiled_switchTo (d : Dev) (t : Nat) (bg : Bool) :
    d.retiled (d.switchTo t bg) t
      { d.tile t with sel := some bg, switching := 4, fg := { (d.tile t).fg with stall := 0, ringWait := 0 },
                      bg := { (d.tile t).bg with stall := 0, ringWait := 0 } } := by
  have hsel := d.retiled_modTile t fun x =>
    { x with sel := some bg, switching := 4, fg := { x.fg with stall := 0, ringWait := 0 }, bg := { x.bg with stall := 0, ringWait := 0 } }
  unfold Dev.switchTo
  simp only
  split
  · have hcount := hsel.trans (Dev.retiled_bumpAlways _ (.tile t) cntSwitch 1 t)
    rwa [hsel.tile] at hcount
  · exact hsel

/-- A selected context that has stopped is left. -/
theorem Dev.retiled_reselect {d : Dev} {t : Nat} {bg : Bool} (hsel : (d.tile t).sel = some bg) (hrun : (d.ctx t bg).run = false) :
    d.retiled (d.reselect t) t ((d.tile t).left bg) := by
  unfold Dev.reselect Tile.left
  simp only [hsel, hrun, Bool.false_eq_true, if_false]
  by_cases hother : ((d.tile t).ctx (!bg)).run = true
  · simp only [Dev.ctx, hother, if_true]
    exact d.retiled_switchTo t (!bg)
  · simp only [Dev.ctx, hother, Bool.false_eq_true, if_false]
    exact d.retiled_modTile t fun x => { x with sel := none, switching := 0 }

/-- The tile with context `bg` stopped and the buffer flushed (R223). -/
def Tile.stopped (x : Tile) (bg : Bool) : Tile :=
  (x.mod bg fun c => { c with run := false, stall := 0, ringWait := 0, waits := [], halting := none }).flushAll

theorem Dev.retiled_endRun (d : Dev) (t : Nat) (bg : Bool) : d.retiled (d.endRun t bg) t ((d.tile t).stopped bg) :=
  d.retiled_modTile t fun x => x.stopped bg

theorem Dev.retiled_stopCtx {d : Dev} {t : Nat} {bg : Bool} (hsel : (d.tile t).sel = some bg) :
    d.retiled (d.stopCtx t bg) t (((d.tile t).stopped bg).left bg) := by
  have hend := d.retiled_endRun t bg
  have hleft : (d.endRun t bg).retiled (d.stopCtx t bg) t (((d.endRun t bg).tile t).left bg) :=
    Dev.retiled_reselect (by rw [hend.tile]; simpa [Tile.stopped, Tile.mod] using hsel)
      (by simp [Dev.ctx, hend.tile, Tile.stopped, Tile.mod])
  rw [hend.tile] at hleft
  exact hend.trans hleft

/-! ### A trap is taken (R76) -/

/-- TRAP: the cause, the bundle index and the valid bit as one number. -/
theorem packFields_trap {cause : Nat} (pc : Nat) (h : cause < 2 ^ 16) :
    (packFields 32 [(0, cause), (16, pc % 1024), (31, 1)] : Word) = BitVec.ofNat 32 (cause + pc % 1024 * 2 ^ 16 + 2 ^ 31) := by
  have hpc : pc % 1024 < 1024 := Nat.mod_lt _ (by decide)
  generalize pc % 1024 = n at hpc ⊢
  have hlow : 2 ^ 16 * n + cause = 2 ^ 16 * n ||| cause := Nat.two_pow_add_eq_or_of_lt h n
  have hvalid : 2 ^ 31 * 1 + (2 ^ 16 * n + cause) = 2 ^ 31 * 1 ||| (2 ^ 16 * n + cause) := Nat.two_pow_add_eq_or_of_lt (by omega) 1
  have hsum : cause + n * 2 ^ 16 + 2 ^ 31 = 2 ^ 31 * 1 ||| (2 ^ 16 * n ||| cause) := by rw [← hlow, ← hvalid]; omega
  rw [hsum, BitVec.ofNat_or, BitVec.ofNat_or]
  simp [packFields, Nat.mul_comm, BitVec.or_comm]

/-- The tile after a trap of its context `bg`, as `State.traps` has it. -/
def Tile.trapped (x : Tile) (bg : Bool) (cause : Nat) (info : Word) : Tile :=
  ((x.mod bg fun c =>
    { c with run := false, stall := 0, ringWait := 0, waits := [], halting := none, trapInfo := info,
             trap := BitVec.ofNat 32 (cause + c.pc % 1024 * 2 ^ 16 + 2 ^ 31) }).flushAll).left bg

/-- The package with a trap of context `bg` recorded and the context stopped, before PROGRAM_TRAP is raised. -/
def Dev.trapStopped (d : Dev) (t : Nat) (bg : Bool) (cause : Nat) (info : Word) (pc : Nat) : Dev :=
  (d.modCtx t bg fun c => { c with trap := packFields 32 [(0, cause), (16, pc % 1024), (31, 1)], trapInfo := info }).stopCtx t bg

theorem Dev.takeTrap_eq (d : Dev) (t : Nat) (bg : Bool) (cause : Nat) (info : Word) (pc : Nat) :
    d.takeTrap t bg cause info pc = ((d.trapStopped t bg cause info pc).raise (.tile t) 0).slotEvent 5 := rfl

theorem Dev.retiled_trapStopped {d : Dev} {t : Nat} {bg : Bool} {cause : Nat} (info : Word) (hsel : (d.tile t).sel = some bg)
    (hcause : cause < 2 ^ 16) :
    d.retiled (d.trapStopped t bg cause info (d.ctx t bg).pc) t ((d.tile t).trapped bg cause info) := by
  have hrec := d.retiled_modTile t fun x => x.setCtx bg
    { x.ctx bg with trap := packFields 32 [(0, cause), (16, (d.ctx t bg).pc % 1024), (31, 1)], trapInfo := info }
  have hstop := Dev.retiled_stopCtx (bg := bg) (by rw [hrec.tile]; simpa using hsel)
  have h := hrec.trans hstop
  rw [hrec.tile, packFields_trap _ hcause] at h
  simpa only [Tile.trapped, Tile.stopped, Tile.mod, Tile.ctx_setCtx_same, Tile.setCtx_setCtx, Dev.ctx, Dev.trapStopped, Dev.modCtx,
    packFields_trap _ hcause] using h

/-! ### The issue check answers a trap -/

theorem Dev.fetchHits_of_off {d : Dev} {t : Nat} (bg : Bool) (pc : Nat) (hb : ∀ n < 4, bit (d.brkCtrl t n) 0 = false) :
    (List.range 4).filter (fun n => d.fetchHit t n bg pc) = [] :=
  filter_eq_nil_of _ _ fun n hn => Dev.fetchHit_of_off (hb n (List.mem_range.1 hn))

/-- A bundle whose check answers a trap leaves its context trapped. -/
theorem Dev.issueBundle_trap {d : Dev} {t : Nat} {bg : Bool} {sems : List SlotSem} {cause : Nat} {info : Word}
    (hsel : (d.tile t).sel = some bg) (hb : ∀ n < 4, bit (d.brkCtrl t n) 0 = false) (hcause : cause < 2 ^ 16) (hbrk : cause ≠ trapBreak)
    (hway : issueWay { d := d, t := t, bg := bg } (fld (d.preg (.tile t) 0x98) 0 11) (d.ctx t bg).pc none sems = .trap cause info) :
    ∃ e, d.issueBundle t bg sems = (e.raise (.tile t) 0).slotEvent 5 ∧ d.retiled e t ((d.tile t).trapped bg cause info) := by
  have hcount := d.retiled_countCycle t ((d.tile t).stallCounter bg [])
  have hctx : (d.countCycle t ((d.tile t).stallCounter bg [])).ctx t bg = d.ctx t bg := by simp only [Dev.ctx, hcount.tile]
  have hstop := Dev.retiled_trapStopped info (by rw [hcount.tile]; exact hsel) hcause
  rw [hctx, hcount.tile] at hstop
  have hc : ({ d := d, t := t, bg := bg } : View).c = d.ctx t bg := rfl
  refine ⟨_, ?_, hcount.trans hstop⟩
  unfold Dev.issueBundle
  simp only [hc, Dev.fetchHits_of_off bg _ hb, List.find?_nil, hway, if_true, if_neg hbrk, Dev.takeTrap_eq]

/-- R74: a PC at or beyond the limit is answered FETCH_BOUNDS whatever the slots are. -/
theorem issueWay_fetch (v : View) {limit pc : Nat} (sems : List SlotSem) (h : limit ≤ pc) :
    issueWay v limit pc none sems = .trap trapFetch (BitVec.ofNat 32 pc) := by
  simp [issueWay, h]

/-! ### The last slot of a bundle offers it -/

/-- The package once the collected slots of tile `t` are on their way to issue. -/
def Dev.bundleTaken (d : Dev) (t : Nat) : Dev := if (d.tile t).slots = [] then d else d.modTile t fun x => { x with slots := [] }

/-- What the slots that tile `t` has collected, and `i` as the last one, ask for and do. -/
def Dev.bundleSems (d : Dev) (t : Nat) (bg : Bool) (i : Instr) : List SlotSem :=
  ((d.tile t).slots ++ [i]).filterMap fun j => (semOf j.decoded).map fun f => f { d := d.bundleTaken t, t := t, bg := bg }

theorem Dev.retiled_bundleTaken (d : Dev) (t : Nat) : d.retiled (d.bundleTaken t) t { d.tile t with slots := [] } := by
  unfold Dev.bundleTaken
  split
  next h =>
    have hself : ({ d.tile t with slots := [] } : Tile) = d.tile t := by rw [← h]
    rw [hself]
    exact d.retiled_self t
  next => exact d.retiled_modTile t _

@[simp] theorem Dev.bundleTaken_tileLive (d : Dev) (t u : Nat) : (d.bundleTaken t).tileLive u = d.tileLive u := by
  unfold Dev.bundleTaken; split <;> rfl
@[simp] theorem Dev.bundleTaken_preg (d : Dev) (t : Nat) (p : Page) (o : Nat) : (d.bundleTaken t).preg p o = d.preg p o := by
  unfold Dev.bundleTaken; split <;> rfl
@[simp] theorem Dev.bundleTaken_brkCtrl (d : Dev) (t u n : Nat) : (d.bundleTaken t).brkCtrl u n = d.brkCtrl u n := by
  simp [Dev.brkCtrl]
@[simp] theorem Dev.bundleTaken_ctx (d : Dev) (t : Nat) (bg : Bool) : (d.bundleTaken t).ctx t bg = d.ctx t bg := by
  simp only [Dev.ctx, (d.retiled_bundleTaken t).tile]; rfl

/-- The last slot of a bundle, at a tile whose selected context `bg` may issue, offers the bundle of all its slots. -/
theorem Dev.runSlot_offers {d : Dev} {t : Fin 1632} {bg : Bool} (i : Instr) (hlive : d.tileLive t = true)
    (hsel : (d.tile t).sel = some bg) (hsw : (d.tile t).switching = 0) (hhalt : (d.ctx t bg).halting = none) :
    d.runSlot (lone t) i = (d.bundleTaken t).issueBundle t bg (d.bundleSems t bg i) := by
  have htile := (d.retiled_bundleTaken t).tile
  have hoffer : d.runSlot (lone t) i = (d.bundleTaken t).offerBundle t fun v =>
      ((d.tile t).slots ++ [i]).filterMap fun j => (semOf j.decoded).map fun f => f v := rfl
  rw [hoffer]
  simp [Dev.offerBundle, hlive, htile, hsel, hsw, hhalt, Dev.bundleSems]

/-! ### A command that is a slot -/

/-- A command that names a place to execute joins the bundle there and does nothing else (R55, R62). -/
theorem exec_slot {i : Instr} {a : At} (s : State) (h : i.at? = some a) : exec i s = .next (s.on fun d => d.runSlot a i) := by
  cases i <;> cases h <;> rfl

/-- A bundle whose check answers a trap makes its context trap. -/
theorem State.traps_of_issueWay {s : State} {t : Fin 1632} {bg : Bool} {i : Instr} {cause : Nat} {info : Word}
    (hslot : i.at? = some (lone t)) (hlive : s.dev.tileLive t = true) (hsel : (s.dev.tile t).sel = some bg)
    (hsw : (s.dev.tile t).switching = 0) (hhalt : (s.dev.ctx t bg).halting = none)
    (hb : ∀ n < 4, bit (s.dev.brkCtrl t n) 0 = false) (hcause : cause < 2 ^ 16) (hbrk : cause ≠ trapBreak)
    (hway : issueWay { d := s.dev.bundleTaken t, t := t, bg := bg } (fld (s.dev.preg (.tile t) 0x98) 0 11) (s.dev.ctx t bg).pc none
      (s.dev.bundleSems t bg i) = .trap cause info) :
    s.traps t bg i cause info := by
  have htaken := s.dev.retiled_bundleTaken t
  obtain ⟨e, htrap, hleft⟩ := Dev.issueBundle_trap (by rw [htaken.tile]; exact hsel) (by simpa using hb) hcause hbrk (by simpa using hway)
  rw [← Dev.runSlot_offers i hlive hsel hsw hhalt] at htrap
  rw [htaken.tile] at hleft
  obtain ⟨hrest, htile, hothers⟩ := htaken.trans hleft
  exact ⟨_, e, exec_slot s hslot, rfl, htrap, hrest, htile, hothers⟩

/-- Settles O22: the check of the fetch comes before everything that depends on the slots (R74, R78). -/
theorem fetchBounds : Obligations.FetchBounds := by
  unfold Obligations.FetchBounds
  intro s t bg i hslot hlive hsel hsw hhalt hb hlimit
  exact State.traps_of_issueWay hslot hlive hsel hsw hhalt hb (by decide) (by decide) (issueWay_fetch _ _ hlimit)

end Sys2Proof.Machine
end

section
/-! SUPPORT. What the S slot's arithmetic answers (R88, R93, R94, R97, R156, R197): each operation of the model as the word the spec
gives, then each command alone in the bundle of a ready context. -/

namespace Sys2Proof.Machine

/-! ### Words (R93, R94) -/

theorem ite_slt (a b x y : Word) : (if a.slt b then x else y) = if a.toInt < b.toInt then x else y := by simp [slt_eq_toInt]
theorem ite_ult (a b x y : Word) : (if a.ult b then x else y) = if a.toNat < b.toNat then x else y := by simp [ult_eq_toNat]
theorem flag32_beq (a b : Word) : flag32 (a == b) = if a = b then 1 else 0 := by simp [flag32]

theorem signExtend_eq_ofInt {n : Nat} (m : Nat) (x : BitVec n) : x.signExtend m = BitVec.ofInt m x.toInt := rfl

theorem ite_slt_signExtend {n : Nat} (hn : n ≤ 32) (a : Word) (imm : BitVec n) (x y : Word) :
    (if a.slt (imm.signExtend 32) then x else y) = if a.toInt < imm.toInt then x else y := by
  rw [ite_slt, BitVec.toInt_signExtend_of_le hn]

/-- LUI: twelve places to the left is a factor of 4,096. -/
theorem setWidth_shiftLeft_12 (imm : BitVec 20) : imm.setWidth 32 <<< 12 = BitVec.ofNat 32 (imm.toNat * 4096) := by
  apply BitVec.eq_of_toNat_eq
  simp [Nat.shiftLeft_eq]

/-! ### Two-dimensional addresses (R97) -/

/-- A 2D address: a row and a column, each modulo 2^16. -/
def pairWord (row col : Nat) : Word := BitVec.ofNat 32 (row % 65536 * 65536 + col % 65536)

theorem low_half_toNat (a : Word) : (a.extractLsb' 0 16).toNat = a.toNat % 65536 := by simp [BitVec.extractLsb'_toNat]

theorem high_half_toNat (a : Word) : (a.extractLsb' 16 16).toNat = a.toNat / 65536 := by
  have ha := a.isLt
  rw [BitVec.extractLsb'_toNat, Nat.shiftRight_eq_div_pow]
  omega

/-- The halves are added apart: no carry goes from the column into the row. -/
theorem add2d_eq_pairWord (a : Word) (dr dc : BitVec 16) :
    add2d a dr dc = pairWord (a.toNat / 65536 + dr.toNat) (a.toNat + dc.toNat) :=
  append_halves _ _ _ _ (by rw [BitVec.toNat_add, high_half_toNat]) (by rw [BitVec.toNat_add, low_half_toNat]; omega)

theorem add2d_halves (a b : Word) :
    add2d a (b.extractLsb' 16 16) (b.extractLsb' 0 16) = pairWord (a.toNat / 65536 + b.toNat / 65536) (a.toNat + b.toNat) := by
  rw [add2d_eq_pairWord, high_half_toNat, low_half_toNat]
  simp only [pairWord, Nat.add_mod_mod]

/-! ### One command alone in its bundle -/

section
variable {s : State} {t : Fin 1632} {bg : Bool} (h : s.ready t bg)
include h

/-- A slot whose meaning is the write of one scalar register. -/
theorem State.computes_scalar_of_sem {i : Instr} {f : View → SlotSem} {sD : BitVec 6} {v w : Word} (hslot : i.at? = some (lone t))
    (hf : semOf i.decoded = some f) (srcs : List Reg) (hsem : f (s.view t bg) = scalarSem (s.view t bg) sD srcs (some v)) (hw : v = w) :
    s.computes t bg i fun c => c.ws sD.toNat w :=
  hw ▸ State.computes_scalar h (exec_slot s hslot) hf srcs hsem

/-- A slot whose meaning is the write of one address register. -/
theorem State.computes_addr_of_sem {i : Instr} {f : View → SlotSem} {aD : BitVec 4} {v w : Word} (hslot : i.at? = some (lone t))
    (hf : semOf i.decoded = some f) (srcs : List Reg) (hsem : f (s.view t bg) = addrSem (s.view t bg) aD srcs v) (hw : v = w) :
    s.computes t bg i fun c => c.wa aD.toNat w :=
  hw ▸ State.computes_addr h (exec_slot s hslot) hf srcs hsem

/-- ALU with a function code that is not reserved. -/
theorem State.computes_alu (sD sA sB : BitVec 6) {fn : BitVec 8} {w : Word}
    (hw : aluFn fn.toNat ((s.dev.ctx t bg).rs sA.toNat) ((s.dev.ctx t bg).rs sB.toNat) = some w) :
    s.computes t bg (.alu (lone t) sD sA sB fn) fun c => c.ws sD.toNat w :=
  State.computes_scalar_of_sem h rfl rfl [rs sA, rs sB] (congrArg (scalarSem _ sD _) hw) rfl

/-- MUL with a function code that is not reserved. -/
theorem State.computes_mul (sD sA sB : BitVec 6) {fn : BitVec 8} {w : Word}
    (hw : mulFn fn.toNat ((s.dev.ctx t bg).rs sA.toNat) ((s.dev.ctx t bg).rs sB.toNat) = some w) :
    s.computes t bg (.mul (lone t) sD sA sB fn) fun c => c.ws sD.toNat w :=
  State.computes_scalar_of_sem h rfl rfl [rs sA, rs sB] (congrArg (scalarSem _ sD _) hw) rfl

theorem State.computes_nop (slot : Fin 4) : s.computes t bg (.nop (lone t) slot 0) fun c => c := by
  have hself : (s.dev.tile t).mod bg (fun c => c) = s.dev.tile t := Tile.setCtx_self ..
  unfold State.computes
  rw [hself]
  exact State.leaves_none h (exec_slot s rfl) rfl rfl rfl rfl rfl (.inl ⟨rfl, rfl⟩) rfl

/-- LTWR changes one entry of the layer table and no register. -/
theorem State.leaves_ltwr (sL sV : BitVec 6) :
    let c := s.dev.ctx t bg
    let x := s.dev.tile t
    s.leaves t (.ltwr (lone t) sL sV 0)
      (({ x with layer := x.layer.set ((c.rs sL.toNat).toNat % 256) (BitVec.ofNat 8 (c.rs sV.toNat).toNat) }).goto bg (c.pc + 1)) s.dev :=
  State.leaves_tile h (e := s.dev)
    (g := fun x => { x with layer := x.layer.set (fld ((s.view t bg).s sL) 0 8) (((s.view t bg).s sV).setWidth 8) })
    (exec_slot s rfl) rfl rfl rfl (fun _ hn => absurd hn List.not_mem_nil) rfl rfl rfl rfl rfl rfl

end

/-- Settles O2: what each function code answers (R93, R94) is the word that the lone slot writes to sD. -/
theorem scalarResults : Obligations.ScalarResults := by
  unfold Obligations.ScalarResults
  refine ⟨fun s t bg h sD sA sB => ?alu, fun s t bg h sD sA sB => ?mul,
    fun s t bg h sD sA => ⟨fun imm => ?imm, fun n => ?shift, fun imm => ?lui⟩⟩
  case alu =>
    have alu := @State.computes_alu s t bg h sD sA sB
    exact ⟨alu rfl, alu rfl, alu rfl, alu rfl, alu rfl, alu rfl, alu rfl, alu rfl,
      alu (congrArg some (ite_slt _ _ 1 0)), alu (congrArg some (ite_ult _ _ 1 0)), alu (congrArg some (flag32_beq _ _)),
      alu (congrArg some (ite_slt ..)), alu (congrArg some (ite_slt ..)),
      alu (congrArg some (ite_ult ..)), alu (congrArg some (ite_ult ..))⟩
  case mul =>
    have mul := @State.computes_mul s t bg h sD sA sB
    exact ⟨mul (congrArg some (mul_eq_ofInt ..)), mul (congrArg some (mul_high_signed ..)), mul (congrArg some (mul_high_unsigned ..))⟩
  case imm =>
    have zeroExtended : imm.setWidth 32 = BitVec.ofNat 32 imm.toNat := (BitVec.ofNat_toNat ..).symm
    exact ⟨State.computes_scalar_of_sem h rfl rfl [rs sA] rfl (congrArg _ (signExtend_eq_ofInt 32 imm)),
      State.computes_scalar_of_sem h rfl rfl [rs sA] rfl (congrArg _ zeroExtended),
      State.computes_scalar_of_sem h rfl rfl [rs sA] rfl (congrArg _ zeroExtended),
      State.computes_scalar_of_sem h rfl rfl [rs sA] rfl (congrArg _ zeroExtended),
      State.computes_scalar_of_sem h rfl rfl [rs sA] rfl (ite_slt_signExtend (by decide) _ imm 1 0)⟩
  case shift =>
    exact ⟨State.computes_scalar_of_sem h rfl rfl [rs sA] rfl rfl, State.computes_scalar_of_sem h rfl rfl [rs sA] rfl rfl,
      State.computes_scalar_of_sem h rfl rfl [rs sA] rfl rfl⟩
  case lui => exact State.computes_scalar_of_sem h rfl rfl [] rfl (setWidth_shiftLeft_12 imm)

/-- Settles O3: a 2D sum is a pair of sums, one of each half (R97); the other forms copy, add or only advance. -/
theorem addressResults : Obligations.AddressResults := by
  unfold Obligations.AddressResults
  refine ⟨fun s t bg h aD aA sD sA sB => ⟨fun imm => ?aaddi, fun dr dc => ?a2addi, ?amov, ?aread, ?a2set, ?aadd, ?a2add⟩,
    fun s t bg h sD sL sV => ⟨State.computes_nop h, ?ltrd, State.leaves_ltwr h sL sV⟩⟩
  case aaddi => exact State.computes_addr_of_sem h rfl rfl [ra aA] rfl (congrArg _ (signExtend_eq_ofInt 32 imm))
  case a2addi => exact State.computes_addr_of_sem h rfl rfl [ra aA] rfl (add2d_eq_pairWord ..)
  case amov => exact State.computes_addr_of_sem h rfl rfl [rs sA] rfl rfl
  case aread => exact State.computes_scalar_of_sem h rfl rfl [ra aA] rfl rfl
  case a2set => exact State.computes_addr_of_sem h rfl rfl [rs sA, rs sB] rfl (append_halves _ _ _ _ (low_half_toNat _) (low_half_toNat _))
  case aadd => exact State.computes_addr_of_sem h rfl rfl [ra aA, rs sB] rfl rfl
  case a2add => exact State.computes_addr_of_sem h rfl rfl [ra aA, rs sB] rfl (add2d_halves ..)
  case ltrd => exact State.computes_scalar_of_sem h rfl rfl [rs sL] rfl (signExtend_eq_ofInt 32 _)

end Sys2Proof.Machine
end
